-- ==== Sys2Proof/Config.lean ====
section
/-! DEFINITION. What an implementation fixes, and the free values: constants without a body, so that nothing can be
proved about which value they take (notes/assumptions/4). -/

namespace Sys2Proof.Config

/-- The free value of choice `tag` with index `i` at step number `oracle` (R8: "may" states a choice open to the
device). Every use reduces it modulo the number of permitted outcomes. -/
opaque free (oracle tag i : Nat) : Nat

/-- The approximated functions of R289: which of the permitted results the device returns, a fixed function of the form, the
type code and the operand's bits (R275). -/
opaque approx (form type operand : Nat) : Nat

/-- What ISO/IEC 21122 fixes and the manual does not repeat (R175, R176): the bytes of a JPEG XS precinct, from the frame's pixels, WIDTH, ROWS, the
profile, the precinct number, the truncation of each band and the bit-plane count coding method. The wavelet and the quantisation are in it. -/
opaque jxsPrecinct (pixels : List Nat) (width rows profile precinct : Nat) (trunc : List Nat) (method : Nat) : List Nat
/-- The standard's bit-plane count coding methods. -/
opaque jxsMethods : Nat
/-- Picture and slice headers. -/
opaque jxsHeader (width rows profile bpp : Nat) : List Nat
/-- Precinct count and band count of a picture. -/
opaque jxsShape (width rows profile : Nat) : Nat × Nat
/-- The pgroups of a row as a conforming decoder gives them for consecutive bytes of a frame's codestream; none where they do not hold the whole of
the codestream of the row's precinct. -/
opaque jxsLine (bytes : List (BitVec 8)) (width rows samp depth row : Nat) : Option (List (BitVec 8))

/-- A picture of this width, rows, frame period, sampling and depth lies within the profiles and levels of R175 (ISO/IEC 21122). -/
opaque jxsAllowed (width rows period samp depth : Nat) : Bool

/-- Falcon-1024 verification against the vendor key (R429). -/
opaque falconOk (message signature : List (BitVec 8)) : Bool
/-- Falcon-1024 signature with the device identity key (R431). -/
opaque falconSign (message : List (BitVec 8)) : List (BitVec 8)

/-- Reeve's real-time clock, in nanoseconds, when the card is made; it counts on from there through every reset (R398, R426). -/
opaque reeveClock : Nat
/-- The digest of the Reeve image that the card is delivered with (R431), byte by byte. -/
opaque reeveDigest (i : Nat) : BitVec 8

/-- Usable GDDR7 bytes once every channel is trained (R404). -/
def usableBytes : Nat := 180000000000
/-- Cores, quads and spans of the die (R16). -/
def cores : Nat := 192
def quads : Nat := 48
def spans : Nat := 12

end Sys2Proof.Config
end

