-- ==== Sys2Proof/Syntax.lean ====
section
/-! DEFINITION. The instructions: one constructor for each row of spec/opcode_table.json. S-words keep every field of
their layout (R222, R223), L-words every field of R225; the rows of device events and host actions take what the
world, or the device's free choice, supplies. Fields are numbers; WellFormed bounds them. -/

namespace Sys2Proof

/-- Layout SA (R222): [31] W, [23:18] sd, [17:12] sa, [11:6] sb, [5:0] func. -/
structure SA where
  w : Bool
  sd : Nat
  sa : Nat
  sb : Nat
  func : Nat
deriving DecidableEq, Repr

/-- Layout SI (R222): sd, sa, [11:0] imm12. -/
structure SI where
  w : Bool
  sd : Nat
  sa : Nat
  imm : Nat
deriving DecidableEq, Repr

/-- Layout SJ (R222): [23:21] COND, [20:0] signed word offset. -/
structure SJ where
  w : Bool
  cond : Nat
  off : Nat
deriving DecidableEq, Repr

/-- Layout SL (R222): [23:7] L-offset, [6:0] count - 1. -/
structure SL where
  w : Bool
  loff : Nat
  cnt : Nat
deriving DecidableEq, Repr

/-- Layout SM (R222): sd, [17:16] ORDK, [15:12] b, sb, [5:3] SCOPE, [2] SPACE, [1] reserved, [0] W64. -/
structure SM where
  w : Bool
  sd : Nat
  ordk : Nat
  b : Nat
  sb : Nat
  scope : Nat
  space : Nat
  res : Nat
  w64 : Nat
deriving DecidableEq, Repr

/-- The SM-shaped forms LNCH and GSET.TRIG (R223): sd, [17:16] reserved, [15:12] b, sb, [5:0] queue or threshold register. -/
structure SM6 where
  w : Bool
  sd : Nat
  res : Nat
  b : Nat
  sb : Nat
  low : Nat
deriving DecidableEq, Repr

/-- BRD (R223): [23:21] predicate, [20:11] signed word offset, [10:0] reconvergence offset. -/
structure SB where
  w : Bool
  p : Nat
  off : Nat
  xoff : Nat
deriving DecidableEq, Repr

/-- SREAD (R223): [23:16] destination, [15:12] reserved, [11:0] special-register number. -/
structure SP where
  w : Bool
  dst : Nat
  res : Nat
  num : Nat
deriving DecidableEq, Repr

/-- FENCE (R267): [23:22] kind, [21] U, [20:18] SCOPE, [17:13] MASK, [12:0] reserved. -/
structure SF where
  w : Bool
  kind : Nat
  u : Nat
  scope : Nat
  mask : Nat
  res : Nat
deriving DecidableEq, Repr

/-- A form whose every field is reserved: [23:0] as fetched (R223). -/
structure SR where
  w : Bool
  raw : Nat
deriving DecidableEq, Repr

/-- Layout SX (R222): an SA word and the second word's 32 bits. -/
structure SX where
  w : Bool
  sd : Nat
  sa : Nat
  sb : Nat
  func : Nat
  imm : Nat
deriving DecidableEq, Repr

/-- The fields of an L-word but its opcode (R225). -/
structure LF where
  w : Bool
  gp : Nat
  gn : Bool
  vd : Nat
  va : Nat
  vb : Nat
  vc : Nat
  ty : Nat
  rnd : Nat
  sat : Bool
  mod : Nat
  sub : Nat
  low : Nat
deriving DecidableEq, Repr

/-! The variants of the L forms, in ascending opcode order (R235). -/
inductive AddcVar | c | b deriving DecidableEq, Repr
inductive FmaVar | fma | fms | fnma | fnms deriving DecidableEq, Repr
inductive DivVar | q | rem deriving DecidableEq, Repr
inductive DotVar | acc | noacc deriving DecidableEq, Repr
inductive MinVar | num | prop deriving DecidableEq, Repr
inductive CmpVar | eq | ne | lt | le | gt | ge | ord | uno | ueq | une | ult | ule | ugt | uge deriving DecidableEq, Repr
inductive ClzVar | zero | sign deriving DecidableEq, Repr
inductive TrigVar | rad | pi deriving DecidableEq, Repr
/-- VCVT's source type code, opcode - 0x080 (R235). -/
structure SrcType where
  code : Nat
deriving DecidableEq, Repr
inductive HalfVar | lo | hi deriving DecidableEq, Repr
inductive ShfWidth | w32 | w16 | w8 | w4 deriving DecidableEq, Repr
inductive VoteVar | all | any | uni deriving DecidableEq, Repr
inductive PlogVar | and | or | xor | andn | orn | xnor | nand | nor deriving DecidableEq, Repr
inductive PmovVar | tov | fromv deriving DecidableEq, Repr
inductive RedOp | add | min | max | and | or | xor deriving DecidableEq, Repr
/-- The address spaces a form can name (R229, R230). -/
inductive Space | glb | scr | gang deriving DecidableEq, Repr
inductive AtomOp | add | sub | and | or | xor | min | max | xchg | inc | dec deriving DecidableEq, Repr
/-- ATOM's space, operation and NORET (R235). -/
structure AtomVar where
  space : Space
  op : AtomOp
  noret : Bool
deriving DecidableEq, Repr
inductive MldbFmt | i4 | n4 | i8 | n8 | e2m1 | e4m3 | e5m2 | bf16 | fp16 deriving DecidableEq, Repr
inductive MmaFmt | i4 | n4 | i8 | n8 | e2m1 | e4m3 | e4m3Fine | e5m2 | e5m2Fine | bf16 | fp16 deriving DecidableEq, Repr
inductive MacrdVar | f32 | cnt deriving DecidableEq, Repr

/-! What the event rows take. -/

/-- A workgroup barrier (by workgroup handle) or a gang barrier (by launch identifier and gang index) (R36, R257). -/
inductive BarRef | wg (g n : Nat) | gang (lid gi n : Nat) deriving DecidableEq, Repr

/-- A watched counter: a crew's guard slot (R261), a queue's gate or a node batch's gate (R362). -/
inductive WatchRef | guard (cid slot : Nat) | gate (queue : Nat) deriving DecidableEq, Repr

/-- A video packet with its UDP port and IP address of destination (R401): what R164 to R167 use of it. `segs` lists (row, first pixel, pgroup bytes)
of an ST 2110-20 packet, `code` is the piece of the codestream in an ST 2110-22 packet (R175). -/
structure VideoPacket where
  udp : Nat
  addr : Nat
  ts : Nat
  eseq : Nat
  segs : List (Nat × Nat × List Byte)
  code : List Byte
deriving DecidableEq, Repr

/-- A packet of an audio or ancillary flow (R174). -/
structure RecordPacket where
  udp : Nat
  addr : Nat
  ts : Nat
  eseq : Nat
  payload : List Byte
deriving DecidableEq, Repr

/-- A GPX header (R199). -/
structure GpxHeader where
  ver : Nat
  kind : Nat
  len : Nat
  seq : Nat
  ackn : Nat
  busy : Bool
  dctx : Nat
deriving DecidableEq, Repr

/-- The record that REPLAY names, by its SEQ, and the s-registers that the driver has changed in the saved state of a crew that waits at SYSC (R269,
R382). -/
structure Resumed where
  seq : Nat
  regs : List (Nat × Nat) := []
deriving DecidableEq, Repr

/-- A contribution record (R201). -/
structure GpxRecord where
  wr : Bool
  last : Bool
  ht : Nat
  daddr : Nat
  data : List Byte
deriving DecidableEq, Repr

/-- An ARRIVE payload (R201). -/
structure ArriveMsg where
  group : Nat
  frame : Nat
  pres : Nat
deriving DecidableEq, Repr

/-- A DECIDE payload (R201). -/
structure DecideMsg where
  group : Nat
  decision : Nat
  index : Nat
  frame : Nat
  pres : Nat
  bitmap : Nat
deriving DecidableEq, Repr

/-- Where one workgroup of a placement or restore goes: a core and, crew by crew, a partition and slot index (R17). -/
structure Place where
  core : Nat
  slots : List (Nat × Nat)
deriving DecidableEq, Repr

/-- How the current bring-up step ended (R397). -/
inductive StepResult | ok | degraded | failed (info : Nat) deriving DecidableEq, Repr

/-- A PTP Sync as the clock unit sees it: the master's time when it arrives (R398, R399). -/
structure PtpMsg where
  port : Nat
  domain : Nat
  masterTime : Nat
deriving DecidableEq, Repr

/-- A host access (R11, R395): which BAR, a byte offset, a size in bytes, a write with its data or a read; the requester that makes it (R101). -/
structure HostAccess where
  bar : Nat
  off : Nat
  size : Nat
  write : Bool
  data : Nat
  req : Nat
deriving DecidableEq, Repr

/-- The on-die arrays that R427 tests. -/
inductive ArrayKind | regFile | pool | stationary | accumulator | l2Slice | sampler deriving DecidableEq, Repr

/-- An error in an on-die array (R427): the array's kind and number (core, quad or slice), the row, whether it was corrected, and the
crew whose data it hit, if any. -/
structure ArrayErr where
  kind : ArrayKind
  unit : Nat
  row : Nat
  corrected : Bool
  crew : Option Nat
deriving DecidableEq, Repr

/-- One constructor for each row of spec/opcode_table.json, in the table's order. -/
inductive Instr where
  | saddR (a : SA)
  | saddI (a : SI)
  | ssub (a : SA)
  | smulR (a : SA)
  | smulI (a : SI)
  | smulhI (a : SA)
  | smulhN (a : SA)
  | sdivI (a : SA)
  | sdivN (a : SA)
  | sremI (a : SA)
  | sremN (a : SA)
  | sandR (a : SA)
  | sandI (a : SI)
  | sorR (a : SA)
  | sorI (a : SI)
  | sxorR (a : SA)
  | sxorI (a : SI)
  | sshlR (a : SA)
  | sshlI (a : SI)
  | sshrR (a : SA)
  | sshrI (a : SI)
  | ssraR (a : SA)
  | ssraI (a : SI)
  | sminI (a : SA)
  | sminN (a : SA)
  | smaxI (a : SA)
  | smaxN (a : SA)
  | ssetI (a : SA)
  | ssetN (a : SA)
  | sbit32 (a : SA)
  | sbit64 (a : SA)
  | sldiLo (a : SX)
  | sldiHi (a : SX)
  | sldiSx (a : SX)
  | baddR (a : SA)
  | baddI (a : SI)
  | bsetLo (a : SA)
  | bsetHi (a : SA)
  | bgetLo (a : SA)
  | bgetHi (a : SA)
  | bmov (a : SA)
  | sldN8 (a : SM)
  | sldI8 (a : SM)
  | sldN16 (a : SM)
  | sldI16 (a : SM)
  | sldN32 (a : SM)
  | sldI32 (a : SM)
  | sld64 (a : SM)
  | sst8 (a : SM)
  | sst16 (a : SM)
  | sst32 (a : SM)
  | sst64 (a : SM)
  | satomAdd (a : SM)
  | satomAnd (a : SM)
  | satomOr (a : SM)
  | satomXor (a : SM)
  | satomMin (a : SM)
  | satomMax (a : SM)
  | satomMinn (a : SM)
  | satomMaxn (a : SM)
  | satomXchg (a : SM)
  | scas (a : SM)
  | jmp (a : SJ)
  | jmpcEqz (a : SJ)
  | jmpcNez (a : SJ)
  | jmpcLtz (a : SJ)
  | jmpcGez (a : SJ)
  | call (a : SJ)
  | ret (a : SA)
  | brd (a : SB)
  | join (a : SR)
  | lrun (a : SL)
  | bar (a : SA)
  | gbar (a : SA)
  | peal (a : SA)
  | tget (a : SI)
  | twait (a : SA)
  | twaitPres (a : SA)
  | lnch (a : SM6)
  | lnchNb (a : SM6)
  | exit (a : SR)
  | gsetT (a : SA)
  | gsetF (a : SA)
  | gsetTrig (a : SM6)
  | gclr (a : SA)
  | binc (a : SA)
  | rgrp (a : SX)
  | rhom (a : SI)
  | sread (a : SP)
  | swrite (a : SI)
  | fence (a : SF)
  | yieldCrew (a : SR)
  | trap (a : SI)
  | sysc (a : SI)
  | brkpt (a : SI)
  | nop (a : SR)
  | sHint (op : Nat) (a : SR)
  | sIllegalOpcode (op : Nat) (a : SR)
  | vadd (f : LF)
  | vsub (f : LF)
  | vmul (f : LF)
  | vmulh (f : LF)
  | vmulw (f : LF)
  | vaddc (k : AddcVar) (f : LF)
  | vfma (k : FmaVar) (f : LF)
  | vdiv (k : DivVar) (f : LF)
  | vdot (k : DotVar) (f : LF)
  | vmin (k : MinVar) (f : LF)
  | vmax (k : MinVar) (f : LF)
  | vclamp (f : LF)
  | vmed3 (f : LF)
  | vabs (f : LF)
  | vneg (f : LF)
  | vsel (f : LF)
  | vlerp (f : LF)
  | vsad (f : LF)
  | vcmp (k : CmpVar) (f : LF)
  | vand (f : LF)
  | vor (f : LF)
  | vxor (f : LF)
  | vnot (f : LF)
  | vlop3 (f : LF)
  | vshl (f : LF)
  | vshr (f : LF)
  | vsra (f : LF)
  | vbfe (f : LF)
  | vbfi (f : LF)
  | vpopc (f : LF)
  | vclz (k : ClzVar) (f : LF)
  | vbrev (f : LF)
  | vprmt (f : LF)
  | vrcp (f : LF)
  | vrsq (f : LF)
  | vsqrt (f : LF)
  | vexp2 (f : LF)
  | vlog2 (f : LF)
  | vsin (k : TrigVar) (f : LF)
  | vcos (k : TrigVar) (f : LF)
  | vtanh (f : LF)
  | vfrc (f : LF)
  | vrnd (f : LF)
  | vclass (f : LF)
  | vldexp (f : LF)
  | vcvt (k : SrcType) (f : LF)
  | vpack (k : HalfVar) (f : LF)
  | vunpk (k : HalfVar) (f : LF)
  | vbqnt (f : LF)
  | vbscl (f : LF)
  | vmov (f : LF)
  | vmovi (f : LF)
  | vmovs (f : LF)
  | vshfl (k : ShfWidth) (f : LF)
  | vshfu (k : ShfWidth) (f : LF)
  | vshfd (k : ShfWidth) (f : LF)
  | vshfx (k : ShfWidth) (f : LF)
  | vvote (k : VoteVar) (f : LF)
  | vbal (f : LF)
  | vplog (k : PlogVar) (f : LF)
  | vpmov (k : PmovVar) (f : LF)
  | vred (k : RedOp) (f : LF)
  | vscanInc (k : RedOp) (f : LF)
  | vscanExc (k : RedOp) (f : LF)
  | vmatch (f : LF)
  | vld (k : Space) (f : LF)
  | vst (k : Space) (f : LF)
  | vsmp (f : LF)
  | atom (k : AtomVar) (f : LF)
  | cas (k : Space) (f : LF)
  | vfence (f : LF)
  | cpy (f : LF)
  | cseal (f : LF)
  | cwait (f : LF)
  | srd (f : LF)
  | swr (f : LF)
  | sstatGet (f : LF)
  | sstatSet (f : LF)
  | ralloc (f : LF)
  | rallocNb (f : LF)
  | rpush (f : LF)
  | qpop (f : LF)
  | mldb (k : MldbFmt) (f : LF)
  | smcp (f : LF)
  | mma (k : MmaFmt) (f : LF)
  | msca (f : LF)
  | macz (f : LF)
  | macrd (k : MacrdVar) (f : LF)
  | macwr (f : LF)
  | collAdd (f : LF)
  | collWr (f : LF)
  | trav (f : LF)
  | rast (f : LF)
  | rcq (f : LF)
  | rcqTrain (f : LF)
  | lHint (op : Nat) (f : LF)
  | lIllegalOpcode (op : Nat) (f : LF)
  | crewRetire (cid : Nat)
  | barrierTimeout (b : BarRef)
  | twaitWake (cid : Nat)
  | copyLeaveHead (cid : Nat)
  | copyLand (op lane : Nat)
  | passGrant (quad : Nat)
  | passComplete (quad : Nat) (mismatch : Bool) (row : Nat)
  | foldGrant (quad : Nat)
  | scaleUnitFill (quad : Nat)
  | mldbLeaveHead (cmd : Nat)
  | mldbCommit (cmd : Nat)
  | smcpCommit (cmd : Nat)
  | regroupRoundTimeout (round : Nat)
  | regroupCommit (round : Nat) (moved : Bool)
  | guardWatchRead (w : WatchRef)
  | rcqGrant (quad : Nat)
  | rcqComplete (quad : Nat)
  | travComplete (cmd : Nat)
  | rasteriseTriangle (cmd lane view : Nat)
  | rastReturn (cmd : Nat)
  | kilnStep (slot : Nat)
  | kilnSwitchDue (slot : Nat)
  | kilnSwitchWrite (slot : Nat)
  | rcuWritebackRetry (slot : Nat)
  | bindRco (slot value : Nat)
  | unbindRco (slot value : Nat)
  | unbindComplete (slot : Nat)
  | pauseKiln (value : Nat)
  | rxPacket (port : Nat) (p : VideoPacket)
  | rxRecordPacket (port : Nat) (p : RecordPacket)
  | lineDeadline (flow slot row : Nat)
  | jxsLineDecoded (flow seq row engine : Nat)
  | txRowDue (flow : Nat)
  | flowEnable (tx : Bool) (flow value : Nat)
  | flowDisable (tx : Bool) (flow value : Nat)
  | nodeBatchTimeout (node : Nat)
  | recordCopyLand (op : Nat)
  | collSend (cid : Nat)
  | gpxData (entry : Nat) (header payload : List Byte)
  | gpxAck (entry : Nat) (packet : List Byte)
  | gpxResendTimeout (entry : Nat)
  | arrive (entry : Nat) (header payload : List Byte)
  | decideMsg (entry : Nat) (header payload : List Byte)
  | pealCollectionClose (frame : Nat)
  | pealDecideResend (frame : Nat)
  | pealFrameStart (frame : Nat)
  | pealArm (value : Nat)
  | pealEnable (value : Nat)
  | peerRevalidate (entry value : Nat)
  | doorbell (queue value : Nat)
  | launchTake (queue : Nat)
  | launchSlackExpiry (lid : Nat)
  | workgroupPlace (lid : Nat) (places : List Place)
  | gangReserve (lid : Nat)
  | queueEnable (queue value : Nat)
  | queueDisable (queue value : Nat)
  | crfaultClear (queue : Nat)
  | poolEnable (pool value : Nat)
  | poolDisable (pool value : Nat)
  | nodeEnable (node value : Nat)
  | nodeDisable (node value : Nat)
  | hwqEnable (queue value : Nat)
  | hwqDisable (queue value : Nat)
  | trapRecordWrite (ctx : Nat)
  | trgetWrite (ctx value : Nat)
  | replay (ctx : Nat) (entry : Resumed)
  | killStop (ctx seq : Nat)
  | debugStop (ctx seq : Nat)
  | deferredMemoryError (line : Nat) (retired : Bool) (ctx slot : Nat)
  | eviction (core lid : Nat) (victims : List Nat)
  | saveComplete (wg : Nat)
  | saveFault (wg addr : Nat)
  | emergencyCopyDone (wg : Nat)
  | workgroupRestore (p : List Place) (wgs : List Nat)
  | restoreComplete (wg : Nat)
  | mmuInvalidate (value : Nat)
  | mmuInvalidateDone
  | scinvGo (quad value : Nat)
  | scinvDone (quad : Nat)
  | powerOnReset
  | bringupStepEnd (r : StepResult)
  | ptplockTimeout
  | ptpSync (m : PtpMsg)
  | ptpAnnounce (port domain : Nat)
  | ptpSyncLoss
  | holdoverExpiry
  | ptpcDisable
  | ptpcStep (value : Nat)
  | ethmodeSet (value : Nat)
  | portTrain (port value : Nat)
  | portTrainDone (port : Nat) (up : Bool)
  | portDisable (port value : Nat)
  | wallEnable (value : Nat)
  | badHostAccess (a : HostAccess)
  | hostMemoryAccess (a : HostAccess)
  | msixUnmask (vector : Nat)
  | registerWrite (a : HostAccess)
  | continueStop (ctx target : Nat)
  | stepS (ctx target : Nat)
  | stepL (ctx target : Nat)
  | commitDump (ctx target : Nat)
  | stopPartition (ctx target : Nat)
  | debugKill (ctx target : Nat)
  | debugRevoke (ctx value : Nat)
  | releaseTaint (ctx value : Nat)
  | icinvGo
  | icinvDone
  | capCounters (ctx : Nat)
  | clrCounters (ctx : Nat)
  | sensorSample (readings : List Nat) (levels : List Nat)
  | arrayError (e : ArrayErr)
  | rowTestDone (array row : Nat) (lasting : Bool)
  | updateCmd
  | kilnUpdateApply
  | retireCmd
  | quoteCmd
  | logreadCmd
  | reeveCommandDone
  | pendingWriteReturn (cid pid : Nat)
  | restoreFault (wg addr : Nat)
  | kilnUpdateDone
deriving DecidableEq, Repr

end Sys2Proof
end

