-- ==== Sys2Proof/Machine/State.lean ====
section
/-! DEFINITION. The state of the machine: everything the spec gives the device, as plain data (INVENTORY.md, State).
Tables keyed by number hold what exists only once something is placed, taken, bound or enabled. -/

namespace Sys2Proof.Machine

/-- Why a step stops. The device itself never stops: traps are next states. -/
inductive Fault where
  /-- An instruction of a crew was executed with no such crew in focus. Raised by the wrappers of crew meanings when
  State.focus names no crew; step never does so. Safe. -/
  | noCrew
  /-- An L-word was executed with no queued L-run in the focused crew. Raised by the wrapper of L meanings; step never
  does so. Safe. -/
  | noRun
deriving DecidableEq, Repr

/-- Why an instruction has no meaning here. -/
inductive Refusal where
  /-- The instruction of this mnemonic has no meaning yet. Raised by exec's arms only. Safe. -/
  | notModelled (mnemonic : String)
deriving DecidableEq, Repr

/-! ### Crews (01, 14, 18) -/

/-- The two streams of a crew. -/
inductive Stream | s | l deriving DecidableEq, Repr

/-- A thread's identity: launch, flat workgroup index, origin crew, origin lane (R24, ORIGIN). -/
structure Thread where
  lid : Nat
  wgi : Nat
  crew : Nat
  lane : Nat
deriving DecidableEq, Repr

/-- A position: S-PC and L position (L-offset of the run, index within it) or none (R29). -/
structure Pos where
  spc : VA
  lpos : Option (Nat × Nat)
deriving DecidableEq, Repr

/-- What a parked path is parked on, with the S-PC of its BAR or GBAR (R36, R38). -/
structure Park where
  gang : Bool
  n : Nat
  pc : VA
deriving DecidableEq, Repr

/-- A reconvergence-stack entry (R30). Links name the join entry by its identifier. -/
inductive Entry where
  | path (pc : VA) (mask : W32) (link : Option Nat) (age : Nat) (park : Option Park)
  | join (id : Nat) (pc : VA) (mask : W32) (count : Nat) (link : Option Nat)
deriving DecidableEq, Repr

/-! ### Memory order (04) -/

/-- Who makes an access (R81): a thread, an engine of the device (numbered by kind and object), a host processor or PCIe peer. -/
inductive Agent where
  | thread (t : Thread)
  | engine (n : Nat)
  | host (r : Nat)
deriving DecidableEq, Repr

/-- A byte of an access: its name, the write that a read of it returns (an inner none is what the byte held at first), the value that a write gives
it, and the part of the access that is single-copy atomic with it (0: it stands alone, R93). -/
structure EvByte where
  key : Nat
  rf : Option (Option Nat) := none
  wr : Option Byte := none
  unit : Nat := 0
deriving DecidableEq, Repr

/-- What an event of the memory order is: an access, a fence, a fence of kind SC (R78), or a point of R87's table that accesses precede. -/
inductive EvWhat | access | fence | sc | point deriving DecidableEq, Repr

/-- An event of the memory order (R78 to R87). Its place: the threads in whose program order it stands, its stream, the number of the event that
was next as it issued (`start`), that before which events of the other stream have ended for it (`seen`, R79), and, once it has ended, the stream
and event after which it precedes others (`fin`, R96). Then its class (R82), the page's kind (0 RC, 1 SO, 2 UO), its bytes, its ordering part (R83);
the threads that its crew slot holds (R144) and the size of its gang (0: none); the events that R87's table puts before it, the launch whose accesses
all come before it, the command and lane it belongs to if it moves data after its issue, the step that made it. `hb` and `hbScr` are the events that
happen before it, as sets of numbers: by any path, and by the paths that reach scratch (R83). -/
structure Ev where
  id : Nat
  thr : List Agent
  strm : Stream := .s
  start : Nat
  seen : Nat := 0
  fin : Option (Stream × Nat) := none
  what : EvWhat := .access
  cls : Nat := 0
  kind : Nat := 0
  bytes : List EvByte := []
  atomic : Bool := false
  acq : Bool := false
  rel : Bool := false
  scope : Nat := 0
  mask : Nat := 0
  u : Bool := false
  mates : List Agent := []
  gang : Nat := 0
  pre : List Nat := []
  whole : Option Nat := none
  op : Option (Nat × Nat) := none
  ins : Nat
  hb : Nat := 0
  hbScr : Nat := 0
deriving DecidableEq, Repr

/-- The coherence order of a byte (R90): what it held before any write, and the writes in their order. -/
structure Order where
  init : Byte
  ws : List Nat
deriving DecidableEq, Repr

/-- A load whose value may still be that of a later write (R88, R309): its read events, and how their bytes fill the destination (sign, first
register of a lane or of the S-stream, registers; 0 for a scalar). -/
structure Late where
  reads : List Nat
  sext : Bool
  dst : Nat
  regs : Nat
deriving DecidableEq, Repr

/-- An L-run (R27) with the s and b values as they stood when its LRUN issued; for the registers that had a pending S write then, the
values such writes have delivered (`sAlt`), and the writes that are still out (`sPend`) (R344); the memory event that was next then (R79). -/
structure LRun where
  loff : Nat
  count : Nat
  done : Nat
  mask : W32
  spc : VA
  sAt : Tbl W64
  sAlt : List (Nat × W64)
  bAt : Tbl VA
  sPend : List Nat := []
  since : Nat := 0
deriving DecidableEq, Repr

/-- A pending write (R343): destinations with the values they get (v keyed 32 * register + lane, p keyed 32 * predicate + lane,
s by register), whether the value is there to return, whether it has returned, whether it returns poison (R384); the destinations that
another write has reached too (`sc`, `vc`, `pc`: R345); whether it returned while its crew was stopped (R412); the loads it stands for; the RAST whose
accesses a marker that waits for it places (R185). -/
structure Pending where
  id : Nat
  strm : Stream
  vs : Tbl W32
  ps : Tbl Bool
  ss : Tbl W64
  ready : Bool
  returned : Bool
  poison : Bool
  pos : Pos
  sc : List Nat := []
  vc : List Nat := []
  pc : List Nat := []
  held : Bool := false
  late : List Late := []
  rast : Option Nat := none
deriving DecidableEq, Repr

/-- A guard slot (R261); a watch holds the counter's address, the threshold, the position of its GSET.TRIG, whether its last read failed,
and since when the counter stands at a value that reaches the threshold, with that value (R262); the time 0 says that it did so while the workgroup was
switched out (R261). -/
inductive Guard where
  | unbound
  | watch (addr : VA) (thr : Nat) (pos : Pos) (failed : Bool) (met : Option (Nat × Nat))
  | yes
  | no
deriving DecidableEq, Repr

/-- The pixels an SRD or SWR has claimed, and the lane values an SWR read at its issue (R169, R319). -/
structure SrdClaim where
  reg : Nat
  flow : Nat
  seq : Nat
  row : Nat
  col : Nat
  n : Nat
  fmt : Nat
  plate : Nat
  vd : Nat
  act : W32
  vals : Tbl Nat := []
deriving DecidableEq, Repr

/-- How a hardware work queue ended the wait of a QPOP (R209): no entry can come, the queue is no longer the context's, or poison. -/
inductive QFate | ended | gone | poisoned deriving DecidableEq, Repr

/-- What a crew waits for (R28, R35, R45, R260, R319, R137): a wait marker of a stream, a stall of one stream (a drain, a full table or queue), the
same word of a stream issued again by a crew that is not ready (a scratch line or copy batch), a record of a dry pool (R195), an empty
hardware work queue (R209), a time, a free entry of a launch queue for the record it has read, the line or
slot of pixels it has claimed, the emptying of its sub-queues after the checks of R139, a regroup round. -/
inductive Wait where
  | none
  | marker (st : Stream)
  | stall (st : Stream)
  | again (st : Stream)
  | dry
  | queue (q : Nat) (fate : Option QFate)
  | twait (t : Option Nat)
  | lnch (rec : List Byte)
  | pixels (c : SrdClaim)
  | checked
  | regroup (round : Nat)
deriving DecidableEq, Repr

/-- A trap as a rule raises it (R376, R378). -/
structure Trap where
  cls : Nat
  addr : Nat
  lanes : W32
  code : Nat
  detail : List (Nat × Nat × Nat)
deriving DecidableEq, Repr

/-- A stop of a crew (R377, R381): the trap, the position, whether the instruction stands in the S-stream, its length in bytes, its record
number once written, whether it awaits MMU_RESUME, and bytes 4 to 127 of the continuation records that follow its record (R379). -/
structure Stop where
  trap : Trap
  pos : Pos
  strm : Stream
  len : Nat
  recId : Nat
  seq : Option Nat
  waits : Bool
  conts : List (List Byte) := []
deriving DecidableEq, Repr

/-- A tile stamp being gathered (R418, R419): its crew, the copies that are its copy-ins and copy-outs, and the times. A stamp of kind 1
collects the copies before a crew's first MMA. -/
structure Stamp where
  cid : Nat
  lid : Nat
  wgi : Nat
  slotNo : Nat
  gen : Nat
  kind : Nat
  pt : Nat
  slot : Nat
  cinIssue : Nat
  cinLand : Nat
  opReady : Nat
  grant : Nat
  passDone : Nat
  coutIssue : Nat
  coutLand : Nat
  ins : List Nat
  outs : List Nat
  done : Bool
  closed : Bool
  cmd : Nat
deriving DecidableEq, Repr

/-- A crew slot with its crew (R17, R25, R30); `breakOnce` the streams whose next word passes its break bit once (R415), `lastIssue` the cycle
of the last issue, from which R35 counts, and `lastWord` that of its last L-word plus 1 (R341); `trigs` the acquire of a guard slot's trigger (R262). -/
structure Crew where
  g : Nat
  id : Nat
  part : Nat
  idx : Nat
  threads : Tbl Thread
  stack : List Entry
  nextJoin : Nat
  runs : List LRun
  s : Tbl W64
  b : Tbl VA
  v : Tbl W32
  p : Tbl W32
  guards : Tbl Guard
  bins : Tbl Nat
  pend : List Pending
  nextPid : Nat
  wait : Wait
  rotDue : Bool
  stop : Option Stop
  key : Nat
  ir : List Nat
  yielded : List Nat
  breakOnce : List Stream
  lastIssue : Nat := 0
  lastWord : Nat := 0
  trigs : Tbl (List Nat) := []
deriving DecidableEq, Repr

/-! ### Workgroups, gangs, launches (01, 03, 06, 21, 22) -/

/-- A barrier (R36): arrived threads, pending-byte counter, clock in ns since the first arrival, phase; the memory events that come before its
opening (R87). -/
structure Barrier where
  arrived : List Thread
  counter : Nat
  clock : Option Nat
  phase : Nat
  pre : List Nat := []
deriving DecidableEq, Repr

/-- A group register (R39): value at the epoch's start, writer crew slot and its latest value. -/
structure GReg where
  old : W64
  writer : Option Nat
  cur : W64
deriving DecidableEq, Repr

/-- A stream register (R168). -/
structure XReg where
  tx : Bool
  flow : Nat
  seq : Nat
  row : Nat
  col : Nat
  time : Nat
deriving DecidableEq, Repr

/-- A stationary-store slot (R119, R122, R126): format tag, density, signed aligned magnitudes by 128 k + c, column
exponents and bad flags by 128 j + c, checksum column by k. -/
structure Slot where
  tag : MldbFmt
  dens : Nat
  vals : Tbl Int
  eb : Tbl Int
  bad : Tbl Bool
  ck : Tbl Int
deriving DecidableEq, Repr

/-- A sparsity metadata entry (R119, R126): masks by word, the slot it is bound to, the density it was loaded with. -/
structure Meta where
  masks : Tbl W32
  slot : Option Nat
  dens : Nat
deriving DecidableEq, Repr

/-- The workgroup's share of the quad's matrix storage (R119, R120), by workgroup-relative numbers: acc by 4096 t + 128 r + c,
counts by 128 t + 4 r + cb, P by 4096 t + 128 r + c, row and column exponents and flags by 32 t + r and 128 t + c. -/
structure Matrix where
  slots : Tbl Slot
  dens : Tbl Nat
  metas : Tbl Meta
  acc : Tbl W32
  cnt : Tbl Nat
  ptP : Tbl Int
  ptEA : Tbl Int
  ptEB : Tbl Int
  ptRbad : Tbl Bool
  ptCbad : Tbl Bool
deriving DecidableEq, Repr

/-- A workgroup's phase (R392). -/
inductive Phase | resident | stopping | saving | emergency | evicted | restoring deriving DecidableEq, Repr

/-- A placed workgroup; `slots` are its crew slots (partition, index), its own until it retires (R20); `staged` the last instant at which its
stream registers staged a line in its buffer (R72); `saved` the instant at which its save block was written, and the block's pages (R389); `opens` the
openings of its barriers, which come before its accesses (R87). -/
structure Workgroup where
  lid : Nat
  wgi : Nat
  core : Nat
  phase : Phase
  block : Option Nat
  fault : Option Nat
  scratch : Tbl Byte
  lines : Tbl Nat
  bars : Tbl Barrier
  gregs : Tbl GReg
  xregs : Tbl XReg
  mx : Matrix
  crews : List Nat
  granules : Nat
  resident : Nat
  order : Nat
  heldSubs : List (Nat × Nat)
  slots : List (Nat × Nat) := []
  staged : Nat := 0
  saved : Option (Nat × List Nat) := none
  opens : List Nat := []
deriving DecidableEq, Repr

/-- A gang's barriers (R257), the scratch of members that have retired, which stays gang space until the last retires (R19), with the counts of
its lines (R64), held subtractions (R389), and the openings of its barriers (R87). -/
structure Gang where
  bars : Tbl Barrier
  left : Tbl (Tbl Byte)
  heldSubs : List (Nat × Nat)
  leftLines : Tbl (Tbl Nat) := []
  opens : List Nat := []
deriving DecidableEq, Repr

/-- A kernel descriptor (R21). -/
structure Kernel where
  sentry : VA
  lbase : VA
  pstack : VA
  pstackKib : Nat
  vregs8 : Nat
  ftz : Bool
  rgrpOk : Bool
  rgrpCore : Bool
  poolB1 : Nat
  poolB2 : Nat
  poolB3 : Nat
  yq : Nat
  bto : Nat
  rdepth : Nat
  payload : Nat
  sslots : Nat
  acct : Nat
  ptiles : Nat
deriving DecidableEq, Repr

/-- A launch record (R359). -/
structure Record where
  kdesc : VA
  args : VA
  frame : VA
  crews : Nat
  gang : Nat
  gx : Nat
  gy : Nat
  gz : Nat
  deadline : Nat
  est : Nat
  classD : Bool
  shed : Bool
  serial : Bool
  irq : Bool
  bind : VA
deriving DecidableEq, Repr

/-- A binding block (R360). -/
structure Binding where
  xb : List Nat
  gate : VA
  gthr : Nat
  gxw : VA
deriving DecidableEq, Repr

/-- A captured frame object (R50). -/
structure FrameCap where
  frameNo : Nat
  pres : Nat
  deadline : Nat
  subst : Nat
  pealGrp : Nat
  obj : VA
deriving DecidableEq, Repr

/-- A node batch's records: pool (16 once that has been disabled), addresses, lines of each (R197). -/
structure Batch where
  node : Nat
  pool : Nat
  recs : List VA
  placed : Bool
  rlines : Nat := 0
deriving DecidableEq, Repr

/-- A taken launch (R362); the memory events that come before its accesses (R87). -/
structure Launch where
  lid : Nat
  queue : Nat
  ring : Option Nat
  ctx : Nat
  record : Record
  bind : Binding
  kern : Kernel
  frame : Option FrameCap
  versions : Tbl Nat
  deferred : List Nat
  est : Nat
  tstart : Nat
  charge : Nat
  nextWg : Nat
  doneWgs : Nat
  lateDone : Bool
  gangWait : Option Nat
  batch : Option Batch
  start : List Nat := []
deriving DecidableEq, Repr

/-! ### Copies and engine commands (16, 17) -/

/-- Whose an access is, as its record names it (R378, R383): slot, generation, launch, workgroup index. -/
structure Who where
  slot : Nat
  gen : Nat
  lid : Nat
  wgi : Nat
deriving DecidableEq, Repr

/-- What stays of a crew that has retired before its workgroup: its guard slots and bin counters, which its commands still queued look at
(R20, R256, R261, R263). -/
structure Exited where
  g : Nat
  who : Who
  guards : Tbl Guard
  bins : Tbl Nat
  trigs : Tbl (List Nat) := []
deriving DecidableEq, Repr

/-- The tag of the last store to a memory line (R383). -/
structure StoreTag where
  ctx : Nat
  cid : Nat
  who : Who
  pos : Pos
deriving DecidableEq, Repr

/-- One lane's copy (R315): `place` is the place of its accesses in the order of memory (R96), `reads` the bytes of its source
that it has read (place in the source, event, name), `got` the 8-byte words of its destination that have landed. -/
structure CopyLane where
  lane : Nat
  thread : Thread
  src : Nat
  dst : Nat
  place : Ev
  landed : Bool
  held : Bool
  reads : List (Nat × Nat × Nat) := []
  got : List Nat := []
deriving DecidableEq, Repr

/-- A CPY in flight (R315, R316): `lines` are the scratch lines whose count it raised (workgroup, line). -/
structure CopyOp where
  id : Nat
  cid : Nat
  g : Nat
  lid : Nat
  ctx : Nat
  dsp : Space
  ssp : Space
  lanes : List CopyLane
  len : Option Nat
  bin : Nat
  tag : Option Nat
  guard : Option Nat
  left : Bool
  lines : List (Nat × Nat)
  pos : Pos
  recs : Option (Nat × Nat)
  who : Who := ⟨0, 0, 0, 0⟩
deriving DecidableEq, Repr

/-- A member of a thread's copy batches (R69, R204): batch none while unsealed. -/
structure BatchItem where
  thread : Thread
  batch : Option Nat
  op : Nat
  lane : Nat
  coll : Bool
deriving DecidableEq, Repr

/-- A scale descriptor (R131). -/
structure ScaleDesc where
  addr : Nat
  sbase : Nat
  tid : Nat
  extent : Nat
  ld : Nat
  nblk : Nat
  fresh : Bool
deriving DecidableEq, Repr

/-- What an engine command captured at issue (R325 to R339); a granted MMA holds
the slot and metadata as at its grant (R333); A magnitudes by 128 r + 32 j + k, exponents and flags by 32 j + r. -/
inductive CmdOp where
  | mldb (fmt : MldbFmt) (slot dens : Nat) (rows : List Nat) (data : Option Slot)
  | smcp (slot entry dens addr : Nat)
  | mma (fmt : MmaFmt) (pt slot dens : Nat) (a : Tbl Int) (ea : Tbl Int) (bad : Tbl Bool) (cap : Option (Option Slot × Tbl Meta))
  | msca (acc pt kb row0 col0 : Nat) (da db : ScaleDesc)
  | macz (acc : Nat)
  | macrdF (acc cb vd : Nat)
  | macrdC (acc vd : Nat)
  | macwr (acc cb : Nat) (vals : Tbl W32)
  | trav (vd : Nat) (rays : List (Nat × List W32)) (nodes tris insts : Nat) (level : Nat) (rmask : Nat) (anyHit cullb : Bool)
  | rast (desc : List Byte) (addr : Nat) (tris : List (Nat × List W32)) (todo : List (Nat × Nat))
  | rcq (slot ver vd : Nat) (feats : List (Nat × List W32)) (train : Option (List (Nat × List W32)))
  | coll (wr : Bool) (srcs : List (Nat × Thread × List W32 × Nat)) (len : Option Nat) (bin : Nat)
deriving DecidableEq, Repr

/-- An engine's queue (R324). -/
inductive Engine | matrix | radiance | traversal | collective | raster deriving DecidableEq, Repr

/-- A posted command: sub-queue of crew `cid` in an engine; `stage` 0 waits, 1 granted or left the head, 2 done but for its commit; `since` is the
cycle at which it became eligible (R129); `reads` are its reads of memory, by range in the order of its ranges, placed at its issue or release (R97),
`vals` and `rest` what a fold operation has read and the elements it has yet to act on (R130), `kept` the bytes of an MSCA's units then, `places` the
places of the accesses that the engine makes for its lanes later (R193, R204, R185). -/
structure Cmd where
  id : Nat
  cid : Nat
  g : Nat
  lid : Nat
  ctx : Nat
  engine : Engine
  unit : Nat
  op : CmdOp
  act : W32
  pid : Option Nat
  guard : Option Nat
  stage : Nat
  posted : Nat
  started : Nat
  rerun : Bool
  held : Bool
  pos : Pos
  who : Who := ⟨0, 0, 0, 0⟩
  since : Option Nat := none
  reads : List (List Nat) := []
  vals : Tbl W32 := []
  rest : Option (List Nat) := none
  kept : List (List Byte) := []
  places : List (Nat × Ev) := []
deriving DecidableEq, Repr

/-- A cached scale unit (R133). -/
structure ScaleUnit where
  quad : Nat
  ctx : Nat
  tid : Nat
  unit : Nat
  data : List Byte
deriving DecidableEq, Repr

/-- A regroup round (R140, R147): its set (workgroup, or launch and core), site, and the arrived crews with move count and keys; the
participating slots as its firing fixed them (R141). -/
structure Arrival where
  cid : Nat
  n : Nat
  keys : Tbl Nat
  pos : Pos
deriving DecidableEq, Repr
structure Round where
  id : Nat
  home : Bool
  coreScope : Bool
  set : Nat
  core : Nat
  site : VA
  timeout : Nat
  elapsed : Nat
  fired : Bool
  arrived : List Arrival
  slots : List Nat := []
deriving DecidableEq, Repr

/-! ### Pools, nodes, hardware work queues (10, 11, 21) -/

/-- The state of a pool record (R195, R196). -/
inductive RecState | free | alloc (lid : Nat) | pushed deriving DecidableEq, Repr
/-- A pool; `back` are the reads of the copies that returned a record to the free list, by record (R321). -/
structure Pool where
  ctx : Nat
  base : VA
  rlines : Nat
  count : Nat
  busy : Tbl RecState
  back : Tbl (List Nat) := []
deriving DecidableEq, Repr
structure Node where
  ctx : Nat
  qid : Nat
  tmpl : VA
  batch : Nat
  pool : Nat
  timeout : Nat
  queue : List (VA × Nat)
deriving DecidableEq, Repr
/-- A bound target (R205). -/
structure Target where
  tile : Nat
  g : Nat
  acc : Option Nat
  expect : Nat
  count : Nat
  skip : Bool
deriving DecidableEq, Repr
/-- A hardware work queue (R375); after EN is cleared POISON stays to be read until the next EN = 1; for each entry its push in the order of memory
(R98). -/
structure HwQueue where
  ctx : Nat
  entries : List W64
  targets : List Target
  poison : Bool
  on : Bool := true
  pushes : List Nat := []
deriving DecidableEq, Repr

/-! ### Media (09) -/

/-- A receive line's state (R166, R167): landed pixels as a bit set, its deadline, present or not. -/
structure RxLine where
  seq : Nat
  pix : Nat
  ldl : Nat
  late : Bool
  present : Bool
deriving DecidableEq, Repr
/-- A frame that has begun; its frame time FT may lie before TNOW = 0 (R164). -/
structure RxFrame where
  seq : Nat
  ts : Nat
  ft : Int
deriving DecidableEq, Repr
/-- A receive flow since its enabling; `code` the pieces of the codestream that have come, by frame, with their sequence numbers (R175). -/
structure RxFlow where
  frames : List RxFrame
  lines : Tbl RxLine
  seen : List Nat
  poison : Bool
  wpos : Nat
  recNo : Nat
  code : Tbl (List (Nat × List Byte)) := []
deriving DecidableEq, Repr
/-- A transmit line (R171): written pixels as a bit set, committed with its TIME. -/
structure TxLine where
  seq : Nat
  row : Nat
  pix : Nat
  commit : Option Nat
deriving DecidableEq, Repr
/-- A transmit flow since its enabling (R172, R173): next frame and row, their frame time, the lines, and the rows of the current frame as
sent (for the encoder); the address of the image that the wall output sends (R403). -/
structure TxFlow where
  frame : Nat
  row : Nat
  ftx : Option Nat
  prevFtx : Nat
  lines : List TxLine
  poison : Bool
  sent : List (List Byte)
  image : Option Nat
deriving DecidableEq, Repr

/-! ### Radiance cache and Kiln (08) -/

/-- A bound radiance-cache object (R151 to R161); `wbOwed` is a switch's write-back that has faulted and is retried, `ubOwed` an
unbind's. -/
structure Rco where
  ctx : Nat
  desc : VA
  wbase : VA
  m1base : VA
  m2base : VA
  ring : VA
  rcap : Nat
  put : Nat
  get : Nat
  drops : Nat
  step : Nat
  skips : Nat
  p1 : W32
  p2 : W32
  lr : W32
  beta1 : W32
  beta2 : W32
  eps : W32
  budget : Nat
  flush : Bool
  theta : Tbl W32
  m : Tbl W32
  v : Tbl W32
  verA : Tbl (BitVec 16)
  verB : Tbl (BitVec 16)
  sfnA : Option Nat
  sfnB : Option Nat
  newestB : Bool
  pending : Option (Nat × Nat)
  heldCounted : Bool
  due : Bool
  steps : Nat
  wbOwed : Bool
  unbinding : Bool
  faulted : List Nat
  ubOwed : Bool := false
deriving DecidableEq, Repr

/-! ### Peal and GPX (11) -/

/-- A packet on its way to a peer (R201, R204): contributions or an ARRIVE; the COLL it belongs to, with its crew and position. -/
structure GpxPacket where
  seq : Nat
  arrive : Option ArriveMsg
  recs : List GpxRecord
  op : Option Nat
  cid : Nat
  pos : Pos
  who : Who := ⟨0, 0, 0, 0⟩
deriving DecidableEq, Repr
/-- A peer pair (R200, R202) with the values in force since V was last set: the word at 0x10, the address and the UDP port; `valid` is V, and a pair
that is down stays so until V is set again. -/
structure Pair where
  sndSeq : Nat
  expSeq : Nat
  unacked : List GpxPacket
  resends : Nat
  down : Bool
  lastProgress : Nat
  ctl : Nat
  valid : Bool := true
  addr : Nat := 0
  udp : Nat := 0
deriving DecidableEq, Repr
/-- A frame armed on the card (R212 to R216). -/
structure Armed where
  frameNo : Nat
  pres : Nat
  subst : Nat
  obj : VA
  ctx : Nat
  buffer : Option Nat
  arrivedSelf : Bool
  arrivals : Nat
  decided : Option (Nat × Nat)
  sends : Nat
  decision : Option (Nat × Nat)
deriving DecidableEq, Repr

/-! ### Traps, debug, Reeve (22 to 25) -/

/-- A record in the device buffer (R378 to R380): bytes 4 to 127; `cid` the crew of a precise stop, `parent` the record that a
continuation follows, or the slot of a class 40 record. -/
structure TrapRec where
  id : Nat
  ctx : Nat
  bytes : List Byte
  deferred : Bool
  waits : Bool
  cid : Option Nat
  cmd : Option Nat
  parent : Option Nat
deriving DecidableEq, Repr

/-- A record that awaits MMU_RESUME (R382), with its bytes 4 to 127. -/
structure Waiting where
  ctx : Nat
  seq : Nat
  cid : Option Nat
  cmd : Option Nat
  wg : Option Nat
  slot : Option Nat
  bytes : List Byte := []
deriving DecidableEq, Repr

/-- A fault of an issued command, or a machine check on a crew that had stopped already, that stops a partition (R381, R384): the crew, the
command, its record. -/
structure IssuedStop where
  cid : Nat
  cmd : Option Nat
  record : TrapRec
deriving DecidableEq, Repr

/-- A stopped partition (R410, R411): causing crews with their contexts; contexts that have gone on; a crew to step; the context whose dump has met a
fault; the faults of issued commands among the causes; the causes, of either kind, whose dump and record are still to be written. -/
structure DbgStop where
  core : Nat
  part : Nat
  causes : List (Nat × Nat)
  gone : List Nat
  step : Option (Nat × Stream)
  dumpFault : Option Nat
  issued : List IssuedStop := []
  owed : List (Nat × Nat) := []
  owedIssued : List IssuedStop := []
deriving DecidableEq, Repr

/-- An invalidation of translations of a context (R386, R394): all of them, or a range of 64 KiB pages; `mark` is the
length of the write history when it completed. -/
structure Inval where
  ctx : Nat
  all : Bool
  page : Nat
  n : Nat
  mark : Nat
deriving DecidableEq, Repr

/-- An event-log record (R426): number, time, code, source, detail. -/
structure LogRec where
  time : Nat
  num : Nat
  code : Nat
  source : Nat
  detail : Nat
deriving DecidableEq, Repr

/-- A spare row in use (R427). -/
structure Spare where
  array : Nat
  row : Nat
  testing : Bool
deriving DecidableEq, Repr

/-- Reeve (25): its log, spare rows, retired quads and slices, versions and measurement (R426 to R431), the command it runs; `cool` the readings in a
row with every sensor at level 0 (R425). -/
structure Reeve where
  log : List LogRec
  spares : List Spare
  queuedErrs : List (Nat × Nat)
  retiredFlash : List Nat
  slicesFlash : List Nat
  retired : List Nat
  retiring : List Nat
  svn : Tbl Nat
  meas : List Byte
  kilnUpdate : Bool
  kilnBusy : Bool
  busyCmd : Option (Nat × Nat)
  throttled : Bool
  cool : Nat := 0
  clock : Nat := 0
  image : Option (List Byte × List Byte) := none
deriving DecidableEq, Repr

/-- PTP clock unit (R399): consecutive Syncs within 100 ns, time since the last Sync, time in holdover, the offset measured last and how much of it
slewing has corrected since, in 2^-16 ns (R41); `inStep` is the time spent in the current step of bring-up (R397). -/
structure Ptp where
  good : Nat
  sinceSync : Nat
  inHoldover : Nat
  offset : Int
  slewed : Nat := 0
  inStep : Nat := 0
deriving DecidableEq, Repr

/-- Where a packet goes (R401, R402): the port it leaves by, its IP address of destination, its UDP ports of destination and source. -/
structure Dest where
  port : Nat
  addr : Nat
  udp : Nat
  src : Nat
deriving DecidableEq, Repr

/-- What the device has sent: an interrupt message, the UDP payload of a GPX packet, a video row, a host read's value. -/
inductive Out where
  | msix (vector : Nat)
  | gpx (entry : Nat) (dest : Dest) (bytes : List Byte)
  | row (dest : Dest) (flow rtp : Nat) (row : Nat) (bytes : List Byte)
  | codestream (dest : Dest) (flow rtp : Nat) (bytes : List Byte)
  | read (data : Nat)
  | unsupported
deriving DecidableEq, Repr

/-- The next thing to happen: presentation time passes (ns, 2^-16 ns, cycles), a crew's stream may issue, an event. -/
inductive Act where
  | time (ns frac cycles : Nat)
  | issueS (cid : Nat)
  | issueL (cid : Nat)
  | event (i : Instr)
deriving DecidableEq, Repr

/-- The state of the device. `rr` is the crew slot that issued last plus 1, by 4 * (4 * core + partition) + 2 * class + stream (R35), `icLines` the
lines of the instruction caches filled since the last invalidation, by core, context, stream and line, true where their break bits could not be read
(R407), `dWaits` the D-class launch whose next workgroup waits for room (R366), `noLink` says that the host link has not come up (R397), `tNext` the
T-class queue and `kilnNext` the Kiln slot whose turn comes next (R367, R158), `tags` the tag of the last store by memory line (R383), `evs` the
events of the memory order by number, `orders` the coherence orders of the bytes written by them, `scs` the order of the SC fences (R86), `joins` by
crew the event that was next at its last drain (R79), `gateMet` since when a launch gate has stood at a value that opens it, and that value, by queue
or 64 + node (R362), `exited` what stays of crews that have retired before their workgroups, `bells` the memory events that come before the launches
of a queue or of a node (R87, R196; a node counts from 64). `writes` holds what the running step has written, newest first, and `hist` what those
bytes held before, each in the parts that are single-copy atomic. -/
structure State where
  mem : List Host.Cell
  writes : List (List Host.Cell)
  hist : List (List Host.Cell)
  smpSince : Tbl Nat
  invals : List Inval
  oldRoots : List (Nat × Nat × Nat)
  icMark : Nat
  poisoned : List Nat
  regs : Tbl W32
  msixMask : Tbl Bool
  pba : Tbl Bool
  msixTable : Tbl W32
  crews : Tbl Crew
  gens : Tbl Nat
  wgs : Tbl Workgroup
  gangs : Tbl Gang
  launches : Tbl Launch
  nextHandle : Nat
  nextOrder : Nat
  batches : List BatchItem
  copies : List CopyOp
  cmds : List Cmd
  scales : List ScaleUnit
  scinvBusy : List Nat
  rounds : List Round
  deficits : Tbl Int
  heldHeads : List Nat
  gateFailed : List Nat
  gateMet : Tbl (Nat × Nat) := []
  freeing : Tbl Nat
  dWaits : Option Nat := none
  reserved : Tbl (Nat × Nat × List Nat)
  pools : Tbl Pool
  nodes : Tbl Node
  hwqs : Tbl HwQueue
  rx : Tbl RxFlow
  tx : Tbl TxFlow
  rcos : Tbl Rco
  peal : List Armed
  earlyArrivals : List (Nat × ArriveMsg × Nat)
  pairs : Tbl Pair
  tnow : Nat
  tfrac : Nat
  started : Bool
  cycle : Nat
  ptp : Ptp
  trapBuf : List TrapRec
  seqs : Tbl Nat
  trapStalled : List Nat
  waiting : List Waiting
  emerg : Option Nat
  emergQueue : List Nat
  dbg : List DbgStop
  counters : Tbl W64
  npre : Tbl Nat
  stamps : List Stamp
  reeve : Reeve
  agenda : List Act
  rr : Tbl Nat := []
  icLines : Tbl Bool := []
  exited : Tbl Exited := []
  noLink : Bool := false
  tNext : Nat := 0
  kilnNext : Nat := 0
  tags : Tbl StoreTag := []
  evs : List Ev := []
  orders : Tbl Order := []
  scs : List Nat := []
  joins : Tbl Nat := []
  bells : Tbl (List Nat) := []
  focus : Nat
  oracle : Nat
  out : List Out
deriving DecidableEq, Repr

/-- Reeve as on an unused card (log entry 13). -/
def Reeve.reset : Reeve :=
  { log := [], spares := [], queuedErrs := [], retiredFlash := [], slicesFlash := [], retired := [], retiring := [], svn := [],
    meas := List.replicate 64 0, kilnUpdate := false, kilnBusy := false, busyCmd := none, throttled := false }

/-- The machine right after Reeve releases the device from reset, at step 1 of bring-up (R9, R397): no crew is resident,
every control register at its reset value (an empty table; the values are in HostRegs), presentation time not started. -/
def State.reset : State :=
  { mem := [], writes := [], hist := [], smpSince := [], invals := [], oldRoots := [], icMark := 0, poisoned := [], regs := [],
    msixMask := [], pba := [], msixTable := [], crews := [], gens := [], wgs := [], gangs := [], launches := [], nextHandle := 0,
    nextOrder := 0, batches := [], copies := [], cmds := [], scales := [], scinvBusy := [], rounds := [], deficits := [], heldHeads := [],
    gateFailed := [], gateMet := [], freeing := [], dWaits := none, reserved := [], pools := [], nodes := [], hwqs := [], rx := [], tx := [], rcos := [], peal := [],
    earlyArrivals := [], pairs := [], tnow := 0, tfrac := 0, started := false, cycle := 0,
    ptp := { good := 0, sinceSync := 0, inHoldover := 0, offset := 0 }, trapBuf := [], seqs := [], trapStalled := [], waiting := [],
    emerg := none, emergQueue := [], dbg := [], counters := [], npre := [], stamps := [], reeve := Reeve.reset, agenda := [], rr := [], icLines := [], exited := [],
    noLink := false, tNext := 0, kilnNext := 0, tags := [], evs := [], orders := [], scs := [], joins := [], bells := [], focus := 0,
    oracle := 0, out := [] }

end Sys2Proof.Machine
end

