-- ==== Sys2Proof/Machine/Store.lean ====
section
/-! DEFINITION. Tables keyed by number, and byte memory in its one canonical form. -/

namespace Sys2Proof.Machine

variable {α : Type}

/-- The entry at key k. -/
def tget? : Tbl α → Nat → Option α
  | [], _ => none
  | (j, v) :: t, k => if j = k then some v else if k < j then none else tget? t k

/-- The entry at key k, or `d`. -/
def tget (d : α) (t : Tbl α) (k : Nat) : α := (tget? t k).getD d

/-- The table with v at key k. -/
def tset : Tbl α → Nat → α → Tbl α
  | [], k, v => [(k, v)]
  | (j, u) :: t, k, v => if j = k then (k, v) :: t else if k < j then (k, v) :: (j, u) :: t else (j, u) :: tset t k v

/-- The table without key k. -/
def tdel (t : Tbl α) (k : Nat) : Tbl α := t.filter (fun e => e.1 ≠ k)

/-- The table with the entry at k changed, if there is one. -/
def tmod (t : Tbl α) (k : Nat) (f : α → α) : Tbl α :=
  match tget? t k with
  | some v => tset t k (f v)
  | none => t

/-- Several entries set, in order. -/
def tsets (t : Tbl α) (es : List (Nat × α)) : Tbl α := es.foldl (fun t e => tset t e.1 e.2) t

/-! Memory: what an unlisted address reads as is 0 (notes/assumptions/1). -/

/-- What a byte that nothing has written reads as. -/
def memDefault : Byte := 0

/-- One byte of memory. -/
def memGet (m : List Host.Cell) (a : Nat) : Byte := tget memDefault m a

/-- The memory with byte v at address a, in canonical form. -/
def memSet : List Host.Cell → Nat → Byte → List Host.Cell
  | [], a, v => if v = memDefault then [] else [(a, v)]
  | (b, u) :: t, a, v =>
    if b = a then (if v = memDefault then t else (a, v) :: t)
    else if a < b then (if v = memDefault then (b, u) :: t else (a, v) :: (b, u) :: t)
    else (b, u) :: memSet t a v

/-- Every address of m is above a. -/
def memAbove (a : Nat) : List Host.Cell → Bool
  | [] => true
  | (b, _) :: t => decide (a < b) && memAbove a t

/-- The canonical form: addresses strictly rising, no entry equal to what an unlisted address reads as. -/
def Memory.wf : List Host.Cell → Bool
  | [] => true
  | (a, v) :: t => decide (v ≠ memDefault) && memAbove a t && Memory.wf t

/-- A free choice among the permitted outcomes: the only one when they agree, else one that nothing fixes (R8). -/
def choose [DecidableEq α] (o tag i : Nat) (d : α) (xs : List α) : α :=
  match xs.eraseDups with
  | [] => d
  | [x] => x
  | x :: t => (x :: t).getD (Config.free o tag i % (t.length + 1)) x

end Sys2Proof.Machine
end

