-- ==== Sys2Proof/Machine/Regs.lean ====
section
/-! DEFINITION. The control-block registers of BAR0 as stored 32-bit words: where each block lies and what each word reads
after reset (R4, R136, R162, R177, R219, R372 to R375, R393, R394, R400 to R405, R423, R424, R433). Fields that mirror other state are
computed when the host reads them (HostRegs). -/

namespace Sys2Proof.Machine

/-! Bases of the blocks. -/
def qBlk (q : Nat) : Nat := 0x00080000 + q * 0x40
def poolBlk (p : Nat) : Nat := 0x00082000 + p * 0x20
def nodeBlk (n : Nat) : Nat := 0x00084000 + n * 0x20
def hwqBlk (q : Nat) : Nat := 0x00088000 + q * 0x10
def mxeBlk (q : Nat) : Nat := 0x00100000 + q * 0x1000
def rcuBlk (n : Nat) : Nat := 0x00140000 + n * 0x100
def pealBlk : Nat := 0x00180000
def rxBlk (f : Nat) : Nat := 0x00200000 + f * 0x80
def txBlk (f : Nat) : Nat := 0x00280000 + f * 0x80
def flowBlk (tx : Bool) (f : Nat) : Nat := if tx then txBlk f else rxBlk f
def mmuBlk (c : Nat) : Nat := 0x00300000 + c * 0x100
def mmuGlb : Nat := 0x00308000
def dbgBlk (c : Nat) : Nat := 0x00380000 + c * 0x100
def icinvOff : Nat := 0x00388000
def trcBlk : Nat := 0x00390000
def ctrBlk (c : Nat) : Nat := 0x00391000 + c * 0x80
def reeveBlk : Nat := 0x003C0000
def peerBlk (e : Nat) : Nat := 0x00004000 + e * 0x20
def portBlk (p : Nat) : Nat := 0x00002000 + p * 0x40
def ptpcBlk : Nat := 0x00001000

/-- The offset lies in one of n blocks of the given stride, at the given word. -/
def inBlk (off base stride n word : Nat) : Bool :=
  decide (base ≤ off) && decide (off < base + stride * n) && decide ((off - base) % stride = word)

/-- The 32-bit word at a BAR0 offset after reset. -/
def regReset (off : Nat) : Nat :=
  if off = 0x0000 then 0x0B482030
  else if off = 0x000C then 0x10000000
  else if inBlk off 0x2000 0x40 16 0 then 0xC0000000
  else if off = 0x1000 then 0x807F0001
  else if off = 0x1018 then 60
  else if inBlk off 0x00100000 0x1000 48 0x18 then 1024
  else if off = 0x00180000 then 0x0000FFFF
  else if inBlk off 0x00080000 0x40 64 0x30 then 1000000
  else if inBlk off 0x00080000 0x40 64 0x34 then 65536
  else if off = 0x00081000 then 48
  else if off = 0x00081004 then 50
  else 0

/-- The stored 32-bit word at a BAR0 offset. -/
def State.r32 (s : State) (off : Nat) : Nat :=
  match tget? s.regs off with
  | some v => v.toNat
  | none => regReset off

/-- The stored 64-bit register at a BAR0 offset. -/
def State.r64 (s : State) (off : Nat) : Nat := s.r32 off + 2 ^ 32 * s.r32 (off + 4)

/-- The state with a stored word changed. -/
def State.w32 (s : State) (off v : Nat) : State := { s with regs := tset s.regs off (BitVec.ofNat 32 v) }

/-- The state with a stored 64-bit register changed. -/
def State.w64 (s : State) (off v : Nat) : State := (s.w32 off v).w32 (off + 4) (v / 2 ^ 32)

/-- x with bits [hi:lo] replaced. -/
def setBits (x hi lo v : Nat) : Nat :=
  x - bits x hi lo * 2 ^ lo + v % 2 ^ (hi - lo + 1) * 2 ^ lo

/-- The state with bits [hi:lo] of a stored word replaced. -/
def State.setField (s : State) (off hi lo v : Nat) : State := s.w32 off (setBits (s.r32 off) hi lo v)

/-- A counting field, increased and saturating (R10 onward: "saturating"). -/
def State.countField (s : State) (off hi lo : Nat) : State :=
  s.setField off hi lo (min (bits (s.r32 off) hi lo + 1) (2 ^ (hi - lo + 1) - 1))

/-- A 72-bit address held as [63:0] at one offset and [71:64] in [7:0] of another. -/
def State.addr72 (s : State) (lo hi : Nat) : VA := BitVec.ofNat 72 (s.r64 lo + 2 ^ 64 * (s.r32 hi % 256))

/-- Usable GDDR7 bytes, HIF_MEMSZ (R404). -/
def State.memSize (s : State) : Nat := s.r64 0x0010 % 2 ^ 52

/-- HIF_BOOT.STATE (R397). -/
def State.bootState (s : State) : Nat := bits (s.r32 0x000C) 31 28

/-- PTPC_STAT.LOCK (R44). -/
def State.lock (s : State) : Nat := bits (s.r32 (ptpcBlk + 8)) 1 0

/-- Quads in service (R4, R428). -/
def State.quadLive (s : State) (q : Nat) : Bool := decide (q < Config.quads) && !(s.reeve.retired.contains q)
def State.quadsLive (s : State) : Nat := ((List.range Config.quads).filter s.quadLive).length

/-- Raises MSI-X vector v: a message, or the pending bit of a masked vector (R396). -/
def State.interrupt (s : State) (v : Nat) : State :=
  if tget true s.msixMask v then { s with pba := tset s.pba v true } else { s with out := s.out ++ [.msix v] }

/-- Counts a bad access in HIF_ERR.BADACC and raises vector 0 where that increments (R11, R396, R404). -/
def State.badAccess (s : State) : State := if bits (s.r32 0x0018) 15 0 = 0xFFFF then s else (s.countField 0x0018 15 0).interrupt 0

end Sys2Proof.Machine
end

