-- ==== Sys2Proof/Machine/Mem.lean ====
section
/-! DEFINITION. Physical memory as the running step sees it, translation and the checks of an access (03 R53 to R60, R77;
22 R386), and what earlier instants of memory held (03 R70, 24 R409). -/

namespace Sys2Proof.Machine

/-- One byte of physical memory: what the running step has written, else what memory holds. -/
def State.rd (s : State) (pa : Nat) : Byte :=
  match s.writes.flatten.find? (fun c => c.1 = pa) with
  | some c => c.2
  | none => memGet s.mem pa

/-- The step writes one byte. -/
def State.wr (s : State) (pa : Nat) (v : Byte) : State := { s with writes := [(pa, v)] :: s.writes }

/-- The step writes bytes together, as one single-copy atomic write (R93). -/
def State.wrUnit (s : State) (cs : List Host.Cell) : State := { s with writes := cs :: s.writes }

/-- A byte as it stood when the write history had length j. -/
def State.rdAt (s : State) (j pa : Nat) : Byte :=
  (s.hist.take (s.hist.length - j)).foldl (fun v u => (u.find? (fun c => c.1 = pa)).elim v (fun c => c.2)) (s.rd pa)

/-- The writes of a step enter memory, the oldest first: memory in canonical form, and what each write found there. -/
def settleWrites (m : List Host.Cell) (ws : List (List Host.Cell)) : List Host.Cell × List (List Host.Cell) :=
  ws.foldr (fun u p => (u.foldr (fun c m => memSet m c.1 c.2) p.1, u.map (fun c => (c.1, memGet p.1 c.1)) :: p.2)) (m, [])

/-- A leaf of a page table as a walk finds it (R56): physical base of its span, log2 of the span, and its flags. -/
structure Leaf where
  base : Nat
  span : Nat
  pm : Bool
  smp : Bool
  ord : Nat
  cache : Nat
  x : Bool
  w : Bool
  r : Bool
deriving DecidableEq, Repr

/-- Why an access fails: class (2 translation, 3 permission, 4 alignment), address, walk level (R57, R58, R60, R378). -/
structure AccFault where
  cls : Nat
  addr : Nat
  level : Nat
deriving DecidableEq, Repr

/-- The level at which a walk found the leaf (R55, R56): what a record gives as the level reached when a check after the walk fails (R378). -/
def Leaf.level (l : Leaf) : Nat := if l.span = 40 then 2 else if l.span = 28 then 3 else 4

/-- The levels of a walk: number, lowest index bit, index width (R55). -/
def walkLevels : List (Nat × Nat × Nat) := [(0, 64, 8), (1, 52, 12), (2, 40, 12), (3, 28, 12), (4, 16, 12)]

/-- A walk from a table (R55 to R57), reading bytes by `rd`; the error is the level reached. -/
def walkFrom (rd : Nat → Byte) (va : Nat) : List (Nat × Nat × Nat) → Nat → Except Nat Leaf
  | [], _ => .error 4
  | (lv, sh, wd) :: more, table =>
    let e := leNat ((List.range 8).map (fun i => rd (table + 16 * (va / 2 ^ sh % 2 ^ wd) + i)))
    if !bitAt e 0 || bits e 63 52 ≠ 0 || bits e 15 13 ≠ 0 || bits e 3 2 ≠ 0 then .error lv
    else if bitAt e 1 then
      if lv < 2 then .error lv
      else .ok { base := bits e 51 sh * 2 ^ sh, span := sh, pm := bitAt e 12, smp := bitAt e 11, ord := bits e 10 9,
                 cache := bits e 8 7, x := bitAt e 6, w := bitAt e 5, r := bitAt e 4 }
    else if lv = 4 then .error lv
    else walkFrom rd va more (bits e 51 16 * 2 ^ 16)

/-- A walk from a root register's value (R393): with V = 0 it fails at level 0. -/
def walkRoot (rd : Nat → Byte) (root va : Nat) : Except Nat Leaf :=
  if bitAt root 0 then walkFrom rd va walkLevels (bits root 51 16 * 2 ^ 16) else .error 0

/-- An invalidation covers a leaf's span around va (R394: larger leaves that overlap the range go whole). -/
def Inval.covers (i : Inval) (ctx va span : Nat) : Bool :=
  i.ctx = ctx && (i.all ||
    (decide (va / 2 ^ span * 2 ^ span < (i.page + i.n) * 2 ^ 16) && decide (i.page * 2 ^ 16 < (va / 2 ^ span + 1) * 2 ^ span)))

/-- The translations of va that an access may use (R386): the current one first, then each valid one of an earlier instant that no
invalidation has removed since. -/
def State.translations (s : State) (ctx va : Nat) : List (Except Nat Leaf) :=
  let root := s.r64 (mmuBlk ctx)
  let old (j r : Nat) : List (Except Nat Leaf) :=
    match walkRoot (s.rdAt j) r va with
    | .ok l => if s.invals.any (fun i => decide (j < i.mark) && i.covers ctx va l.span) then [] else [.ok l]
    | .error _ => []
  walkRoot s.rd root va ::
    ((List.range s.hist.length).flatMap (fun j => old j root)
      ++ s.oldRoots.flatMap (fun r => if r.1 = ctx then old r.2.2 r.2.1 else []))

/-- The translation one access uses. -/
def State.translate (s : State) (ctx va : Nat) : Except Nat Leaf :=
  match s.translations ctx va with
  | [] => .error 0
  | [t] => t
  | t :: ts =>
    let alts := ts.filter (fun u => match t, u with
      | .ok a, .ok b => a ≠ b
      | _, _ => true)
    match alts with
    | [] => t
    | _ => (t :: alts).getD (Config.free s.oracle 1 (va / 65536) % (alts.length + 1)) t

/-- The kinds of access (R58), numbered as trap records number them (R378). -/
inductive Acc | load | store | atomic | copyRead | copyWrite | sampler | fetch | engine | save | watch | ring
deriving DecidableEq, Repr

def Acc.code : Acc → Nat
  | .load => 0 | .store => 1 | .atomic => 2 | .copyRead => 3 | .copyWrite => 4 | .sampler => 5 | .fetch => 6 | .engine => 7
  | .save => 8 | .watch => 9 | .ring => 10

/-- The access writes. -/
def Acc.writes : Acc → Bool
  | .store | .atomic | .copyWrite | .save | .ring => true
  | _ => false

/-- A leaf permits an access of a context with or without the protected-media right (R58, R59). R59 names stores, atomics and copies of a context that
holds the right; the model holds the device's own writes for it (rings, save blocks) to PM = 1 pages too (DESIGN CHOICE, notes/assumptions/101). -/
def Leaf.permits (l : Leaf) (a : Acc) (right : Bool) : Bool :=
  (match a with
    | .load | .copyRead | .engine | .watch => l.r
    | .store | .copyWrite | .save | .ring => l.w
    | .atomic => l.r && l.w
    | .sampler => l.r && l.smp
    | .fetch => l.x)
  && (!l.pm || right) && (!(right && a.writes) || l.pm)

/-- The pieces of a range of virtual addresses, split at page boundaries and at the top of the address space (R53, R60). -/
def pieces : Nat → Nat → Nat → List (Nat × Nat)
  | 0, _, _ => []
  | fuel + 1, va, n =>
    if n = 0 then []
    else
      let here := min n (65536 - va % 65536)
      (va, here) :: pieces fuel ((va + here) % 2 ^ 72) (n - here)

/-- One piece, on its own page: translated and checked (R57 to R59, R77). A page that both denies the access and maps beyond the usable size is a
permission fault: its checks come first (DESIGN CHOICE, notes/assumptions/118: R221 does not place R77). -/
def State.piece (s : State) (ctx : Nat) (a : Acc) (va n : Nat) : Except AccFault (Nat × Nat) :=
  match s.translate ctx va with
  | .error lv => .error ⟨2, va, lv⟩
  | .ok l =>
    let pa := l.base + va % 2 ^ l.span
    if !l.permits a (bitAt (s.r32 (mmuBlk ctx + 8)) 8) then .error ⟨3, va, l.level⟩
    else if !bitAt pa 51 && decide (s.memSize < pa + n) then .error ⟨2, va + (s.memSize - pa), l.level⟩
    else .ok (pa, n)

/-- The fault with the lowest address (R378). -/
def lowestFault (fs : List AccFault) : Option AccFault :=
  fs.foldl (fun m f => match m with
    | none => some f
    | some g => if f.addr < g.addr then some f else some g) none

/-- The physical pieces of an access of n bytes at va, or its fault: every part is checked before any takes effect (R60). -/
def State.access (s : State) (ctx : Nat) (a : Acc) (va n : Nat) : Except AccFault (List (Nat × Nat)) :=
  let ps := (pieces (n / 65536 + 2) va n).map (fun p => s.piece ctx a p.1 p.2)
  match lowestFault (ps.filterMap (fun p => match p with
    | .error f => some f
    | .ok _ => none)) with
  | some f => .error f
  | none => .ok (ps.filterMap (fun p => match p with
    | .ok q => some q
    | .error _ => none))

/-- The physical addresses of the bytes of checked pieces, in order. -/
def paList (ps : List (Nat × Nat)) : List Nat := ps.flatMap (fun p => (List.range p.2).map (fun i => p.1 + i))

/-- The bytes of checked pieces. -/
def State.rdPieces (s : State) (ps : List (Nat × Nat)) : List Byte := (paList ps).map s.rd

/-- The bytes written to checked pieces. -/
def State.wrPieces (s : State) (ps : List (Nat × Nat)) (bs : List Byte) : State :=
  ((paList ps).zip bs).foldl (fun s e => s.wr e.1 e.2) s

/-- n bytes read at a virtual address of a context. -/
def State.vread (s : State) (ctx : Nat) (a : Acc) (va n : Nat) : Except AccFault (List Byte) :=
  match s.access ctx a va n with
  | .error f => .error f
  | .ok ps => .ok (s.rdPieces ps)

/-- Bytes written at a virtual address of a context. -/
def State.vwrite (s : State) (ctx : Nat) (a : Acc) (va : Nat) (bs : List Byte) : Except AccFault State :=
  match s.access ctx a va bs.length with
  | .error f => .error f
  | .ok ps => .ok (s.wrPieces ps bs)

/-- Physical bytes, for engines and the host (R77, R420). -/
def State.pread (s : State) (pa n : Nat) : List Byte := (List.range n).map (fun i => s.rd (pa + i))
def State.pwrite (s : State) (pa : Nat) (bs : List Byte) : State :=
  ((List.range bs.length).zip bs).foldl (fun s e => s.wr (pa + e.1) e.2) s

/-- Some byte of the pieces lies in a poisoned line (R383). -/
def State.touchesPoison (s : State) (ps : List (Nat × Nat)) : Bool := (paList ps).any (fun a => s.poisoned.contains (a / 128))

/-- The 4-byte word at a physical address as a sampler read of a core may return it (R70): as it stood at some instant no earlier
than the core's last invalidation (R71), one instant per aligned word. -/
def State.samplerWord (s : State) (core pa i : Nat) : List Byte :=
  let since := tget 0 s.smpSince core
  let at_ (j : Nat) : List Byte := (List.range 4).map (fun k => s.rdAt j (pa / 4 * 4 + k))
  choose s.oracle 2 i [] ((at_ s.hist.length) :: (List.range (s.hist.length - since)).map (fun k => at_ (since + k)))

/-- One byte of a sampler read. -/
def State.samplerByte (s : State) (core pa i : Nat) : Byte := (s.samplerWord core pa i).getD (pa % 4) 0

/-- Every line of a core's sampler cache is invalidated (R71). -/
def State.samplerFlush (s : State) (core : Nat) : State := { s with smpSince := tset s.smpSince core (s.hist.length + s.writes.length) }

end Sys2Proof.Machine
end

