-- ==== Sys2Proof/Machine/Crew.lean ====
section
/-! DEFINITION. A crew's registers with the value rules of pending destinations (18 R343 to R345), its reconvergence stack
(01 R30 to R34) and where it stands (R29). -/

namespace Sys2Proof.Machine

/-! ### Registers -/

/-- s[r] as the S-stream reads it: the register, or what a write that has returned and no marker has waited for delivers (R345). -/
def Crew.sRd (o : Nat) (c : Crew) (r : Nat) : W64 :=
  choose o 3 r 0 (tget 0 c.s r :: c.pend.filterMap (fun p => if p.returned then tget? p.ss r else none))

/-- b[r] (R25); only fixed-latency forms write base registers. -/
def Crew.bRd (c : Crew) (r : Nat) : VA := tget 0 c.b r

/-- A second write reaches a pending destination: which of the two values stays is settled when a marker has waited (R345). -/
def Pending.contest (p : Pending) (sk vk pk : Option Nat) : Pending :=
  let hit {α : Type} (t : Tbl α) (k : Option Nat) : List Nat := (k.filter (fun x => (tget? t x).isSome)).toList
  { p with sc := hit p.ss sk ++ p.sc, vc := hit p.vs vk ++ p.vc, pc := hit p.ps pk ++ p.pc }

/-- s[r] := x. -/
def Crew.sWr (c : Crew) (r : Nat) (x : W64) : Crew :=
  { c with s := tset c.s r x, pend := c.pend.map (fun p => p.contest (some r) none none) }

/-- b[r] := x. -/
def Crew.bWr (c : Crew) (r : Nat) (x : VA) : Crew := { c with b := tset c.b r x }

/-- v[r] of a lane (R25, R345). -/
def Crew.vRd (o : Nat) (c : Crew) (r l : Nat) : W32 :=
  choose o 7 (32 * r + l) 0 (tget 0 c.v (32 * r + l) :: c.pend.filterMap (fun p => if p.returned then tget? p.vs (32 * r + l) else none))

/-- v[r] of a lane := x. -/
def Crew.vWr (c : Crew) (r l : Nat) (x : W32) : Crew :=
  { c with v := tset c.v (32 * r + l) x, pend := c.pend.map (fun p => p.contest none (some (32 * r + l)) none) }

/-- n registers of a lane from r on, as a little-endian number (R25, R308). -/
def Crew.vRdN (o : Nat) (c : Crew) (n r l : Nat) : Nat :=
  (List.range n).foldl (fun a i => a + 2 ^ (32 * i) * (c.vRd o (r + i) l).toNat) 0

/-- n registers of a lane from r on written with the low bits of a number. -/
def Crew.vWrN (c : Crew) (n r l x : Nat) : Crew :=
  (List.range n).foldl (fun c i => c.vWr (r + i) l (BitVec.ofNat 32 (x / 2 ^ (32 * i)))) c

/-- p[n] of a lane; p7 reads true (R25). -/
def Crew.pRd (o : Nat) (c : Crew) (n l : Nat) : Bool :=
  if n = 7 then true
  else choose o 8 (32 * n + l) false ((tget 0 c.p n).getLsbD l :: c.pend.filterMap (fun p => if p.returned then tget? p.ps (32 * n + l) else none))

/-- p[n] as a lane mask. -/
def Crew.pMask (o : Nat) (c : Crew) (n : Nat) : W32 := maskOf (fun l => c.pRd o n l)

/-- p[n] := x in the lanes of a mask; writes to p7 are discarded (R25). -/
def Crew.pWr (c : Crew) (n : Nat) (lanes : W32) (x : Nat → Bool) : Crew :=
  if n = 7 then c
  else
    { c with
      p := tset c.p n ((tget 0 c.p n &&& ~~~lanes) ||| (maskOf x &&& lanes))
      pend := c.pend.map (fun p => (lanesOf lanes).foldl (fun p l => p.contest none none (some (32 * n + l))) p) }

/-! ### Pending writes -/

/-- The pending writes of a stream that have not returned. -/
def Crew.out (c : Crew) (st : Stream) : List Pending := c.pend.filter (fun p => p.strm = st && !p.returned)

/-- The table of a stream has no free entry (R343: 32 L entries, 8 S entries). -/
def Crew.tableFull (c : Crew) (st : Stream) : Bool :=
  match st with
  | .l => decide (32 ≤ (c.out .l).length)
  | .s => decide (8 ≤ (c.out .s).length)

/-- A pending write recorded; a destination that has a pending write already is contested (R345). -/
def Crew.addPend (c : Crew) (st : Stream) (vs : Tbl W32) (ps : Tbl Bool) (ss : Tbl W64) (ready poison : Bool) (pos : Pos) : Crew :=
  let both {α : Type} (t : Tbl α) (has : Pending → Nat → Bool) : List Nat := (t.map (fun e => e.1)).filter (fun k => c.pend.any (fun p => has p k))
  { c with
    pend := c.pend ++ [{ id := c.nextPid, strm := st, vs := vs, ps := ps, ss := ss, ready := ready && !poison, returned := false, poison := poison,
                         pos := pos, sc := both ss (fun p k => (tget? p.ss k).isSome), vc := both vs (fun p k => (tget? p.vs k).isSome),
                         pc := both ps (fun p k => (tget? p.ps k).isSome) }]
    nextPid := c.nextPid + 1 }

/-- A load's pending write, with what it leaves to its return (R309). -/
def Crew.addLoad (c : Crew) (st : Stream) (vs : Tbl W32) (ss : Tbl W64) (poison : Bool) (pos : Pos) (late : List Late) : Crew :=
  let c' := c.addPend st vs [] ss true poison pos
  { c' with pend := c'.pend.dropLast ++ (c'.pend.getLast?.map (fun (p : Pending) => { p with late := late })).toList }

/-- The destinations that a pending write wins: all but the contested ones, of those the device's choice, each for itself (R345). -/
def Pending.wins {α : Type} (o tag : Nat) (p : Pending) (both : List Nat) (t : Tbl α) : Tbl α :=
  t.filter (fun e => !both.contains e.1 || Config.free o tag (65536 * p.id + e.1) % 2 = 0)

/-- The destinations of a pending write take its values. -/
def Crew.applyPend (o : Nat) (c : Crew) (p : Pending) : Crew :=
  { c with
    s := tsets c.s (p.wins o 4 p.sc p.ss)
    v := tsets c.v (p.wins o 5 p.vc p.vs)
    p := (p.wins o 6 p.pc p.ps).foldl (fun t e => tset t (e.1 / 32) (maskOf (fun l => if l = e.1 % 32 then e.2 else (tget 0 t (e.1 / 32)).getLsbD l))) c.p }

/-- A marker that has waited for the returned pending writes of a stream (R345, R346). -/
def Crew.mark (o : Nat) (c : Crew) (st : Stream) : Crew :=
  let c' := (c.pend.filter (fun p => p.strm = st && p.returned)).foldl (Crew.applyPend o) c
  { c' with pend := c'.pend.filter (fun p => !(p.strm = st && p.returned)) }

/-- Writes that a stop held go into their registers as the crew next issues (R412). -/
def Crew.release (c : Crew) : Crew := { c with pend := c.pend.map (fun (p : Pending) => { p with held := false }) }

/-- The registers as they stand: returned writes not held by a stop are in them (R412). -/
def Crew.landed (o : Nat) (c : Crew) : Crew :=
  let here (p : Pending) : Bool := p.returned && !p.held
  let c' := (c.pend.filter here).foldl (Crew.applyPend o) c
  { c' with pend := c'.pend.filter (fun p => !here p) }

/-- The L-stream is drained: every run has issued all its words and every L pending write has returned (R28). -/
def Crew.drained (c : Crew) : Bool := c.runs.isEmpty && (c.out .l).isEmpty

/-! ### The reconvergence stack -/

/-- The entry is a path that is not parked. -/
def Entry.running : Entry → Bool
  | .path _ _ _ _ none => true
  | _ => false

/-- The running path: the topmost unparked path (R30). The stack is held top first. -/
def Crew.runPath (c : Crew) : Option Entry := c.stack.find? Entry.running

/-- The crew's own wait leaves the S-stream free to issue, or to look again whether the wait is over. A crew parked on a wait marker is not ready
until the writes it waits for have returned, whichever path runs (R35). -/
def Crew.sReady (c : Crew) : Bool :=
  c.runPath.isSome && (match c.wait with
    | .marker .s => c.drained && (c.out .s).isEmpty
    | .marker .l => (c.out .l).isEmpty
    | .none | .stall _ | .again .s | .lnch _ | .checked => true
    | .again .l | .dry | .queue _ _ | .twait _ | .pixels _ | .regroup _ => false)

/-- The same for the L-stream, which goes on while an S-instruction waits for it to drain (R28). -/
def Crew.lReady (c : Crew) : Bool :=
  !c.runs.isEmpty && (match c.wait with
    | .marker .l => (c.out .l).isEmpty
    | .none | .marker .s | .stall _ | .again .l | .dry | .queue _ _ | .pixels _ => true
    | .again .s | .lnch _ | .twait _ | .checked | .regroup _ => false)

def Crew.ready (c : Crew) : Stream → Bool
  | .s => c.sReady
  | .l => c.lReady

/-- The crew is ready to issue a word of the stream: nothing it waits for is known. -/
def Crew.keen (c : Crew) (st : Stream) : Bool :=
  (match st, c.wait with
    | _, .none | .s, .stall .l | .l, .stall .s | .l, .marker .s => true
    | _, _ => false) && c.ready st

def Entry.pc : Entry → VA
  | .path pc _ _ _ _ => pc
  | .join _ pc _ _ _ => pc
def Entry.mask : Entry → W32
  | .path _ m _ _ _ => m
  | .join _ _ m _ _ => m
def Entry.link : Entry → Option Nat
  | .path _ _ l _ _ => l
  | .join _ _ _ _ l => l
def Entry.age : Entry → Nat
  | .path _ _ _ a _ => a
  | .join _ _ _ _ _ => 0
def Entry.park : Entry → Option Park
  | .path _ _ _ _ p => p
  | .join _ _ _ _ _ => none
def Entry.isPath : Entry → Bool
  | .path _ _ _ _ _ => true
  | .join _ _ _ _ _ => false

/-- The resume S-PC of the running path. A crew with no running path has none; where a record or a dump shows its S-PC, the model shows 0
(notes/assumptions/89). -/
def Crew.pc (c : Crew) : VA :=
  match c.runPath with
  | some e => e.pc
  | none => 0

/-- The active mask (R30). -/
def Crew.active (c : Crew) : W32 :=
  match c.runPath with
  | some e => e.mask
  | none => 0

/-- The running entry changed. -/
def mapRun (f : Entry → List Entry) : List Entry → List Entry
  | [] => []
  | e :: t => if e.running then f e ++ t else e :: mapRun f t

/-- The running path's S-PC set. -/
def Crew.setPc (c : Crew) (pc : VA) : Crew :=
  { c with stack := mapRun (fun e => match e with
      | .path _ m l a p => [.path pc m l a p]
      | .join i x m n l => [.join i x m n l]) c.stack }

/-- The running path resumes n bytes on. -/
def Crew.advance (c : Crew) (n : Nat) : Crew := c.setPc (c.pc + BitVec.ofNat 72 n)

/-- Rotation: the running path goes to the bottom with age 0 (R34). -/
def Crew.rotate (c : Crew) : Crew :=
  match c.runPath with
  | some (.path pc m l _ p) => { c with stack := mapRun (fun _ => []) c.stack ++ [.path pc m l 0 p] }
  | _ => c

/-- Rotation when the running path's age has reached the quantum (R34). -/
def Crew.rotateIfDue (c : Crew) (quantum : Nat) : Crew :=
  match c.runPath with
  | some e => if quantum ≤ e.age then c.rotate else c
  | none => c

/-- The running path's age counts one more L-instruction issued under its mask, saturating at 16 bits (R30, R34). -/
def Crew.agePath (c : Crew) (mask : W32) : Crew :=
  { c with stack := mapRun (fun e => match e with
      | .path pc m l a p => [.path pc m l (if m = mask then min (a + 1) 65535 else a) p]
      | .join i x m n l => [.join i x m n l]) c.stack }

/-- A path with the given link and mask arrives at its join entry (R32, R33). -/
def arriveJoin : Nat → Option Nat → W32 → List Entry → List Entry
  | 0, _, _, st => st
  | _, none, _, st => st
  | fuel + 1, some j, m, st =>
    match st.find? (fun e => match e with
      | .join i _ _ _ _ => i = j
      | .path _ _ _ _ _ => false) with
    | some (.join i x jm n l) =>
      if n ≤ 1 then
        if jm ||| m = 0 then arriveJoin fuel l 0 (st.filter (fun e => e ≠ .join i x jm n l))
        else st.map (fun e => if e = .join i x jm n l then .path (x + 4) (jm ||| m) l 0 none else e)
      else st.map (fun e => if e = .join i x jm n l then .join i x (jm ||| m) (n - 1) l else e)
    | _ => st

/-- The join entry of the running path. -/
def Crew.joinOf (c : Crew) (link : Option Nat) : Option Entry :=
  match link with
  | none => none
  | some j => c.stack.find? (fun e => match e with
    | .join i _ _ _ _ => i = j
    | .path _ _ _ _ _ => false)

/-- The running path leaves the stack and arrives at its join with the given lanes. -/
def Crew.leave (c : Crew) (m : W32) : Crew :=
  match c.runPath with
  | some e =>
    let st := mapRun (fun _ => []) c.stack
    { c with stack := arriveJoin (st.length + 1) e.link m st }
  | none => c

/-! ### Where a crew stands -/

/-- The L position of the oldest L-word not yet issued (R29). -/
def Crew.lposNext (c : Crew) : Option (Nat × Nat) :=
  match c.runs with
  | r :: _ => some (r.loff, r.done)
  | [] => none

/-- The position of a stop at an S-instruction (R29). -/
def Crew.sPos (c : Crew) : Pos := ⟨c.pc, c.lposNext⟩

/-- The position of a stop at the next L-word (R29). -/
def Crew.lPos (c : Crew) : Pos :=
  match c.runs with
  | r :: _ => ⟨r.spc, some (r.loff, r.done)⟩
  | [] => c.sPos

/-- The lanes that hold threads. -/
def Crew.live (c : Crew) : W32 := maskOf (fun l => (tget? c.threads l).isSome)

/-- The crew of a handle. -/
def State.crew? (s : State) (cid : Nat) : Option Crew := tget? s.crews cid

/-- The state with a crew replaced. -/
def State.setCrew (s : State) (cid : Nat) (c : Crew) : State := { s with crews := tset s.crews cid c }

/-- The state with a crew changed, if it exists. -/
def State.modCrew (s : State) (cid : Nat) (f : Crew → Crew) : State := { s with crews := tmod s.crews cid f }

/-! ### Guard slots and bins of a crew, also after it has retired (R20, R256) -/

/-- Guard slots by crew, with the crew's workgroup. -/
def State.guardSets (s : State) : List (Nat × Nat × Tbl Guard) :=
  s.crews.map (fun c => (c.1, c.2.g, c.2.guards)) ++ s.exited.map (fun x => (x.1, x.2.g, x.2.guards))
def State.guard (s : State) (cid slot : Nat) : Guard :=
  match tget? s.crews cid with
  | some c => tget .unbound c.guards slot
  | none => (tget? s.exited cid).elim .unbound (fun x => tget .unbound x.guards slot)
/-- The acquire of a slot's trigger (R262). -/
def State.trig (s : State) (cid slot : Nat) : List Nat :=
  match tget? s.crews cid with
  | some c => tget [] c.trigs slot
  | none => (tget? s.exited cid).elim [] (fun x => tget [] x.trigs slot)
/-- A guard slot gets a state, and the acquire of its trigger. -/
def State.setGuard (s : State) (cid slot : Nat) (g : Guard) (trig : List Nat) : State :=
  { s with crews := tmod s.crews cid (fun c => { c with guards := tset c.guards slot g, trigs := tset c.trigs slot trig })
           exited := tmod s.exited cid (fun x => { x with guards := tset x.guards slot g, trigs := tset x.trigs slot trig }) }
def State.bin (s : State) (cid n : Nat) : Nat :=
  match tget? s.crews cid with
  | some c => tget 0 c.bins n
  | none => (tget? s.exited cid).elim 0 (fun x => tget 0 x.bins n)
/-- A bin counter is reset (R263). -/
def State.clearBin (s : State) (cid n : Nat) : State :=
  { s with crews := tmod s.crews cid (fun c => { c with bins := tset c.bins n 0 })
           exited := tmod s.exited cid (fun x => { x with bins := tset x.bins n 0 }) }

def State.wg? (s : State) (g : Nat) : Option Workgroup := tget? s.wgs g
def State.setWg (s : State) (g : Nat) (w : Workgroup) : State := { s with wgs := tset s.wgs g w }
def State.modWg (s : State) (g : Nat) (f : Workgroup → Workgroup) : State := { s with wgs := tmod s.wgs g f }
def State.launch? (s : State) (l : Nat) : Option Launch := tget? s.launches l
def State.modLaunch (s : State) (l : Nat) (f : Launch → Launch) : State := { s with launches := tmod s.launches l f }

/-- The launch of a crew. -/
def State.launchOf (s : State) (c : Crew) : Option Launch :=
  match s.wg? c.g with
  | some w => s.launch? w.lid
  | none => none

/-- The SLOT of a crew: [13:6] core, [5:4] partition, [3:0] index (R378). -/
def slotNo (core part idx : Nat) : Nat := core * 64 + part * 16 + idx

def State.slotOf (s : State) (c : Crew) : Nat :=
  match s.wg? c.g with
  | some w => slotNo w.core c.part c.idx
  | none => slotNo 0 c.part c.idx

/-- v-registers of a crew (R21, R25). -/
def Kernel.vregs (k : Kernel) : Nat := 8 * k.vregs8

/-- The yield quantum (R21, R34). -/
def Kernel.quantum (k : Kernel) : Nat := if k.yq = 0 then 1024 else 64 * k.yq

/-- Barrier time-out in ns (R21). -/
def Kernel.btoNs (k : Kernel) : Nat := if k.bto = 0 then 10000000 else k.bto * 10000

/-- Bytes of scratch and of the stream and record buffer (R63, R72). -/
def Kernel.scratchBytes (k : Kernel) : Nat := k.poolB1 * 16384
def Kernel.bufferBytes (k : Kernel) : Nat := (k.poolB2 - k.poolB1) * 16384

/-- Workgroups of the launch (R359). -/
def Record.total (r : Record) : Nat := r.gx * r.gy * r.gz

/-- The kernel descriptor of no launch: used only where a crew's launch is gone. -/
def Kernel.none : Kernel :=
  { sentry := 0, lbase := 0, pstack := 0, pstackKib := 0, vregs8 := 0, ftz := false, rgrpOk := false, rgrpCore := false, poolB1 := 0,
    poolB2 := 0, poolB3 := 0, yq := 0, bto := 0, rdepth := 0, payload := 0, sslots := 0, acct := 0, ptiles := 0 }

/-- The kernel descriptor and context under which a crew runs. -/
def State.kernOf (s : State) (c : Crew) : Kernel :=
  match s.launchOf c with
  | some l => l.kern
  | none => Kernel.none
def State.ctxOf (s : State) (c : Crew) : Nat :=
  match s.launchOf c with
  | some l => l.ctx
  | none => 0

/-- The core of a crew, and its quad (R16). -/
def State.coreOf (s : State) (c : Crew) : Nat :=
  match s.wg? c.g with
  | some w => w.core
  | none => 0

/-- Some thread of the crew is displaced: under CORE scope, every thread of a crew that RGRP has formed (R146, R143). -/
def State.displaced (s : State) (c : Crew) : Bool := (s.kernOf c).rgrpCore && bitAt c.key 17

end Sys2Proof.Machine
end

