-- ==== Sys2Proof/Machine/Places.lean ====
section
/-! DEFINITION. The bytes that an access of each space reaches (03 R54, R63, R66, R72), the presence of scratch lines (R64). -/

namespace Sys2Proof.Machine

/-- The key of a gang of a launch. -/
def gangKey (lid gi : Nat) : Nat := lid * 2 ^ 32 + gi

/-- The gang size of a launch. -/
def State.gangSize (s : State) (lid : Nat) : Nat := (s.launch? lid).elim 0 (fun l => l.record.gang)

/-! ### Bytes and their places -/

/-- Where one byte of an access lies: physical memory, a workgroup's scratch, or the scratch a retired gang member left (R19). -/
inductive Loc where
  | mem (pa : Nat)
  | scr (g off : Nat)
  | left (key member off : Nat)
deriving DecidableEq, Repr

/-- How a scratch is named (R64): a workgroup's, or what a retired gang member left. -/
def scrKey (g : Nat) : Nat := 2 * g
def leftKey (key m : Nat) : Nat := 2 * (16 * key + m) + 1

/-- Bytes of scratch are named above physical addresses. -/
def scrBase : Nat := 2 ^ 64

/-- The name of a byte in the graph. -/
def Loc.key : Loc → Nat
  | .mem pa => pa
  | .scr g off => scrBase + scrKey g * 2 ^ 24 + off
  | .left k m off => scrBase + leftKey k m * 2 ^ 24 + off

/-- The byte of a name. -/
def locOf (key : Nat) : Loc :=
  let k := (key - scrBase) / 2 ^ 24
  if key < scrBase then .mem key
  else if k % 2 = 0 then .scr (k / 2) ((key - scrBase) % 2 ^ 24)
  else .left (k / 32) (k / 2 % 16) ((key - scrBase) % 2 ^ 24)

/-- The storage class of a byte: 0 GLB, 1 SCR (R82). -/
def storageOf (key : Nat) : Nat := if scrBase ≤ key then 1 else 0

/-- One byte of a workgroup's scratch space. Scratch starts as zeros (R63); what the stream and record buffer above it holds where no record has
landed is the device's own, and changes when a stream register stages a line (R72; notes/assumptions/4, 92). -/
def State.scrByte (s : State) (g : Nat) (w : Workgroup) (off : Nat) : Byte :=
  match tget? w.scratch off with
  | some v => v
  | none =>
    if (s.launch? w.lid).elim false (fun l => decide (l.kern.scratchBytes ≤ off)) then BitVec.ofNat 8 (Config.free w.staged 37 (2 ^ 24 * g + off)) else 0

/-- One byte. -/
def State.getLoc (s : State) : Loc → Byte
  | .mem pa => s.rd pa
  | .scr g off => (s.wg? g).elim 0 (fun w => s.scrByte g w off)
  | .left k m off => (tget? s.gangs k).elim 0 (fun x => tget 0 (tget [] x.left m) off)

/-- One byte written. -/
def State.putLoc (s : State) (l : Loc) (v : Byte) : State :=
  match l with
  | .mem pa => s.wr pa v
  | .scr g off => s.modWg g (fun w => { w with scratch := tset w.scratch off v })
  | .left k m off => { s with gangs := tmod s.gangs k (fun x => { x with left := tset x.left m (tset (tget [] x.left m) off v) }) }

/-- What one access comes to: its bytes' places, or why it fails. -/
abbrev Locs := Except AccFault (List Loc)

/-- The gang member's scratch byte (R66). -/
def State.gangLoc (s : State) (lid gi size a : Nat) : Loc :=
  let line := a / 128
  let member := line % size
  let off := line / size * 128 + a % 128
  match s.wgs.find? (fun w => w.2.lid = lid && w.2.wgi = gi * size + member) with
  | some w => .scr w.1 off
  | none => .left (gangKey lid gi) member off

/-- Bytes at their places. -/
def State.getLocs (s : State) (ls : List Loc) : Nat := leNat (ls.map s.getLoc)
def State.putLocs (s : State) (ls : List Loc) (bs : List Byte) : State := (ls.zip bs).foldl (fun s e => s.putLoc e.1 e.2) s

/-- The scratch line of a byte (R64), named as copies name it: of a workgroup, or of what a retired gang member left. -/
def Loc.line : Loc → Option (Nat × Nat)
  | .scr g off => some (scrKey g, off / 128)
  | .left key m off => some (leftKey key m, off / 128)
  | .mem _ => none

/-- The count of a scratch line (R64). -/
def State.lineCount (s : State) (l : Nat × Nat) : Nat :=
  if l.1 % 2 = 0 then (s.wg? (l.1 / 2)).elim 0 (fun w => tget 0 w.lines l.2)
  else (tget? s.gangs (l.1 / 32)).elim 0 (fun x => tget 0 (tget [] x.leftLines (l.1 / 2 % 16)) l.2)

/-- The count of a scratch line set. -/
def State.setLine (s : State) (l : Nat × Nat) (n : Nat) : State :=
  if l.1 % 2 = 0 then s.modWg (l.1 / 2) (fun w => { w with lines := tset w.lines l.2 n })
  else { s with gangs := tmod s.gangs (l.1 / 32) (fun x =>
    { x with leftLines := tset x.leftLines (l.1 / 2 % 16) (tset (tget [] x.leftLines (l.1 / 2 % 16)) l.2 n) }) }

/-- A scratch line is absent while its count is not 0 (R64). -/
def State.lineAbsent (s : State) (l : Nat × Nat) : Bool := s.lineCount l ≠ 0

/-- Some byte of the access lies in an absent line (R64, R305). -/
def State.absent (s : State) (ls : List Loc) : Bool := (ls.filterMap Loc.line).any s.lineAbsent

/-- The bytes of a lane's destination or source in a space, as places, with the space's own limit (R63, R66, R68). -/
def State.spaceLocs (s : State) (g lid ctx : Nat) (sp : Space) (a : Acc) (addr n : Nat) : Locs :=
  let kern := (s.launch? lid).elim Kernel.none (fun l => l.kern)
  match sp with
  | .glb =>
    match s.access ctx a addr n with
    | .error f => .error f
    | .ok ps => .ok ((paList ps).map Loc.mem)
  | .scr =>
    if n ≠ 0 && decide ((if a.writes then kern.scratchBytes else kern.scratchBytes + kern.bufferBytes) < addr + n) then .error ⟨3, addr, 0⟩
    else .ok ((List.range n).map (fun i => Loc.scr g (addr + i)))
  | .gang =>
    let size := s.gangSize lid
    if n ≠ 0 && decide (size * kern.scratchBytes < addr + n) then .error ⟨3, addr, 0⟩
    else .ok ((List.range n).map (fun i => s.gangLoc lid ((s.wg? g).elim 0 (fun w => w.wgi / size)) size (addr + i)))

/-- Scratch lines a range touches, each once. -/
def locLines (ls : List Loc) : List (Nat × Nat) := (ls.filterMap Loc.line).eraseDups

end Sys2Proof.Machine
end

