-- ==== Sys2Proof/Machine/Order.lean ====
section
/-! DEFINITION. Ordering, scopes and atomicity (04 R78 to R101). The accesses, fences and ordering points of a run are the nodes of one graph;
program order, synchronises-with and happens-before are its edges; each byte keeps the coherence order of its writes. A read returns one of the
writes that R88 to R93 permit, and a write takes one of the places in the coherence order that they permit: both are the device's choice. -/

namespace Sys2Proof.Machine

/-- Bytes written together, as one single-copy atomic write (R93): those of memory enter its history as one. -/
def State.putUnit (s : State) (xs : List (Nat × Byte)) : State :=
  let mem := xs.filter (fun x => decide (x.1 < scrBase))
  let s1 := (xs.filter (fun x => !decide (x.1 < scrBase))).foldl (fun (s : State) x => s.putLoc (locOf x.1) x.2) s
  if mem.isEmpty then s1 else s1.wrUnit mem

/-! ### Agents and scopes (R81) -/

def Agent.isHost : Agent → Bool
  | .host _ => true
  | _ => false

def Agent.isEngine : Agent → Bool
  | .engine _ => true
  | _ => false

def Agent.ofLaunch (lid : Nat) : Agent → Bool
  | .thread t => t.lid = lid
  | _ => false

/-- Two threads of one workgroup. -/
def Agent.sameWg : Agent → Agent → Bool
  | .thread a, .thread b => a.lid = b.lid && a.wgi = b.wgi
  | _, _ => false

/-- Two threads of one gang; in a launch without gangs, of one workgroup. -/
def Agent.sameGang (size : Nat) : Agent → Agent → Bool
  | .thread a, .thread b => a.lid = b.lid && (if size = 0 then a.wgi = b.wgi else a.wgi / size = b.wgi / size)
  | _, _ => false

/-- Agent y lies within the scope of an operation of agent x (R81); each scope includes those before it. CREW is the crew slot as it was when the
operation executed (R144). FLEET acts as SYS (R98). -/
def Ev.reaches (e : Ev) (x y : Agent) : Bool :=
  e.mates.contains y || (decide (1 ≤ e.scope) && x.sameWg y) || (decide (2 ≤ e.scope) && x.sameGang e.gang y)
    || (decide (3 ≤ e.scope) && !y.isHost) || decide (4 ≤ e.scope)

/-! ### Nodes and program order (R78, R79) -/

def Ev.writes (e : Ev) (key : Nat) : Bool := e.bytes.any (fun b => b.key = key && b.wr.isSome)
def Ev.reads (e : Ev) (key : Nat) : Bool := e.bytes.any (fun b => b.key = key && b.rf.isSome)
def Ev.touches (e : Ev) (key : Nat) : Bool := e.bytes.any (fun b => b.key = key)
def Ev.isAccess (e : Ev) : Bool := e.what = .access

/-- a precedes b in the program order of a thread of both (R79): it has ended before b's place, which for an access of the other stream is what a
drain or an LRUN has set. An access that has no end yet (a copy before its CWAIT, R96) precedes nothing. -/
def Ev.po (a b : Ev) : Bool :=
  (match a.fin with
    | none => false
    | some (st, m) => decide (m < if st = b.strm then b.start else b.seen)) && a.thr.any b.thr.contains

/-- An ordering operation (R78), as which an SO access counts (R87); one with an empty mask orders nothing (R83). -/
def Ev.ordering (e : Ev) : Bool := (e.mask ≠ 0 && (e.acq || e.rel)) || (e.isAccess && e.kind = 1)

/-- Both are accesses by stream registers, or neither: R99 orders the one kind against the other by operations alone. -/
def Ev.alike (a b : Ev) : Bool := decide (a.cls = 3) = decide (b.cls = 3)

/-- The operation orders the access, program order apart (R84): its class is in the mask, and a UO access takes a fence with U. -/
def Ev.orders (op a : Ev) : Bool := a.isAccess && bitAt op.mask a.cls && (a.kind ≠ 2 || op.u)

def Ev.blank : Ev := { id := 0, thr := [], start := 0, ins := 0 }
def State.ev (s : State) (i : Nat) : Ev := s.evs.getD i Ev.blank

/-! ### Coherence order (R90) -/

/-- The writes to a byte, in their order. -/
def State.order (s : State) (key : Nat) : List Nat := (tget? s.orders key).elim [] Order.ws

/-- The place of a write in a byte's order; 0 is what the byte held at first. -/
def State.rank (s : State) (key : Nat) : Option Nat → Nat
  | none => 0
  | some w => (s.order key).findIdx (fun x => x = w) + 1

/-- The value that a write gives a byte, or what it held at first. -/
def State.valueOf (s : State) (key : Nat) : Option Nat → Byte
  | none => (tget? s.orders key).elim (s.getLoc (locOf key)) Order.init
  | some w => (((s.ev w).bytes.find? (fun b => b.key = key)).bind (fun b => b.wr)).getD 0

/-- The values that a read has returned, byte by byte. -/
def State.returned (s : State) (i : Nat) : List Byte := (s.ev i).bytes.map (fun b => s.valueOf b.key (b.rf.getD .none))

/-- A byte as the writes made before an event left it. -/
def State.asOf (s : State) (key n : Nat) : Byte := s.valueOf key (((s.order key).filter (fun w => decide (w < n))).getLast?)

/-- The value of the byte of a name that an event has read. -/
def State.gotten (s : State) (i key : Nat) : Byte := s.valueOf key ((((s.ev i).bytes.find? (fun b => b.key = key)).bind (fun b => b.rf)).getD .none)

/-! ### Synchronises-with (R84 to R86) -/

/-- The writes that an acquire operation hears: those its carrier reads return and, where such a write is an atomic, those before it in the
byte's order (R84, R85). The carriers of a fence are the reads before it; a UO read is one only of a fence with U (R91). -/
def State.heard (s : State) (b : Ev) : List Nat :=
  (if b.isAccess then (if b.kind = 2 then [] else [b])
    else s.evs.filter (fun r => r.isAccess && r.po b && bitAt b.mask r.cls && (r.kind ≠ 2 || b.u))).flatMap (fun r =>
      r.bytes.flatMap (fun x => match x.rf with
        | some (some w) => w :: (if (s.ev w).atomic && (s.ev w).kind ≠ 2 then (s.order x.key).takeWhile (fun v => v ≠ w) else [])
        | _ => []))

/-- A write is a carrier of a release operation: the access itself, or a write after the fence (R84). -/
def Ev.carriedBy (w rel : Ev) : Bool :=
  if rel.isAccess then w.id = rel.id && w.kind ≠ 2 else rel.po w && w.isAccess && bitAt rel.mask w.cls && (w.kind ≠ 2 || rel.u)

/-- Each operation reaches an agent of the other; scratch is reached only within a workgroup or gang (R81, R83). -/
def meet (scr : Bool) (a b : Ev) : Bool :=
  a.thr.any (fun x => b.thr.any (fun y => a.reaches x y && b.reaches y x && (!scr || x.sameGang a.gang y)))

/-- a synchronises with b (R85, R86). -/
def State.syncs (s : State) (scr : Bool) (heard : List Nat) (a b : Ev) : Bool :=
  (a.rel && b.acq && a.mask ≠ 0 && b.mask ≠ 0 && heard.any (fun w => (s.ev w).carriedBy a) && meet scr a b)
    || (a.what = .sc && b.what = .sc && s.scs.findIdx (fun x => x = a.id) < s.scs.findIdx (fun x => x = b.id) && meet scr a b)

/-! ### Happens-before (R87) -/

/-- Program order between two accesses to a common byte on an SO or RC page or in scratch, and from a write to a later read of a UO byte. -/
def Ev.sameByte (a b : Ev) : Bool :=
  a.isAccess && b.isAccess && a.alike b && ((a.kind ≠ 2 && b.kind ≠ 2 && b.op.isNone && a.bytes.any (fun x => b.touches x.key))
    || (a.kind = 2 && b.kind = 2 && a.bytes.any (fun x => x.wr.isSome && b.reads x.key)))

/-- A direct edge of happens-before: what an event was given as before it (R87's table), a launch's accesses before its completion, R84, program
order between ordering operations or on a common byte, what precedes a barrier or an LNCH, and synchronises-with. -/
def State.edge (s : State) (scr : Bool) (heard : List Nat) (a b : Ev) : Bool :=
  a.id ≠ b.id &&
    ((b.pre.contains a.id && a.kind ≠ 2 && b.kind ≠ 2)
      || b.whole.any (fun l => a.isAccess && a.cls = 0 && a.kind ≠ 2 && a.thr.any (fun x => x.ofLaunch l))
      || (a.po b && ((b.rel && b.orders a && !(b.thr.any Agent.isHost && !a.bytes.any (fun x => x.wr.isSome))) || (a.acq && a.orders b)
        || (a.ordering && b.ordering && !b.thr.any Agent.isHost) || (b.what = .point && b.orders a && a.kind ≠ 2) || a.sameByte b))
      || s.syncs scr heard a b)

/-- All that happens before an event, as a set of numbers: bit i is event i. -/
def State.hbOf (s : State) (scr : Bool) (b : Ev) : Nat :=
  let heard := if b.acq then s.heard b else []
  s.evs.foldl (fun m a => if s.edge scr heard a b then m ||| (if scr then a.hbScr else a.hb) ||| 2 ^ a.id else m) 0

def State.setEv (s : State) (e : Ev) : State := { s with evs := s.evs.map (fun x => if x.id = e.id then e else x) }

/-- An event joins the graph. -/
def State.push (s : State) (e : Ev) : State :=
  let e1 := { e with id := s.evs.length }
  { s with evs := s.evs ++ [{ e1 with hb := s.hbOf false e1, hbScr := s.hbOf true e1 }] }

/-- Happens-before computed once more for every event, until nothing changes: what a choice about an earlier event asks for. -/
def State.closing : Nat → State → State
  | 0, s => s
  | n + 1, s =>
    let t := (List.range s.evs.length).foldl (fun (t : State) i =>
      let e := t.ev i
      t.setEv { e with hb := t.hbOf false e, hbScr := t.hbOf true e }) s
    if t.evs = s.evs then s else t.closing n
def State.close (s : State) : State :=
  State.closing (s.evs.length + 1) { s with evs := s.evs.map (fun (e : Ev) => { e with hb := 0, hbScr := 0 }) }

/-! ### What the rules permit (R88 to R95) -/

/-- What happens before an access to a byte: for scratch, by paths within the workgroup or gang (R83). -/
def Ev.before (e : Ev) (key : Nat) : Nat := if storageOf key = 1 then e.hbScr else e.hb

/-- An access must not miss a write: it happens before it, or precedes a copy in program order to a common byte, or is a copy's write to scratch
that has landed before the access found the line present, as an earlier access is to a copy that absented the line (R64, R96). -/
def State.mustSee (s : State) (e : Ev) (key w : Nat) : Bool :=
  let x := s.ev w
  (e.before key).testBit w || (e.op.isSome && x.po e && x.kind ≠ 2)
    || (storageOf key = 1 && (if e.op.isSome && e.writes key then decide (w < e.start)
        else x.op.isSome && x.op.map (fun p => p.1) ≠ e.op.map (fun p => p.1) && decide (w < e.id)))

/-- A write that a higher lane of its store has overwritten: no read returns it (R80). -/
def State.lost (s : State) (key : Nat) : Option Nat → Bool
  | none => false
  | some w =>
    let x := s.ev w
    match (s.order key)[s.rank key (some w)]? with
    | some v => (s.ev v).ins = x.ins && x.op.isNone && (s.ev v).op.isNone && !x.atomic && !(s.ev v).atomic && x.thr.length = 1
    | none => false

/-- A UO read's own writes that no own write follows (R91). -/
def State.ownLatest (s : State) (e : Ev) (key : Nat) : List Nat :=
  let mine := (s.order key).filter (fun w => (s.ev w).po e)
  mine.filter (fun w => !mine.any (fun v => (s.ev w).po (s.ev v)))

/-- A read of a byte may return a write: R88 and R90, or on a UO page R91. -/
def State.readOk (s : State) (e : Ev) (key : Nat) (rf : Option Nat) : Bool :=
  let ws := (s.order key).filter (fun w => w ≠ e.id)
  if e.kind = 2 then
    let own := s.ownLatest e key
    (match rf with
      | none => own.isEmpty && !ws.any (fun w => e.hb.testBit w)
      | some w => !(s.ev w).hb.testBit e.id && !ws.any (fun v => e.hb.testBit v && (s.ev v).hb.testBit w)
          && (own.isEmpty || own.contains w || (!(s.ev w).thr.any e.thr.contains && own.all (fun v => !(s.ev v).hb.testBit w))))
      && (!e.atomic || s.evs.all (fun r => r.id = e.id || !r.atomic || r.bytes.all (fun x => x.key ≠ key || x.rf ≠ some rf)))
  else
    let at_ := s.rank key rf
    ws.all (fun w => !s.mustSee e key w || decide (s.rank key (some w) ≤ at_))
      && s.evs.all (fun r => r.id = e.id || r.kind = 2 || !((e.before key).testBit r.id || r.po e && r.alike e)
          || r.bytes.all (fun x => x.key ≠ key || x.rf.all (fun q => decide (s.rank key q ≤ at_))))

/-- A write to a byte stands where R88 and R90 permit: after the writes before it, unread by what happens before it, next after the write that an
atomic of it reads, and never between an atomic and the write that this reads. -/
def State.writeOk (s : State) (e : Ev) (b : EvByte) : Bool :=
  let at_ := s.rank b.key (some e.id)
  let ws := s.order b.key
  s.evs.all (fun r => !(e.before b.key).testBit r.id || r.bytes.all (fun x => x.key ≠ b.key || x.rf ≠ some (some e.id)))
    && (e.kind = 2 ||
      (ws.all (fun w => w = e.id || !s.mustSee e b.key w || decide (s.rank b.key (some w) < at_))
        && (!e.atomic || b.rf = some (if at_ = 1 then none else ws[at_ - 2]?))
        && (match ws[at_]? with
          | some v => !(s.ev v).atomic || (s.ev v).bytes.all (fun x => x.key ≠ b.key || x.rf.isNone || x.rf = some (some e.id))
          | none => true)))

/-- Bytes that the event moves as one single-copy atomic access (R93). -/
def Ev.unitOf (e : Ev) (key : Nat) : Nat := ((e.bytes.find? (fun b => b.key = key)).map (fun b => b.unit)).getD 0

/-- No single-copy atomic access tears a single-copy atomic write (R93): at both bytes it stands on one side of it. Nor does any access tear a word of a
rasteriser's update (R185). -/
def State.wholeOk (s : State) (e : Ev) : Bool :=
  e.bytes.all (fun x => e.bytes.all (fun y => y.key = x.key ||
    (s.order x.key).all (fun w =>
      let a := s.ev w
      !((x.unit ≠ 0 && y.unit = x.unit) || (a.atomic && a.op.isSome && x.key / 8 = y.key / 8)) || w = e.id || a.unitOf x.key = 0 || a.unitOf x.key ≠ a.unitOf y.key || !a.writes y.key ||
        (decide (s.rank x.key (some w) ≤ (if x.wr.isSome then s.rank x.key (some e.id) else s.rank x.key (x.rf.getD none)))
          = decide (s.rank y.key (some w) ≤ (if y.wr.isSome then s.rank y.key (some e.id) else s.rank y.key (y.rf.getD none)))))))

/-- a stands before b in every total order of the SO accesses (R89): by happens-before, by a byte's order, or as a read of what b overwrites. -/
def State.soStep (s : State) (a b : Ev) : Bool :=
  a.kind = 1 && b.kind = 1 && a.id ≠ b.id &&
    (b.hb.testBit a.id || b.bytes.any (fun y => a.bytes.any (fun x => x.key = y.key &&
      ((x.wr.isSome && y.rf = some (some a.id)) || (x.wr.isSome && y.wr.isSome && decide (s.rank x.key (some a.id) < s.rank x.key (some b.id)))
        || (y.wr.isSome && x.rf.any (fun q => decide (s.rank x.key q < s.rank x.key (some b.id))))))))

/-- The SO accesses that stand before some event in every such order. -/
def State.soBefore (s : State) : Nat → List Ev → List Nat → List Nat
  | 0, _, seen => seen
  | n + 1, front, seen =>
    let new := s.evs.filter (fun a => !seen.contains a.id && front.any (fun b => s.soStep a b))
    if new.isEmpty then seen else s.soBefore n new (seen ++ new.map (fun a => a.id))

/-- The event agrees with all the rules: happens-before has no cycle through it, its bytes and SO's one order agree with R88 to R95, and the SC
fences stand in an order consistent with happens-before (R86). -/
def State.evOk (s : State) (e : Ev) : Bool :=
  !e.hb.testBit e.id
    && e.bytes.all (fun b => b.rf.all (s.readOk e b.key) && (b.wr.isNone || s.writeOk e b))
    && s.wholeOk e
    && (e.kind ≠ 1 || !(s.soBefore s.evs.length [e] []).contains e.id)
    && (e.what ≠ .sc || s.scs.all (fun f => !e.hb.testBit f || decide (s.scs.findIdx (fun x => x = f) < s.scs.findIdx (fun x => x = e.id))))

/-- The whole graph agrees with the rules. -/
def State.consistent (s : State) : Bool := s.evs.all s.evOk

/-! ### Reads -/

/-- The event with the writes that its reads return. -/
def Ev.returning (e : Ev) (rfs : List (Option Nat)) : Ev :=
  { e with bytes := (e.bytes.zip rfs).map (fun x => if x.1.rf.isSome then { x.1 with rf := some x.2 } else x.1) }

/-- The writes that one byte of a read may return; `may` says which are in question, `fits` whether the graph agrees. -/
def State.picks (s : State) (e : Ev) (may : Option Nat → Bool) (fits : Ev → Bool) (b : EvByte) : List (Option Nat) :=
  if b.rf.isNone then [none]
  else
    let floor := if e.kind = 2 then 0 else ((s.order b.key).filter (s.mustSee e b.key)).foldl (fun m w => max m (s.rank b.key (some w))) 0
    match (none :: (s.order b.key).map some).filter (fun r => decide (floor ≤ s.rank b.key r) && !s.lost b.key r && may r) with
    | [r] => [r]
    | rs => rs.filter (fun r => fits { e with bytes := [{ b with rf := some r }] })

/-- A read chooses its writes, byte by byte, so that the graph agrees with all of them; else it keeps `dflt`. -/
def State.pickReads (s : State) (e dflt : Ev) (fits : Ev → Bool) (cs : List (List (Option Nat))) : Ev :=
  if cs.all (fun c => decide (c.length ≤ 1)) then dflt
  else
    let e' := e.returning (((List.range cs.length).zip cs).map (fun x => choose s.oracle 30 (e.id * 2 ^ 32 + x.1) none x.2))
    if fits e' then e' else dflt

/-- A read: of the writes to each byte that the rules permit, one of the device's choice. What it would return in issue order is always permitted. A
read placed before the latest events is held to the whole graph. -/
def State.enterRead (s : State) (e0 : Ev) : State :=
  let e1 := { e0 with id := s.evs.length }
  let e := { e1 with hb := s.hbOf false e1, hbScr := s.hbOf true e1 }
  let late := s.evs.any e.po
  let fits (x : Ev) : Bool := if late then ((s.push x).close).consistent else (s.push x).evOk ((s.push x).ev e.id)
  let cs := e.bytes.map (s.picks e (fun _ => true) fits)
  let dflt := e.returning ((e.bytes.zip cs).map (fun x =>
    ((x.2.filter (fun r => r.all (fun w => decide (w < e.start)))).getLast?).getD ((x.2.getLast?).getD ((s.order x.1.key).getLast?))))
  let t := s.push (s.pickReads e dflt fits cs)
  if late then t.close else t

/-- A read that has not delivered yet looks again: it may return a write that has come since (R88, R309). -/
def State.lookAgain (s : State) (i : Nat) : State :=
  let e := s.ev i
  if e.bytes.all (fun b => (s.order b.key).all (fun w => decide (w ≤ i))) then s
  else
    let fits (x : Ev) : Bool := ((s.setEv x).close).consistent
    let may (b : EvByte) (r : Option Nat) : Bool := b.rf = some r || r.any (fun w => decide (i < w))
    let cs := e.bytes.map (fun b => s.picks e (may b) fits b)
    let e' := s.pickReads e e fits cs
    if e' = e then s else (s.setEv e').close

/-! ### Writes -/

/-- Writes take their place in a byte's order. -/
def State.insert (s : State) (key p : Nat) (ids : List Nat) : State :=
  let o : Order := (tget? s.orders key).getD { init := s.getLoc (locOf key), ws := [] }
  { s with orders := tset s.orders key { o with ws := o.ws.take p ++ ids ++ o.ws.drop p } }

/-- Bytes cut into the parts that are single-copy atomic. -/
def evUnits (xs : List EvByte) : List (List EvByte) :=
  xs.foldl (fun (out : List (List EvByte)) b =>
    match out.getLast?.bind List.head? with
    | some a => if a.unit ≠ 0 && a.unit = b.unit then out.dropLast ++ [(out.getLast?.getD []) ++ [b]] else out ++ [[b]]
    | none => out ++ [[b]]) []

/-- Memory and scratch hold what stands last in each byte's order. -/
def State.stand (s : State) (ids : List Nat) : State :=
  ids.foldl (fun (s : State) i => (evUnits (s.ev i).bytes).foldl (fun (s : State) u =>
    s.putUnit (u.filterMap (fun b => if (s.order b.key).getLast? = some i then b.wr.map (fun v => (b.key, v)) else none))) s) s

/-- The places in a byte's order that the rules leave to some writes: `try_ p` is the graph with them there. -/
def State.places (s : State) (es : List Ev) (key : Nat) (try_ : Nat → State) : List Nat :=
  let n := (s.order key).length
  if es.any (fun e => e.kind = 2) then [n]
  else
    let floor := es.foldl (fun m e => ((s.order key).filter (s.mustSee e key)).foldl (fun m w => max m (s.rank key (some w))) m) 0
    match (List.range (n + 1)).filter (fun p => decide (floor ≤ p) && (p = 0 || !s.lost key (s.order key)[p - 1]?)) with
    | [p] => [p]
    | ps => ps.filter (fun p => p = n || (try_ p).close.consistent)

/-- Places for several bytes: chosen by the device among those that agree together, else after all that stands there. -/
def State.choosePlaces (s : State) (keys : List Nat) (cs : Nat → List Nat) (graph : (Nat → Nat) → State) : State :=
  let ends (k : Nat) : Nat := (s.order k).length
  if keys.all (fun k => decide ((cs k).length ≤ 1)) then graph ends
  else
    let t := (graph (fun k => choose s.oracle 32 k (ends k) (cs k))).close
    if t.consistent then t else graph ends

/-- The writes of one instruction enter the graph. Each byte's writes stand together, in ascending lane order (R80). -/
def State.enterWrites (s : State) (es0 : List Ev) : State :=
  let es := ((List.range es0.length).zip es0).map (fun x =>
    let e := { x.2 with id := s.evs.length + x.1 }
    { e with hb := s.hbOf false e, hbScr := s.hbOf true e })
  let keys := (es.flatMap (fun e => e.bytes.map (fun b => b.key))).eraseDups
  let of (key : Nat) : List Ev := es.filter (fun e => e.writes key)
  let graph (ks : List Nat) (at_ : Nat → Nat) : State :=
    ks.foldl (fun (t : State) k => t.insert k (at_ k) ((of k).map (fun e => e.id)))
      (es.foldl (fun (t : State) e => t.push { e with bytes := e.bytes.filter (fun b => ks.contains b.key) }) s)
  (s.choosePlaces keys (fun k => s.places (of k) k (fun p => graph [k] (fun _ => p))) (graph keys)).stand (es.map (fun e => e.id))

/-- A read-modify-write (R90, R94, R95): it reads the writes next before its own in each byte's order and writes `f` of their values; on a UO page it
reads what R91 permits, and stands after the other atomics that have read the same. -/
def State.enterUpdate (s : State) (e0 : Ev) (f : List Byte → List Byte) : State :=
  let e1 := { e0 with id := s.evs.length }
  let e := { e1 with hb := s.hbOf false e1, hbScr := s.hbOf true e1 }
  let ends (k : Nat) : Nat := (s.order k).length
  let graph (e : Ev) (ks : List Nat) (at_ : Nat → Nat) : State :=
    let e' := { e with bytes := (e.bytes.filter (fun b => ks.contains b.key)).map (fun b =>
      if e.kind = 2 then b else { b with rf := some (if at_ b.key = 0 then none else (s.order b.key)[at_ b.key - 1]?) }) }
    ks.foldl (fun (t : State) k => t.insert k (at_ k) [e.id]) (s.push e')
  let keys := (e.bytes.map (fun b => b.key)).eraseDups
  let t := if e.kind = 2 then
      let fits (x : Ev) : Bool := (s.push x).evOk ((s.push x).ev e.id)
      let cs := e.bytes.map (s.picks e (fun _ => true) fits)
      let dflt := e.returning ((e.bytes.zip cs).map (fun x => (x.2.getLast?).getD ((s.order x.1.key).getLast?)))
      graph (s.pickReads e dflt fits cs) keys ends
    else s.choosePlaces keys (fun k => s.places [e] k (fun p => graph e [k] (fun _ => p))) (graph e keys)
  let x := t.ev e.id
  let new := f (t.returned e.id)
  (t.setEv { x with bytes := (x.bytes.zip new).map (fun y => { y.1 with wr := some y.2 }) }).stand [e.id]

/-! ### Fences -/

/-- A fence; one of kind SC takes a place in the order of all SC fences (R86). -/
def State.enterFence (s : State) (e : Ev) : State :=
  let t := s.push e
  let id := s.evs.length
  if e.what ≠ .sc then t
  else
    let n := s.scs.length
    let put (p : Nat) : State := ({ t with scs := s.scs.take p ++ [id] ++ s.scs.drop p }).close
    let floor := ((List.range n).filter (fun i => ((t.ev id).hb).testBit (s.scs.getD i 0))).foldl (fun m i => max m (i + 1)) 0
    match (List.range (n + 1)).filter (fun p => decide (floor ≤ p)) with
    | [p] => put p
    | ps => put (choose s.oracle 31 id n (ps.filter (fun p => p = n || (put p).consistent)))

/-- Accesses end: what follows in the stream's program order comes after them (R96, R185). -/
def State.finish (s : State) (st : Stream) (mine : Ev → Bool) : State :=
  { s with evs := s.evs.map (fun (e : Ev) => if e.fin.isNone && mine e then { e with fin := some (st, s.evs.length - 1) } else e) }

/-! ### Accesses by devices and the host -/

/-- A byte of an access: its name, the page's kind (0 RC, 1 SO, 2 UO), the page, and the part of the access that is single-copy atomic. -/
structure ByteAt where
  key : Nat
  kind : Nat
  page : Nat
  unit : Nat
deriving DecidableEq, Repr

/-- The ordering part of an access (R78, R83). -/
structure Sync where
  acq : Bool
  rel : Bool
  scope : Nat
  mask : Nat
deriving DecidableEq, Repr

def syncOf (ordk scope mask : Nat) : Sync := ⟨ordk = 1 || ordk = 3, ordk = 2 || ordk = 3, scope, mask⟩
def Sync.plain : Sync := ⟨false, false, 0, 0⟩

/-- An access of part of the bytes, from the place of its instruction; the parts on different pages are different accesses (R92). -/
def Ev.access (place : Ev) (y : Sync) (bs : List (ByteAt × EvByte)) : Ev :=
  { place with what := .access, acq := y.acq, rel := y.rel, scope := y.scope, mask := if y.acq || y.rel then y.mask else 0,
               cls := (bs.head?).elim 0 (fun b => storageOf b.1.key), kind := (bs.head?).elim 0 (fun b => b.1.kind), bytes := bs.map (fun b => b.2) }
def byPage (bs : List (ByteAt × EvByte)) : List (List (ByteAt × EvByte)) :=
  ((bs.map (fun b => b.1.page)).eraseDups).map (fun p => bs.filter (fun b => b.1.page = p))

/-- Bytes are read from a place: the state and the events of the parts. -/
def State.readAt (s : State) (place : Ev) (y : Sync) (bs : List ByteAt) : State × List Nat :=
  (byPage (bs.map (fun b => (b, { key := b.key, rf := some none, unit := b.unit })))).foldl (fun (p : State × List Nat) part =>
    (p.1.enterRead (Ev.access place y part), p.2 ++ [p.1.evs.length])) (s, [])

/-- The events of bytes written from a place. -/
def writesAt (place : Ev) (y : Sync) (bs : List ByteAt) (vals : List Byte) : List Ev :=
  (byPage ((bs.zip vals).map (fun b => (b.1, { key := b.1.key, wr := some b.2, unit := b.1.unit })))).map (Ev.access place y)

/-- The place of an access that a device engine or the host makes now. -/
def State.placeOf (s : State) (x : Agent) : Ev :=
  { id := s.evs.length, thr := [x], start := s.evs.length, fin := some (.s, s.evs.length), ins := s.oracle }

/-- The ordering kind of the page of a virtual address: 0 RC, 1 SO, 2 UO (R56). -/
def State.pageKind (s : State) (ctx va : Nat) : Nat := match s.translate ctx va with
  | .ok lf => if lf.ord = 3 then 0 else lf.ord
  | .error _ => 0

/-- The access is single-copy atomic (R93). -/
def single (addr n : Nat) : Bool := (n = 1 || n = 2 || n = 4 || n = 8) && addr % n = 0

/-- The bytes of an access at an address, of pages each of its own kind (R92); `unit` names the single-copy atomic part of the byte at a place. -/
def State.bytesWith (s : State) (ctx : Nat) (sp : Space) (addr : Nat) (unit : Nat → Nat) (ls : List Loc) : List ByteAt :=
  let page (i : Nat) : Nat := if sp = .glb then (addr + i) % 2 ^ 72 / 65536 else 0
  let kinds := if sp = .glb then (((List.range ls.length).map page).eraseDups).map (fun p => (p, s.pageKind ctx (p * 65536))) else [(0, 0)]
  ((List.range ls.length).zip ls).map (fun x =>
    ⟨x.2.key, ((kinds.find? (fun k => k.1 = page x.1)).map (fun k => k.2)).getD 0, page x.1, unit x.1⟩)

/-- The bytes of a load, store or atomic; a part of it on a page of its own is single-copy atomic as its own size and alignment allow (R92, R93). -/
def State.bytesAt (s : State) (ctx : Nat) (sp : Space) (addr : Nat) (ls : List Loc) : List ByteAt :=
  let here := if sp = .glb then min ls.length (65536 - addr % 65536) else ls.length
  s.bytesWith ctx sp addr (fun i => if i < here then (if single addr here then 1 else 0) else if single 0 (ls.length - here) then 1 else 0) ls

/-- Byte i of n at an address belongs to an aligned 8-byte word that is moved whole (R93). -/
def wordUnit (addr n i : Nat) : Nat :=
  if addr ≤ (addr + i) / 8 * 8 && (addr + i) / 8 * 8 + 8 ≤ addr + n then (addr + i) / 8 + 1 else 0

/-- Ranges of virtual addresses are read from a place: the state, and for each range the events of its parts; none for a range that cannot be read. -/
def State.readRanges (s : State) (place : Ev) (ctx : Nat) (words : Bool) (ranges : List (Nat × Nat)) : State × List (List Nat) :=
  ranges.foldl (fun (p : State × List (List Nat)) r => match p.1.access ctx .engine r.1 r.2 with
    | .error _ => (p.1, p.2 ++ [[]])
    | .ok ps =>
      let q := p.1.readAt place Sync.plain
        (p.1.bytesWith ctx .glb r.1 (fun i => if words then wordUnit r.1 r.2 i else 0) ((paList ps).map Loc.mem))
      (q.1, p.2 ++ [q.2])) (s, [])

/-- Engines by kind and object: 1 completion entries, 2 trap rings, 3 Peal, 4 Kiln, 5 collectives, 6 stream logic, 7 guard slots. -/
def engineOf (kind obj : Nat) : Agent := .engine (16 * obj + kind)

/-- An engine writes bytes at a virtual address; aligned 8-byte words whole where `words` says so. -/
def State.engineWrite (s : State) (place : Ev) (y : Sync) (ctx va : Nat) (words : Bool) (ps : List (Nat × Nat)) (bs : List Byte) : State :=
  s.enterWrites (writesAt place y (s.bytesWith ctx .glb va (fun i => if words then wordUnit va bs.length i else 0) ((paList ps).map Loc.mem)) bs)

/-- The bytes of a step's writes that have not entered the order of 04 with the access that wrote them. -/
def State.unordered (s : State) : List Nat :=
  ((s.writes.flatten.map (fun c => c.1)).eraseDups).filter (fun pa => !(s.order pa).any (fun w => (s.ev w).ins = s.oracle))

/-- Bytes that the step has written since `writes` had n units enter the order of 04, the latest of each byte, as the writes of an event. -/
def State.claimWrites (s : State) (n : Nat) (e : Ev) : State :=
  let keys := (((s.writes.take (s.writes.length - n)).flatten).map (fun c => c.1)).eraseDups
  if keys.isEmpty then s
  else
    let id := s.evs.length
    { s with orders := keys.foldl (fun t k => tset t k (match tget? t k with
        | some o => { o with ws := o.ws ++ [id] }
        | none => { init := memGet s.mem k, ws := [id] })) s.orders }.push
      { e with ins := s.oracle, bytes := keys.map (fun k => { key := k, wr := some (s.rd k) }) }

/-- Bytes are read as they stand: the event reads what is last in each byte's order. -/
def State.readLast (s : State) (e : Ev) (keys : List Nat) : State :=
  if keys.isEmpty then s else s.push { e with bytes := keys.map (fun k => { key := k, rf := some ((s.order k).getLast?) }) }

/-- A watcher reads a counter: what stands there, as an acquire at DEV scope over GLB for some threads, which orders nothing else of theirs (R262).
The state, the value, and the events of the acquire. -/
def State.watchFor (s : State) (thr mates : List Agent) (gang ctx addr : Nat) : Except AccFault (State × Nat × List Nat) :=
  match s.access ctx .watch addr 8 with
  | .error f => .error f
  | .ok ps =>
    let bs := (s.bytesAt ctx .glb addr ((paList ps).map Loc.mem)).map (fun (b : ByteAt) =>
      (b, ({ key := b.key, rf := some ((s.order b.key).getLast?), unit := b.unit } : EvByte)))
    let place : Ev := { id := s.evs.length, thr := thr, start := 0, mates := mates, gang := gang, ins := s.oracle }
    .ok (s.push (Ev.access place ⟨true, false, 3, 1⟩ bs), leNat (s.rdPieces ps), [s.evs.length])

/-- The end of a step: the bytes written enter memory in canonical form, what they held the history. Those of no access enter the order of 04 as one
write of an engine that orders nothing. -/
def State.commit (s : State) : State :=
  let new := s.unordered
  let e : Ev := { id := s.evs.length, thr := [], start := s.evs.length, ins := s.oracle, bytes := new.map (fun pa => { key := pa, wr := some (s.rd pa) }) }
  let p := settleWrites s.mem s.writes
  { s with
    mem := p.1
    hist := p.2 ++ s.hist
    evs := if new.isEmpty then s.evs else s.evs ++ [e]
    orders := new.foldl (fun t pa => tset t pa (match tget? t pa with
      | some o => { o with ws := o.ws ++ [e.id] }
      | none => { init := memGet s.mem pa, ws := [e.id] })) s.orders
    writes := [] }

/-! ### What copies read (R64, R96) -/

/-- A lane of a copy changed. -/
def State.modCopyLane (s : State) (op lane : Nat) (f : CopyLane → CopyLane) : State :=
  { s with copies := s.copies.map (fun (c : CopyOp) =>
      if c.id = op then { c with lanes := c.lanes.map (fun (k : CopyLane) => if k.lane = lane then f k else k) } else c) }

/-- A lane's copy reads the aligned words of its source that `want` names and that it has not read yet: reads of its thread, placed at the CPY (R96). -/
def State.takeSource (s : State) (op : CopyOp) (lane : Nat) (want : Nat → Bool) : State :=
  match (s.copies.find? (fun (c : CopyOp) => c.id = op.id)).bind (fun c => c.lanes.find? (fun (k : CopyLane) => k.lane = lane)) with
  | none => s
  | some k =>
    let n := op.len.getD 0
    match s.spaceLocs op.g op.lid op.ctx op.ssp .copyRead k.src n with
    | .error _ => s
    | .ok ls =>
      let bs := ((List.range n).zip (s.bytesWith op.ctx op.ssp k.src (wordUnit k.src n) ls)).filter (fun x =>
        want ((k.src + x.1) / 8) && !k.reads.any (fun y => y.1 = x.1))
      let r := s.readAt { k.place with ins := s.oracle } Sync.plain (bs.map (fun x => x.2))
      let got := bs.map (fun x => (x.1, (r.2.find? (fun i => (r.1.ev i).touches x.2.key)).getD 0, x.2.key))
      r.1.modCopyLane op.id lane (fun k => { k with reads := k.reads ++ got })

/-- Copies to global memory that go on without their workgroups read all that they have left in scratch (R385, R388). -/
def State.takeSources (s : State) (gs : List Nat) : State :=
  (s.copies.filter (fun c => gs.contains c.g && c.left && c.dsp = .glb && c.ssp ≠ .glb)).foldl (fun s c =>
    c.lanes.foldl (fun (s : State) k => if k.landed || k.held then s else s.takeSource c k.lane (fun _ => true)) s) s

/-- Bytes that go by another name from now on: those of a scratch that a gang member leaves (R19). -/
def State.rename (s : State) (a b : Nat) : State :=
  let named (key : Nat) : Nat := if scrBase + a * 2 ^ 24 ≤ key && key < scrBase + (a + 1) * 2 ^ 24 then key - a * 2 ^ 24 + b * 2 ^ 24 else key
  { s with evs := s.evs.map (fun (e : Ev) => { e with bytes := e.bytes.map (fun (x : EvByte) => { x with key := named x.key }) }),
           orders := tsets [] (s.orders.map (fun x => (named x.1, x.2))),
           copies := s.copies.map (fun (c : CopyOp) =>
             { c with lanes := c.lanes.map (fun (k : CopyLane) => { k with reads := k.reads.map (fun x => (x.1, x.2.1, named x.2.2)) }) }) }

/-! ### Threads (R79, R87) -/

/-- The events that R87's table puts before every access of a thread: what made its launch visible, and the openings of its barriers. -/
def State.ledBy (s : State) (t : Thread) : List Nat :=
  (s.launch? t.lid).elim [] (fun l => l.start ++
    (if l.record.gang = 0 then [] else (tget? s.gangs (gangKey t.lid (t.wgi / l.record.gang))).elim [] Gang.opens))
    ++ ((s.wgs.find? (fun w => w.2.lid = t.lid && w.2.wgi = t.wgi)).elim [] (fun w => w.2.opens))

/-- The place of an access of some lanes of a crew that issues now; `seen` is where its stream last met the other one (R79). -/
def State.place (s : State) (c : Crew) (lanes : W32) (st : Stream) (seen : Nat) : Ev :=
  let ts := (c.threads.filter (fun t => lanes.getLsbD t.1)).map (fun t => t.2)
  let n := s.evs.length
  { id := n, thr := ts.map Agent.thread, strm := st, start := n, seen := seen, fin := some (st, n), mates := c.threads.map (fun t => .thread t.2),
    gang := (s.launchOf c).elim 0 (fun l => l.record.gang), pre := (ts.flatMap s.ledBy).eraseDups, ins := s.oracle }

/-- The places of the lanes' own accesses. -/
def State.lanePlace (s : State) (c : Crew) (r : LRun) (l : Nat) : Ev := s.place c (BitVec.ofNat 32 (2 ^ l)) .l r.since
def State.sPlace (s : State) (c : Crew) : Ev := s.place c c.active .s (tget 0 s.joins s.focus)

/-- A fence of each thread of some lanes: kinds 0 ACQ, 1 REL, 2 AR, 3 SC (R83 to R86). -/
def State.fence (s : State) (c : Crew) (lanes : W32) (st : Stream) (seen kind scope mask : Nat) (u : Bool) : State :=
  let p := s.place c lanes st seen
  p.thr.foldl (fun (t : State) x => t.enterFence { p with
    id := t.evs.length, thr := [x], pre := [], what := if kind = 3 then .sc else .fence, acq := kind ≠ 1, rel := kind ≠ 0, scope := scope, mask := mask,
    u := u }) s

/-- An operation on a pool, a node queue or a hardware work queue (class REC, R82) by each thread of a place, after some events: the state and the
events. -/
def State.operate (s : State) (p : Ev) (y : Sync) (pre : List Nat) : State × List Nat :=
  (p.thr.foldl (fun (t : State) x => t.push { p with
    thr := [x], cls := 4, acq := y.acq, rel := y.rel, scope := y.scope, mask := y.mask, pre := p.pre ++ pre }) s,
   (List.range p.thr.length).map (fun i => s.evs.length + i))

/-- A point of R87's table: every access of the classes of a mask that precedes it in the program order of the threads comes before it. -/
def State.point (s : State) (p : Ev) (mask : Nat) : State := s.push { p with what := .point, mask := mask, pre := [] }

/-- A draining S-instruction, or one with W, stands after the L-instructions that it waited for (R79). -/
def State.joinStreams (s : State) (cid : Nat) : State := { s with joins := tset s.joins cid s.evs.length }

/-- A marker that has waited for a RAST's pending write places its accesses in the order of their threads (R185). -/
def State.placeRasts (s : State) (c : Crew) (st : Stream) : State :=
  (c.pend.filter (fun p => p.returned)).foldl (fun s p => match p.rast with
    | some i => s.finish st (fun e => e.op.map (fun x => x.1) = some i)
    | none => s) s

end Sys2Proof.Machine
end

