-- ==== Sys2Proof/Machine/Life.lean ====
section
/-! DEFINITION. Lives of launches, workgroups, crews and barriers: the barrier rules (01 R36 to R39, 14 R257), the end of a crew,
workgroup and launch (01 R20, 21 R364 to R370), killing a launch (22 R385), trap records waiting for their ring (22 R378, R380), tile
stamps and counters (24 R418 to R421). -/

namespace Sys2Proof.Machine

/-! ### Counters and stamps (24) -/

/-- The partition is stopped by the debug handler (R410). -/
def State.partStopped (s : State) (core part : Nat) : Bool := s.dbg.any (fun d => d.core = core && d.part = part)

/-- n events of a code for a context (R421). -/
def State.count (s : State) (ctx code n : Nat) : State :=
  { s with counters := (List.range 8).foldl (fun t k =>
      if bits (s.r64 (ctrBlk ctx)) (8 * k + 7) (8 * k) = code && code ≠ 0 then
        tset t (8 * ctx + k) (tget 0 t (8 * ctx + k) + BitVec.ofNat 64 n)
      else t) s.counters }

/-- n events of a crew's command; none while its workgroup is switched out or its partition is stopped (R421). -/
def State.countFor (s : State) (cid ctx code n : Nat) : State :=
  match s.crew? cid with
  | some c =>
    if (s.wg? c.g).elim false (fun w => w.phase = .resident || w.phase = .stopping) && !s.partStopped (s.coreOf c) c.part then s.count ctx code n
    else s
  | none => s.count ctx code n

/-- A stamp enters the trace ring whole, or is dropped and counted (R420). -/
def State.writeStamp (s : State) (t : Stamp) : State :=
  let lg := bits (s.r32 (trcBlk + 0x10)) 20 16
  let put := s.r32 (trcBlk + 0x18)
  if !bitAt (s.r32 (trcBlk + 0x10)) 31 || lg < 6 || 20 < lg then s
  else if (put + 2 ^ 32 - s.r32 (trcBlk + 0x1C)) % 2 ^ 32 = 2 ^ lg then s.countField (trcBlk + 0x10) 15 0
  else
    let bs := leBytes 4 t.lid ++ leBytes 4 t.wgi ++ leBytes 2 t.slotNo ++ leBytes 2 t.gen ++ leBytes 1 t.kind ++ leBytes 1 t.pt
      ++ leBytes 2 t.slot ++ leBytes 8 t.cinIssue ++ leBytes 8 t.cinLand ++ leBytes 8 t.opReady ++ leBytes 8 t.grant
      ++ leBytes 8 t.passDone ++ leBytes 8 (if t.kind = 1 then 0 else t.coutLand)
    (s.pwrite (bits (s.r64 trcBlk) 51 7 * 128 + 64 * (put % 2 ^ lg)) bs).w32 (trcBlk + 0x18) (put + 1)

/-- Complete stamps leave for the ring: the pass is done, every copy-out has landed, and the stamp is closed by the next MMA or
the crew's retirement. A closed stamp of kind 1 with no copies is dropped (R418). -/
def State.flushStamps (s : State) : State :=
  let ready (t : Stamp) : Bool := t.done && t.closed && t.outs.all (fun o => !(s.copies.any (fun c => c.id = o)))
  let rs := s.stamps.filter ready
  (rs.filter (fun t => t.kind = 0 || !t.outs.isEmpty)).foldl State.writeStamp
    { s with stamps := s.stamps.filter (fun t => !ready t) }

/-- Stamps of a crew close: the next MMA has issued, or the crew has retired. A crew that issued an MMA leaves no stamp of kind 1. -/
def State.closeStamps (s : State) (cid : Nat) : State :=
  ({ s with stamps := s.stamps.map (fun (t : Stamp) => if t.cid = cid then { t with closed := true } else t) }).flushStamps

/-! ### Trap records (22 R378 to R380) -/

/-- Bytes 4 to 127 of a trap record (R378). -/
def trapBytes (cls flags slot gen code lid wgi lanes spc lpos addr tnow : Nat) (detail : List (Nat × Nat × Nat)) : List Byte :=
  leBytes 1 cls ++ leBytes 1 flags ++ leBytes 2 slot ++ leBytes 2 gen ++ leBytes 2 code ++ leBytes 4 lid ++ leBytes 4 wgi
    ++ leBytes 4 lanes ++ leBytes 10 spc ++ leBytes 3 lpos ++ leBytes 3 0 ++ leBytes 10 addr ++ leBytes 6 0 ++ leBytes 8 tnow
    ++ detail.foldl (fun bs d => (List.range bs.length).map (fun i =>
        if d.1 - 64 ≤ i && decide (i < d.1 - 64 + d.2.1) then BitVec.ofNat 8 (d.2.2 / 256 ^ (i - (d.1 - 64))) else bs.getD i 0))
      (List.replicate 64 0)

/-- LPOS of a position: [16:0] L-offset, [23:17] index, or 0xFF_FFFF (R378). -/
def lposBits (p : Option (Nat × Nat)) : Nat :=
  match p with
  | some (o, i) => o % 2 ^ 17 + i % 128 * 2 ^ 17
  | none => 0xFFFFFF

/-- A record joins the device buffer of 64; a deferred one that finds it full is dropped and counted (R380). -/
def State.pushRec (s : State) (r : TrapRec) : State :=
  if r.deferred && decide (64 ≤ s.trapBuf.length) then s.countField (mmuBlk r.ctx + 0x40) 31 16
  else { s with trapBuf := s.trapBuf ++ [{ r with id := s.nextHandle }], nextHandle := s.nextHandle + 1 }

/-- A record that no crew's stop made: deferred errors and reports (R376), for a context. -/
def State.recOf (s : State) (ctx cls flags slot gen code lid wgi lanes : Nat) (pos : Pos) (addr : Nat)
    (detail : List (Nat × Nat × Nat)) (cmd wg slotW : Option Nat) (waits : Bool) : TrapRec :=
  { id := 0, ctx := ctx,
    bytes := trapBytes cls (flags + (if waits then 8 else 0)) slot gen code lid wgi lanes pos.spc.toNat (lposBits pos.lpos) addr s.tnow detail,
    deferred := bitAt flags 0, waits := waits, cid := wg, cmd := cmd, parent := slotW }

def State.report (s : State) (ctx cls flags slot gen code lid wgi lanes : Nat) (pos : Pos) (addr : Nat)
    (detail : List (Nat × Nat × Nat)) (cmd wg slotW : Option Nat) (waits : Bool) : State :=
  s.pushRec (s.recOf ctx cls flags slot gen code lid wgi lanes pos addr detail cmd wg slotW waits)

/-- Lanes, SLOT, GEN, LID and WGI of a crew, for its records (R378). -/
def State.genOf (s : State) (c : Crew) : Nat := tget 0 s.gens (s.slotOf c)
def State.wgiOf (s : State) (c : Crew) : Nat := (s.wg? c.g).elim 0 (fun w => w.wgi)
def State.lidOf (s : State) (c : Crew) : Nat := (s.wg? c.g).elim 0 (fun w => w.lid)

/-- The context of a launch. -/
def State.ctxOfLid (s : State) (lid : Nat) : Nat := (s.launch? lid).elim 0 (fun l => l.ctx)

/-- Whose an access of a crew is. -/
def State.whoOf (s : State) (c : Crew) : Who := ⟨s.slotOf c, s.genOf c, s.lidOf c, s.wgiOf c⟩

/-- The workgroup of a crew, and how its records name it, also after it has retired (R378). -/
def State.crewPlace (s : State) (cid : Nat) : Option (Nat × Who) :=
  match s.crew? cid with
  | some c => some (c.g, s.whoOf c)
  | none => (tget? s.exited cid).map (fun x => (x.g, x.who))

/-- A deferred error record carrying a command's position (R204, R330, R156); a crew that has retired is named as it stood when the command
was issued (R378). -/
def State.deferRec (s : State) (ctx cls cid : Nat) (who : Who) (pos : Pos) (lanes addr : Nat) (detail : List (Nat × Nat × Nat)) : State :=
  let w := (s.crew? cid).elim who s.whoOf
  s.report ctx cls (if (s.crew? cid).isSome then 1 else 3) w.slot w.gen 0 w.lid w.wgi lanes pos addr detail none none none false

/-! ### Barriers (01 R36 to R39, 14 R257) -/

def Barrier.empty : Barrier := ⟨[], 0, none, 0, []⟩

/-- The live threads of a workgroup, wherever regroup has put them (R36, R145). -/
def State.threadsOf (s : State) (lid wgi : Nat) : List Thread :=
  s.crews.flatMap (fun c => (c.2.threads.map (fun t => t.2)).filter (fun t => t.lid = lid && t.wgi = wgi))

/-- The live threads of a gang (R257). -/
def State.gangThreads (s : State) (lid gi size : Nat) : List Thread :=
  s.crews.flatMap (fun c => (c.2.threads.map (fun t => t.2)).filter (fun t => t.lid = lid && t.wgi / size = gi))

def State.barrier (s : State) : BarRef → Barrier
  | .wg g n => (s.wg? g).elim Barrier.empty (fun w => tget Barrier.empty w.bars n)
  | .gang lid gi n => (tget? s.gangs (gangKey lid gi)).elim Barrier.empty (fun x => tget Barrier.empty x.bars n)

def State.setBarrier (s : State) (r : BarRef) (b : Barrier) : State :=
  match r with
  | .wg g n => s.modWg g (fun w => { w with bars := tset w.bars n b })
  | .gang lid gi n => { s with gangs := tmod s.gangs (gangKey lid gi) (fun x => { x with bars := tset x.bars n b }) }

/-- The barrier clocks of a workgroup run: it is resident, no crew of it waits at a trap or stands on a stopped partition (R38, R377,
R410). -/
def State.clockRuns (s : State) (g : Nat) : Bool :=
  (s.wg? g).elim false (fun w => w.phase = .resident && w.crews.all (fun cid => (s.crew? cid).elim true (fun c =>
    c.stop.isNone && !s.partStopped w.core c.part)))

/-- The threads a barrier counts. -/
def State.barThreads (s : State) : BarRef → List Thread
  | .wg g _ => (s.wg? g).elim [] (fun w => s.threadsOf w.lid w.wgi)
  | .gang lid gi _ => s.gangThreads lid gi (s.gangSize lid)

/-- The workgroups a barrier belongs to, by handle. -/
def State.barWgs (s : State) : BarRef → List Nat
  | .wg g _ => [g]
  | .gang lid gi _ => (s.wgs.filter (fun w => w.2.lid = lid && w.2.wgi / s.gangSize lid = gi)).map (fun w => w.1)

/-- A path parked on the barrier. -/
def barParks (r : BarRef) (e : Entry) : Bool :=
  match e.park, r with
  | some p, .wg _ n => !p.gang && p.n = n
  | some p, .gang _ _ n => p.gang && p.n = n
  | none, _ => false

/-- Unparks every path of a crew that is parked on the barrier. A running path that is no longer the topmost one starts a new age (R34). -/
def Crew.unpark (r : BarRef) (c : Crew) : Crew :=
  let st := c.stack.map (fun e => match e with
      | .path pc m l a p => if barParks r (.path pc m l a p) then .path pc m l a none else .path pc m l a p
      | .join i x m n l => .join i x m n l)
  let top := st.find? Entry.running
  { c with stack := st.map (fun e => match e with
      | .path pc m l _ none => if some e = top then e else .path pc m l 0 none
      | e => e) }

/-- The epoch of a workgroup's group registers ends (R39). -/
def Workgroup.endEpoch (w : Workgroup) : Workgroup :=
  { w with gregs := w.gregs.map (fun e => (e.1, { e.2 with old := e.2.cur, writer := none })) }

/-- An opening stands before the accesses of a workgroup or gang from now on; those that happen before it add nothing to it (R87). -/
def State.opened (s : State) (r : BarRef) (o : Nat) : State :=
  let add (os : List Nat) : List Nat := os.filter (fun i => !(s.ev o).hb.testBit i) ++ [o]
  match r with
  | .wg g _ => s.modWg g (fun w => { w with opens := add w.opens })
  | .gang lid gi _ => { s with gangs := tmod s.gangs (gangKey lid gi) (fun x => { x with opens := add x.opens }) }

/-- A barrier opens when every live thread has arrived and the counter is 0: arrivals and clock are cleared, the phase counts, parked
paths go on, and the epoch ends (R36, R39); the opening comes after the accesses that preceded the arrivals and the copies tagged with the barrier, and
before every access that follows it (R87). -/
def State.tryOpen (s : State) (r : BarRef) : State :=
  let b := s.barrier r
  if b.counter = 0 && !b.arrived.isEmpty && (s.barThreads r).all (fun t => b.arrived.contains t) then
    let s := s.setBarrier r { arrived := [], counter := 0, clock := none, phase := b.phase + 1 }
    let gs := s.barWgs r
    let s := (s.push { Ev.blank with start := s.evs.length, what := .point, pre := b.pre, ins := s.oracle }).opened r s.evs.length
    let s := { s with crews := s.crews.map (fun c => if gs.contains c.2.g then (c.1, c.2.unpark r) else c) }
    gs.foldl (fun s g => s.modWg g Workgroup.endEpoch) s
  else s

/-- Every barrier that a change of live threads may open (R37). -/
def State.openAll (s : State) : State :=
  let refs := s.wgs.flatMap (fun w => w.2.bars.map (fun b => BarRef.wg w.1 b.1))
    ++ s.gangs.flatMap (fun x => x.2.bars.map (fun b => BarRef.gang (x.1 / 2 ^ 32) (x.1 % 2 ^ 32) b.1))
  refs.foldl State.tryOpen s

/-- A barrier's counter falls by a copy's bytes, modulo 2^32 (R36, R37); for a workgroup that is switched out the subtraction is held (R389). -/
def State.subBarrier (s : State) (r : BarRef) (n : Nat) : State :=
  let resident := (s.barWgs r).all (fun g => (s.wg? g).elim false (fun w => w.phase = .resident || w.phase = .stopping))
  if resident then
    let b := s.barrier r
    (s.setBarrier r { b with counter := (b.counter + 2 ^ 32 - n % 2 ^ 32) % 2 ^ 32 }).tryOpen r
  else
    match r with
    | .wg g k => s.modWg g (fun w => { w with heldSubs := w.heldSubs ++ [(k, n)] })
    | .gang lid gi k => { s with gangs := tmod s.gangs (gangKey lid gi) (fun x => { x with heldSubs := x.heldSubs ++ [(k, n)] }) }

/-! ### Hardware work queues (11 R205, R209) -/

/-- A workgroup's bound targets are unbound and their queues poisoned (R205, R385). -/
def State.unbindTargets (s : State) (g : Nat) : State :=
  { s with hwqs := s.hwqs.map (fun q =>
      if q.2.targets.any (fun t => t.g = g) then (q.1, { q.2 with targets := q.2.targets.filter (fun t => t.g ≠ g), poison := true })
      else q) }

/-- Poisons the queues of a context (R208), or one queue of it (R206). -/
def State.poisonCtx (s : State) (ctx : Nat) : State :=
  { s with hwqs := s.hwqs.map (fun q => if q.2.ctx = ctx then (q.1, { q.2 with poison := true }) else q) }
def State.poisonQueue (s : State) (ctx q : Nat) : State :=
  { s with hwqs := tmod s.hwqs q (fun h => if h.ctx = ctx then { h with poison := true } else h) }

/-! ### Completion (21 R364, R365, R370) -/

/-- A launch's deadline: the record's, or the captured frame's (R50, R364). -/
def Launch.deadline (l : Launch) : Option Nat :=
  if l.record.deadline ≠ 0 then some l.record.deadline else l.frame.map (fun f => f.deadline)

/-- Entries of a launch queue's rings (R356). -/
def State.qSize (s : State) (q : Nat) : Nat := 2 ^ bits (s.r32 (qBlk q)) 11 8
def State.qCtx (s : State) (q : Nat) : Nat := bits (s.r32 (qBlk q)) 21 16

/-- The completion entry n of a queue is written, bytes 24 to 31 last: a release at SYS scope of the rest of the entry, which every access of the launch
comes before (R87), or for a record that was never taken what made it visible; a write that fails sets CRFAULT (R364, R365). -/
def State.writeCompletion (s : State) (q n tstart tend charge lid status lflags : Nat) (irq : Bool) (pre : List Nat) (whole : Option Nat) : State :=
  let va := ((s.addr72 (qBlk q + 0x18) (qBlk q + 0x20)).toNat + 32 * (n % s.qSize q)) % 2 ^ 72
  match s.access (s.qCtx q) .ring va 24, s.access (s.qCtx q) .ring ((va + 24) % 2 ^ 72) 8 with
  | .ok ps, .ok qs =>
    let who := engineOf 1 (q * 2 ^ 32 + n)
    let s1 := s.engineWrite (s.placeOf who) Sync.plain (s.qCtx q) va true ps (leBytes 8 tstart ++ leBytes 8 tend ++ leBytes 8 charge)
    let s2 := s1.engineWrite { s1.placeOf who with pre := pre, whole := whole } ⟨false, true, 4, 1⟩ (s.qCtx q) ((va + 24) % 2 ^ 72) true qs
      (leBytes 4 lid ++ leBytes 1 status ++ leBytes 1 lflags ++ leBytes 2 0)
    if irq then s2.interrupt (1 + q) else s2
  | _, _ => s.setField (qBlk q + 0x38) 2 2 1

/-- The queue's refined estimate (R370). -/
def State.refine (s : State) (q : Nat) (dur : Int) : State :=
  let e : Int := (s.r32 (qBlk q + 0x30) : Nat)
  let e' := e + (dur - e) / 8
  s.w32 (qBlk q + 0x30) (if e' < 0 then 0 else min e'.toNat (2 ^ 32 - 1))

/-- Index of a record in a pool, of an address (R194). -/
def Pool.index (p : Pool) (va : VA) : Nat := (va - p.base).toNat / (128 * p.rlines)

/-- A record returns to its pool's free list (R197), after the reads of the copies that have freed it (R321). -/
def State.freeRec (s : State) (p i : Nat) (reads : List Nat) : State :=
  { s with pools := tmod s.pools p (fun x => { x with busy := tdel x.busy i, back := tset x.back i reads }) }
def State.freeRecs (s : State) (p : Nat) (vas : List VA) : State :=
  vas.foldl (fun s va => match tget? s.pools p with
    | some x => s.freeRec p (x.index va) []
    | none => s) s

/-- A launch ends with a status: its completion entry, the estimate, and the launch is no more. A node batch writes no entry and
does not refine (R364, R365, R370, R374). -/
def State.complete (s : State) (lid status : Nat) : State :=
  match s.launch? lid with
  | none => s
  | some l =>
    let late := l.lateDone || (match l.deadline with
      | some d => decide (d < s.tnow)
      | none => false)
    let s := match l.ring with
      | some n => s.writeCompletion l.queue n l.tstart s.tnow l.charge lid status (if late then 1 else 0) l.record.irq [] (some lid)
      | none => s
    let s := if status = 1 && l.tstart ≠ 0 && l.batch.isNone then s.refine l.queue ((s.tnow : Int) - (l.tstart : Int)) else s
    let s := if status = 2 then s.countField (qBlk l.queue + 0x38) 15 4 else s
    let s := match l.batch with
      | some b => if b.placed then s else s.freeRecs b.pool b.recs
      | none => s
    { s with launches := tdel s.launches lid, gangs := s.gangs.filter (fun x => x.1 / 2 ^ 32 ≠ lid),
             reserved := s.reserved.filter (fun r => r.2.1 ≠ lid), freeing := s.freeing.filter (fun r => r.2 ≠ lid) }

/-! ### Regroup rounds (07 R138, R140) -/

/-- The workgroup holds its core's resources. -/
def Workgroup.onCore (w : Workgroup) : Bool := w.phase ≠ .evicted && w.phase ≠ .emergency

/-- The crew slot belongs to a round's set: its workgroup's, or those of one launch on one core (R138). -/
def State.inSet (s : State) (r : Round) (c : Crew) : Bool :=
  (s.wg? c.g).elim false (fun w => if r.coreScope then w.lid = r.set && w.core = r.core && w.onCore else c.g = r.set)

/-- The live crews of a round's set (R138). -/
def State.setCrews (s : State) (r : Round) : List Nat :=
  (s.crews.filter (fun c => !c.2.threads.isEmpty && s.inSet r c.2)).map (fun c => c.1)

/-- Some live thread has the crew's slot as home (R138). -/
def State.isHome (s : State) (c : Crew) : Bool :=
  match s.wg? c.g with
  | some w => (s.threadsOf w.lid w.wgi).any (fun t => t.crew = c.id)
  | none => false

/-- The crews that take part: arrived, and still parked in the round. -/
def State.arrivedIn (s : State) (r : Round) : List Arrival :=
  r.arrived.filter (fun a => (s.crew? a.cid).elim false (fun c => c.wait = .regroup r.id))

/-- A fired round moves the slot: it is neither retired nor taken by another round until the commit (R148, R150). -/
def State.moving (s : State) (cid : Nat) : Bool := s.rounds.any (fun r => r.fired && r.slots.contains cid)

/-- Dormant slots of the round's set: no thread, but the home of some live thread, and no other round moves them (R138). -/
def State.dormantIn (s : State) (r : Round) : List Nat :=
  (s.crews.filter (fun c => c.2.threads.isEmpty && s.inSet r c.2 && s.isHome c.2 && !s.moving c.1)).map (fun c => c.1)

def insertSlot (key : Nat → Nat) (x : Nat) : List Nat → List Nat
  | [] => [x]
  | y :: t => if key x < key y then x :: y :: t else y :: insertSlot key x t

/-- Participating slots in slot order (R141). -/
def State.participants (s : State) (r : Round) : List Nat :=
  (((s.arrivedIn r).map (fun a => a.cid)) ++ s.dormantIn r).foldr
    (insertSlot (fun cid => (s.crew? cid).elim 0 (fun c => c.part * 16 + c.idx))) []

/-- A round fires: its participating slots are those of this instant (R141), and its cycles count towards its commit from now on (R148). -/
def State.fire (s : State) (r : Round) : Round := { r with fired := true, elapsed := 0, slots := s.participants r }

/-- A round fires when every live crew of its set has arrived (R140, R147). -/
def State.fireRounds (s : State) : State :=
  { s with rounds := s.rounds.map (fun r =>
      if !r.fired && !r.arrived.isEmpty && (s.setCrews r).all (fun c => r.arrived.any (fun a => a.cid = c)) then s.fire r else r) }

/-! ### The end of a crew and a workgroup (01 R20, R138; 21 R367) -/

/-- A COLL's packets are not all acknowledged, or it has not left its head (R204). -/
def State.collOut (s : State) (op : Nat) : Bool :=
  s.cmds.any (fun c => c.id = op) || s.pairs.any (fun p => p.2.unacked.any (fun k => k.op = some op))

/-- Free bytes written to n physical bytes: what a save leaves there is the device's own (R389). -/
def State.scribble (s : State) (tag pa n : Nat) : State :=
  (List.range n).foldl (fun s i => s.wr (pa + i) (BitVec.ofNat 8 (Config.free s.oracle tag (pa + i)))) s

/-- Offset of MMU_EMERG and MMU_EMSTAT (R394). -/
def emergOff : Nat := mmuGlb + 0x18
def emstatOff : Nat := mmuGlb + 0x20

/-- The emergency area takes the core part of the first workgroup that waits its turn (R390, R392), which leaves its regroup set (R140). -/
def State.serveEmerg (s : State) : State :=
  match s.emerg, s.emergQueue with
  | none, g :: t =>
    if bitAt (s.r32 emergOff) 0 then
      let s1 : State := { s with emerg := some g, emergQueue := t }
      (((s1.modWg g (fun w => { w with phase := .emergency })).countField emstatOff 7 0).scribble 24 (bits (s.r64 emergOff) 51 16 * 65536) (18 * 65536)).fireRounds
    else s
  | _, _ => s

/-- A quad whose last workgroup has been saved or has gone leaves service (R428). -/
def State.finishRetiring (s : State) : State :=
  let gone := s.reeve.retiring.filter (fun q => s.wgs.all (fun w => w.2.core / 4 ≠ q || w.2.phase = .evicted))
  if gone.isEmpty then s
  else { s with reeve := { s.reeve with retiring := s.reeve.retiring.filter (fun q => !gone.contains q), retired := s.reeve.retired ++ gone } }

/-- A workgroup retires when its crew slots have retired and its copies and commands have completed (R20, R256): it is charged
(R367), its targets unbound (R205), its resources freed. -/
def State.tryRetireWg (s : State) (g : Nat) : State :=
  match s.wg? g with
  | none => s
  | some w =>
    if w.crews.isEmpty && !(s.copies.any (fun c => c.g = g)) && !(s.cmds.any (fun c => c.g = g))
        && !(s.batches.any (fun b => b.coll && b.thread.lid = w.lid && b.thread.wgi = w.wgi && s.collOut b.op)) then
      match s.launch? w.lid with
      | none => State.finishRetiring { s with wgs := tdel s.wgs g, exited := s.exited.filter (fun x => x.2.g ≠ g) }
      | some l =>
        let charge := ceilDiv (w.resident * l.record.crews) 64
        let s := if l.record.gang = 0 then s
          else
            let key := gangKey w.lid (w.wgi / l.record.gang)
            let m := w.wgi % l.record.gang
            let r := s.rename (scrKey g) (leftKey key m)
            { r with
              gangs := tmod s.gangs key (fun x => { x with left := tset x.left m w.scratch, leftLines := tset x.leftLines m w.lines })
              copies := r.copies.map (fun (c : CopyOp) => { c with lines := c.lines.map (fun x => if x.1 = scrKey g then (leftKey key m, x.2) else x) }) }
        let s := { s with wgs := tdel s.wgs g, exited := s.exited.filter (fun x => x.2.g ≠ g)
                          batches := s.batches.filter (fun b => !(b.thread.lid = w.lid && b.thread.wgi = w.wgi)) }
        let s := (s.unbindTargets g).modLaunch w.lid (fun l => { l with charge := l.charge + charge, doneWgs := l.doneWgs + 1 })
        let s := if l.record.classD then s else { s with deficits := tset s.deficits l.queue (tget 0 s.deficits l.queue - charge) }
        (if l.doneWgs + 1 = l.record.total then s.complete w.lid 1 else s).finishRetiring
    else s

/-- The crew may retire: no threads, no runs, no pending write out, no live thread has it as home, and no round moves it (R20, R138, R150). -/
def State.canRetire (s : State) (cid : Nat) (c : Crew) : Bool :=
  c.threads.isEmpty && c.runs.isEmpty && c.pend.all (fun p => p.returned) && !s.isHome c && !s.moving cid

/-- A crew retires (R20): it leaves its workgroup and its regroup set; its guard slots and bins stay for what it has issued (R256). -/
def State.retireCrew (s : State) (cid : Nat) : State :=
  match s.crew? cid with
  | none => s
  | some c =>
    let s := { s with crews := tdel s.crews cid
                      exited := tset s.exited cid { g := c.g, who := s.whoOf c, guards := c.guards, bins := c.bins, trigs := c.trigs } }
    let s := s.modWg c.g (fun w => { w with crews := w.crews.filter (fun x => x ≠ cid) })
    ((s.closeStamps cid).fireRounds.openAll).tryRetireWg c.g

/-- Every crew slot that holds no thread and is no live thread's home retires, at the first instant at which that is so (R20, R138, R150). -/
def State.sweepDormant (s : State) : State :=
  (s.crews.map (fun c => c.1)).foldl (fun s cid => match s.crew? cid with
    | some c => if s.canRetire cid c then s.retireCrew cid else s
    | none => s) s

/-! ### Killing a launch (22 R385) -/

/-- A workgroup is removed with everything of it that has not left for an engine. -/
def State.removeWg (s : State) (g : Nat) : State :=
  let mine (cid : Nat) : Bool := (s.crew? cid).elim false (fun c => c.g = g)
  let gone (id : Nat) : Bool := s.cmds.any (fun c => c.id = id && c.g = g) || s.copies.any (fun c => c.id = id && c.g = g)
  let s := (s.copies.filter (fun c => c.g = g)).foldl (fun s c => match c.recs with
    | some r => s.freeRec r.1 r.2 ((c.lanes.flatMap (fun k => k.reads.map (fun x => x.2.1))).eraseDups)
    | none => s) s
  let s := { s with
    cmds := s.cmds.filter (fun c => c.g ≠ g)
    copies := s.copies.filterMap (fun (c : CopyOp) =>
      if c.g ≠ g then some c
      else if c.left && c.dsp = Space.glb then some { c with lanes := c.lanes.filter (fun k => !k.held), tag := none }
      else none)
    waiting := s.waiting.filter (fun w => !(w.cid.elim false mine) && !(w.cmd.elim false gone) && w.wg ≠ some g)
    rounds := (s.rounds.map (fun (r : Round) => { r with arrived := r.arrived.filter (fun a => !mine a.cid), slots := r.slots.filter (fun x => !mine x) })).filter
      (fun r => !r.arrived.isEmpty)
    dbg := s.dbg.map (fun (d : DbgStop) => if d.step.elim false (fun x => mine x.1) then { d with step := none } else d)
    trapBuf := s.trapBuf.map (fun (r : TrapRec) => if r.cmd.elim false gone then { r with waits := false } else r)
    batches := s.batches.filter (fun b => match s.wg? g with
      | some w => !(b.thread.lid = w.lid && b.thread.wgi = w.wgi)
      | none => true)
    stamps := s.stamps.filter (fun t => !mine t.cid)
    emerg := if s.emerg = some g then none else s.emerg
    emergQueue := s.emergQueue.filter (fun x => x ≠ g) }
  let s := s.unbindTargets g
  (State.serveEmerg { s with crews := s.crews.filter (fun c => c.2.g ≠ g), exited := s.exited.filter (fun x => x.2.g ≠ g), wgs := tdel s.wgs g }).finishRetiring

/-- Killing a launch (R385). -/
def State.killLaunch (s : State) (lid : Nat) : State :=
  let gs := (s.wgs.filter (fun w => w.2.lid = lid)).map (fun w => w.1)
  let s := gs.foldl State.removeWg (s.takeSources gs)
  let s := { s with pools := s.pools.map (fun (p : Nat × Pool) => (p.1, { p.2 with busy := p.2.busy.filter (fun r => r.2 ≠ RecState.alloc lid) })) }
  s.complete lid 7

/-- Every launch killed (R425, level 3). -/
def State.killAll (s : State) : State := (s.launches.map (fun l => l.1)).foldl State.killLaunch s

end Sys2Proof.Machine
end

