-- ==== Sys2Proof/Machine/Ops.lean ====
section
/-! DEFINITION. The operations every meaning is built from: ending a step, taking a trap and going on from one (22 R377 to R382), the
stop of a partition with its dump (24 R410 to R414), and the wrappers that put an instruction's checks in the order of 12 R221. -/

namespace Sys2Proof.Machine

/-- What a step of the machine gives. -/
abbrev Res := Host.Outcome State Fault Refusal

/-- The end of a meaning: the next state, with the step's writes in memory. -/
def fin (s : State) : Res := .next s.commit

/-! ### Raising traps -/

/-- A trap of a class with nothing more to say. -/
def Trap.plain (cls : Nat) : Trap := ⟨cls, 0, 0, 0, []⟩

/-- The illegal-instruction trap: its record shows the fetched words (R378). -/
def Trap.illegal : Trap := Trap.plain 1

/-- The trap of a failed access: access kind and walk level in DETAIL (R378). -/
def Trap.access (a : Acc) (f : AccFault) (lanes : W32) : Trap := ⟨f.cls, f.addr, lanes, 0, [(64, 1, a.code), (65, 1, f.level)]⟩

/-- A permission fault at an address (R63, R66, R72, R31). -/
def Trap.perm (a : Acc) (addr : Nat) (lanes : W32) : Trap := Trap.access a ⟨3, addr, 0⟩ lanes

/-- An alignment fault at an address (R60, R255). -/
def Trap.align (a : Acc) (addr : Nat) (lanes : W32) : Trap := Trap.access a ⟨4, addr, 0⟩ lanes

/-- The first check that fails decides (R221). -/
def firstFail : List (Bool × Trap) → Option Trap
  | [] => none
  | (ok, t) :: more => if ok then firstFail more else some t

/-! ### The dump of a stopped partition (24 R413, R414) -/

/-- A stack entry's 32 bytes (R414); `st` is the whole stack, top first. -/
def entryBytes (st : List Entry) (e : Entry) : List Byte :=
  let posOf (l : Option Nat) : Nat := match l with
    | some j => (st.reverse.findIdx (fun x => match x with
      | .join i _ _ _ _ => i = j
      | .path _ _ _ _ _ => false))
    | none => 0
  leBytes 10 e.pc.toNat ++ leBytes 1 (if e.isPath then 0 else 1)
    ++ leBytes 1 ((if e.park.isSome then 1 else 0) + (if e.link.isSome then 2 else 0)) ++ leBytes 4 e.mask.toNat ++ leBytes 2 e.age
    ++ leBytes 1 (match e with
      | .join _ _ _ n _ => n
      | .path _ _ _ _ _ => 0) ++ leBytes 1 (posOf e.link) ++ leBytes 12 0

/-- Guard slots as a dump shows them (R413). -/
def Guard.code : Guard → Nat
  | .unbound => 0
  | .watch _ _ _ _ _ => 1
  | .yes => 2
  | .no => 3

/-- The entry of one pending write (R414): its block of v-registers, else its s-register, else its predicate (notes/assumptions/90). -/
def Pending.dumpBytes (p : Pending) : List Byte :=
  let vk := p.vs.map (fun e => e.1)
  let pk := p.ps.map (fun e => e.1)
  let block (keys : List Nat) : Nat × Nat × Nat :=
    let regs := (keys.map (fun k => k / 32)).eraseDups
    (regs.foldl min (regs.headD 0), regs.length, (maskOf (fun l => keys.any (fun k => k % 32 = l))).toNat)
  let (kind, reg, n, mask) :=
    if !vk.isEmpty then (0, block vk) else if !p.ss.isEmpty then (1, (p.ss.map (fun e => e.1)).headD 0, p.ss.length, 0) else (2, block pk)
  leBytes 1 (if p.strm = .l then 0 else 1) ++ leBytes 1 (if p.returned then 1 else 0) ++ leBytes 1 kind ++ leBytes 1 reg ++ leBytes 1 n
    ++ leBytes 3 0 ++ leBytes 4 mask ++ leBytes 3 (if p.strm = .l then lposBits p.pos.lpos else 0xFFFFFF) ++ leBytes 1 0

/-- The pending-write list of a dump entry: what is outstanding or held (R412, R413). -/
def Crew.dumpPends (c : Crew) : List (Nat × List Byte) :=
  let pends := ((c.pend.filter (fun p => !p.returned || p.held)).map Pending.dumpBytes).take 40
  [(0x0024, leBytes 1 pends.length), (0x0800, pends.flatMap (fun b => b) ++ List.replicate (640 - 16 * pends.length) 0)]

/-- The position that names a crew: that of its stop, else where it stands (R29). -/
def Crew.position (c : Crew) : Pos := c.stop.elim c.sPos (fun st => st.pos)

/-- The fields of a crew's dump entry, as (offset, bytes) (R413). -/
def State.dumpCrew (s : State) (c : Crew) (cause : Bool) : List (Nat × List Byte) :=
  let r := c.landed s.oracle
  [(0x0000, leBytes 2 (s.slotOf c)), (0x0002, leBytes 2 (s.genOf c)), (0x0004, leBytes 4 (s.lidOf c)), (0x0008, leBytes 4 (s.wgiOf c)),
   (0x000C, leBytes 1 c.id), (0x000D, leBytes 1 (s.kernOf c).vregs8), (0x000E, leBytes 1 (if cause then 5 else 1)),
   (0x000F, leBytes 1 (min c.stack.length 32)), (0x0010, leBytes 10 c.position.spc.toNat), (0x001A, leBytes 3 (lposBits c.position.lpos)), (0x0020, leBytes 4 c.active.toNat),
   (0x0040, (List.range 64).flatMap (fun n => leBytes 8 (tget 0 r.s n).toNat)),
   (0x0240, (List.range 16).flatMap (fun r => leBytes 10 (tget 0 c.b r).toNat)),
   (0x02E0, (List.range 8).flatMap (fun n => leBytes 4 (if n = 7 then 0xFFFFFFFF else (tget 0 r.p n).toNat))),
   (0x0300, (List.range 16).flatMap (fun r => leBytes 4 (tget .unbound c.guards r).code)),
   (0x0340, (List.range 16).flatMap (fun r => leBytes 4 (tget 0 c.bins r))),
   (0x0380, c.runs.flatMap (fun r => leBytes 4 (r.loff + (r.count - 1) * 2 ^ 17) ++ leBytes 4 r.mask.toNat ++ leBytes 10 r.spc.toNat
     ++ leBytes 14 0)),
   (0x0400, (c.stack.take 32).flatMap (entryBytes c.stack)),
   (0x1000, (List.range (s.kernOf c).vregs).flatMap (fun n => (List.range 32).flatMap (fun l => leBytes 4 (tget 0 r.v (32 * n + l)).toNat)))]
  ++ c.dumpPends

/-- A page whose bytes become 0, and then the given fields (bytes already 0 stay as they are). -/
def State.fillPage (s : State) (pa n : Nat) (fields : List (Nat × List Byte)) : State :=
  let nz := ((s.writes.flatten ++ s.mem).filter (fun c => decide (pa ≤ c.1) && decide (c.1 < pa + n))).map (fun c => c.1)
  let s := nz.eraseDups.foldl (fun s a => s.wr a 0) s
  fields.foldl (fun s f => s.pwrite (pa + f.1) f.2) s

/-- Address of a partition's dump block in a context (R410). -/
def State.dumpAddr (s : State) (ctx core part : Nat) : Nat :=
  ((s.addr72 (dbgBlk ctx + 0x48) (dbgBlk ctx + 0x50)).toNat / 2 ^ 20 * 2 ^ 20 + 2 ^ 20 * (4 * core + part)) % 2 ^ 72

/-- The dump block of a partition for one causing context; entries of other contexts' crews carry FOREIGN only (R411, R413). -/
def State.writeDump (s : State) (ctx core part : Nat) (causes : List Nat) : Except AccFault State :=
  (List.range 16).foldl (fun r k => match r with
    | .error f => .error f
    | .ok s' =>
      match s'.access ctx .save ((s.dumpAddr ctx core part + 65536 * k) % 2 ^ 72) 65536 with
      | .error f => .error f
      | .ok ps =>
        let pa := (ps.headD (0, 0)).1
        match s.crews.find? (fun c => s.coreOf c.2 = core && c.2.part = part && c.2.idx = k && (s.wg? c.2.g).elim false Workgroup.onCore) with
        | none => .ok (s'.fillPage pa 65536 [])
        | some c =>
          if s.ctxOf c.2 = ctx then .ok (s'.fillPage pa 65536 (s.dumpCrew c.2 (causes.contains c.1)))
          else .ok (s'.fillPage pa 65536 [(0x000E, [2])])) (.ok s)

/-- The record of a crew's stop (R378), with its continuation records (R379). -/
def State.stopRec (s : State) (c : Crew) (cid : Nat) (t : Trap) (pos : Pos) (flags : Nat) (waits : Bool) (conts : List (List Byte)) : State :=
  let words := if t.cls = 1 then [(64, 12, (c.ir.getD 0 0) + 2 ^ 32 * (c.ir.getD 1 0) + 2 ^ 64 * (c.ir.getD 2 0))] else []
  let more := if t.cls = 10 && t.detail.any (fun d => d.1 = 66 && d.2.2 ≠ 0) then 4 else 0
  let bytes := trapBytes t.cls (flags + (if waits then 8 else 0) + more) (s.slotOf c) (s.genOf c) t.code (s.lidOf c) (s.wgiOf c) t.lanes.toNat
    pos.spc.toNat (lposBits pos.lpos) t.addr s.tnow (words ++ t.detail)
  let record (bs : List Byte) (w : Bool) (who parent : Option Nat) : TrapRec := ⟨0, s.ctxOf c, bs, false, w, who, none, parent⟩
  conts.foldl (fun (u : State) b => u.pushRec (record b false none (some s.nextHandle))) (s.pushRec (record bytes waits (some cid) none))

/-- A context holds the debug right; never while it holds the protected-media right (R406). -/
def State.debugRight (s : State) (ctx : Nat) : Bool := bitAt (s.r32 (dbgBlk ctx)) 31 && !bitAt (s.r32 (mmuBlk ctx + 8)) 8

/-- A context whose stop is dumped and recorded: it holds the right and has not gone on (R410, R411). -/
def State.stopsFor (s : State) (d : DbgStop) (ctx : Nat) : Bool := s.debugRight ctx && !d.gone.contains ctx

/-- The stop of a partition (R410, R411): dumps for the contexts of the causes that have none yet, in ascending order, each crew that has caused the stop
marked in them, then one record for each of these causes, that of its command where an issued command's fault is the cause; a dump write that
faults is reported and the stop waits. -/
def State.dumpStop (s : State) (core part : Nat) : State :=
  let here (d : DbgStop) : Bool := d.core = core && d.part = part
  let mark (s : State) (f : DbgStop → DbgStop) : State := { s with dbg := s.dbg.map (fun (d : DbgStop) => if here d then f d else d) }
  match s.dbg.find? here with
  | none => s
  | some d =>
    let causes := d.owed.filter (fun c => s.stopsFor d c.2)
    let ctxs := (List.range 64).filter (fun x => causes.any (fun c => c.2 = x))
    let r := ctxs.foldl (fun r x => match r with
      | .error e => .error e
      | .ok s => match State.writeDump s x core part (d.causes.map (fun c => c.1)) with
        | .ok s' => .ok s'
        | .error f => .error (x, f)) (Except.ok (ε := Nat × AccFault) s)
    match r with
    | .error (x, f) =>
      mark (s.report x 40 0 (slotNo core part 0) 0 0 0xFFFFFFFF 0 0 ⟨0, none⟩ f.addr [(64, 1, 8), (65, 1, f.level)] none none
        (some (slotNo core part 0)) true) (fun d => { d with dumpFault := some x })
    | .ok s =>
      let issued := d.owedIssued.filter (fun i => s.stopsFor d i.record.ctx)
      let byIssued (cid : Nat) : Bool := issued.any (fun i => i.cid = cid)
      let s := mark s (fun d => { d with dumpFault := none, owed := [], owedIssued := [] })
      let s := causes.foldl (fun s c => match s.crew? c.1 with
        | some cr => match cr.stop with
          | some st => if st.seq.isSome && byIssued c.1 then s else s.stopRec cr c.1 st.trap st.pos 0 true st.conts
          | none => if byIssued c.1 then s else s.stopRec cr c.1 (Trap.plain 12) cr.sPos 0 true []
        | none => s) s
      issued.foldl (fun (s : State) i => s.pushRec i.record) s

/-- The partition stops with these causes; a partition already stopped gains them (R410, R411). -/
def State.partitionStop (s : State) (core part : Nat) (causes : List (Nat × Nat)) (issued : List IssuedStop) : State :=
  let here (d : DbgStop) : Bool := d.core = core && d.part = part
  let old := (s.dbg.find? here).getD { core := core, part := part, causes := [], gone := [], step := none, dumpFault := none }
  let more (xs : List (Nat × Nat)) : List (Nat × Nat) := xs.filter (fun x => !causes.contains x) ++ causes
  let d : DbgStop := { old with causes := more old.causes, gone := old.gone.filter (fun x => causes.all (fun c => c.2 ≠ x)), step := none, dumpFault := none,
                                issued := old.issued ++ issued, owed := more old.owed, owedIssued := old.owedIssued ++ issued }
  ({ s with dbg := s.dbg.filter (fun d => !here d) ++ [d] } : State).dumpStop core part

/-- A pending write of a crew on a stopped partition has returned: the dump of its context lists it as held (R412). -/
def State.redumpPends (s : State) (cid : Nat) : State :=
  match s.crew? cid with
  | none => s
  | some c =>
    match s.dbg.find? (fun d => d.core = s.coreOf c && d.part = c.part) with
    | none => s
    | some d =>
      if !d.causes.any (fun x => x.2 = s.ctxOf c) || !s.stopsFor d (s.ctxOf c) then s
      else
        match s.access (s.ctxOf c) .save ((s.dumpAddr (s.ctxOf c) d.core d.part + 65536 * c.idx) % 2 ^ 72) 65536 with
        | .ok ((pa, _) :: _) => c.dumpPends.foldl (fun t f => t.pwrite (pa + f.1) f.2) s
        | _ => s

/-! ### Taking a trap and going on from it (22 R377, R381, R382, R384) -/

/-- What a context's policy makes of a stop (R381, R384, R269). -/
inductive Policy | wait | kill | debug deriving DecidableEq, Repr

def State.policy (s : State) (ctx cls : Nat) : Policy :=
  let dbg : Policy := if s.debugRight ctx then .debug else .kill
  if cls = 14 then .wait
  else if cls = 12 then .debug
  else if cls = 16 then (if bits (s.r32 (mmuBlk ctx + 8)) 7 6 = 1 then dbg else .kill)
  else match bits (s.r32 (mmuBlk ctx + 8)) 5 4 with
    | 1 => .kill
    | 2 => dbg
    | _ => .wait

/-- Taking a trap: the crew stops at the position of R29 with its state as it was, and the context's policy decides what follows: the
record waits for MMU_RESUME, the launch is killed, or the partition stops (R377, R381, R384). `len` is the bytes of the stopped
S-instruction. A stop that no instruction about to issue made (a barrier time-out, a machine check) leaves what the crew waits for. -/
def State.stopAt (s : State) (cid : Nat) (st : Stream) (pos : Pos) (len flags : Nat) (t : Trap) (conts : List (List Byte)) : State :=
  match s.crew? cid with
  | none => s
  | some c =>
    let stop : Stop := { trap := t, pos := pos, strm := st, len := len, recId := s.nextHandle, seq := none, waits := true, conts := conts }
    let s := s.setCrew cid { c with stop := some stop, wait := if t.cls = 10 || t.cls = 16 then c.wait else .none }
    match s.policy (s.ctxOf c) t.cls with
    | .wait => s.stopRec c cid t pos flags true conts
    | .kill => s.stopRec c cid t pos flags false conts
    | .debug => s.partitionStop (s.coreOf c) c.part [(cid, s.ctxOf c)] []

/-- The launch of a crew is killed where its context's policy says so (R381, R384, R385). -/
def State.killByPolicy (s : State) (cls ctx lid : Nat) : State := if s.policy ctx cls = .kill then s.killLaunch lid else s

def State.takeTrapAt (s : State) (cid : Nat) (st : Stream) (pos : Pos) (len flags : Nat) (t : Trap) : State :=
  match s.crew? cid with
  | none => s
  | some c => (s.stopAt cid st pos len flags t []).killByPolicy t.cls (s.ctxOf c) (s.lidOf c)

/-- Taking a trap at the S-instruction or L-word about to issue (R29, R377). -/
def State.takeTrap (s : State) (cid : Nat) (st : Stream) (len : Nat) (t : Trap) : State :=
  match s.crew? cid with
  | none => s
  | some c => s.takeTrapAt cid st (match st with
    | .s => c.sPos
    | .l => c.lPos) len 0 t

/-- A machine check on a crew, at the position of the instruction that raised it (R384); a crew that had stopped already stays where it is. -/
def State.machineCheck (s : State) (cid : Nat) (pos : Pos) (source unit row : Nat) : State :=
  match s.crew? cid with
  | none => s
  | some c =>
    let t : Trap := ⟨16, 0, 0, 0, [(64, 1, source), (65, 2, unit), (68, 4, row)]⟩
    if c.stop.isNone then s.takeTrapAt cid .l pos 12 0 t
    else match s.policy (s.ctxOf c) 16 with
      | .kill => (s.stopRec c cid t pos 0 false []).killLaunch (s.lidOf c)
      | .debug => s.partitionStop (s.coreOf c) c.part [(cid, s.ctxOf c)]
          [⟨cid, none, { s.recOf (s.ctxOf c) 16 0 (s.slotOf c) (s.genOf c) 0 (s.lidOf c) (s.wgiOf c) 0 pos 0 t.detail none (some cid) none true with cid := some cid }⟩]
      | .wait => s.stopRec c cid t pos 0 false []

/-- The barrier of a crew's time-out trap (R378: bytes 64 and 65 of DETAIL). -/
def State.timedOut (s : State) (c : Crew) (t : Trap) : BarRef :=
  let byte (o : Nat) : Nat := ((t.detail.find? (fun d => d.1 = o)).map (fun d => d.2.2)).getD 0
  if byte 65 = 1 then .gang (s.lidOf c) (s.wgiOf c / s.gangSize (s.lidOf c)) (byte 64) else .wg c.g (byte 64)

/-- Going on from a stop (R382): the stop is gone; TRAP and SYSC resume at the next S-instruction, a barrier time-out restarts its barrier's
clock, everything else issues the instruction again. -/
def State.resumeCrew (s : State) (cid : Nat) : State :=
  match s.crew? cid with
  | none => s
  | some c =>
    match c.stop with
    | none => s
    | some st =>
      let s := { s with waiting := s.waiting.filter (fun w => w.cid ≠ some cid) }
      let c := { c with stop := none }
      if st.trap.cls = 13 || st.trap.cls = 14 then s.setCrew cid (c.advance st.len)
      else if st.trap.cls = 12 then
        s.setCrew cid (if st.len = 0 then { c with breakOnce := st.strm :: c.breakOnce.filter (fun x => x ≠ st.strm) } else c.advance st.len)
      else if st.trap.cls = 10 then
        let r := s.timedOut c st.trap
        let s := s.setCrew cid c
        if c.stack.any (barParks r) then s.setBarrier r { s.barrier r with clock := some 0 } else s
      else s.setCrew cid c

/-! ### Group registers (01 R39) -/

/-- g[n] as a crew reads it: its writer reads its own latest write, every other crew the value at the start of the epoch. -/
def Workgroup.gRead (w : Workgroup) (cid n : Nat) : W64 :=
  let r := tget ⟨0, none, 0⟩ w.gregs n
  if r.writer = some cid then r.cur else r.old

/-- g[n] := x by a crew: the first crew slot to write in an epoch is the writer; a write by any other is a group-register second-writer trap, and a
displaced thread's crew may use no g-register (R146). No instruction word of 12 names a g-register (notes/assumptions/28). -/
def State.gWrite (s : State) (cid : Nat) (c : Crew) (n : Nat) (x : W64) : Except Trap State :=
  let r := (s.wg? c.g).elim ⟨0, none, 0⟩ (fun w => tget ⟨0, none, 0⟩ w.gregs n)
  if s.displaced c then .error (Trap.plain 7)
  else if r.writer.elim false (fun k => k ≠ cid) then .error (Trap.plain 6)
  else .ok (s.modWg c.g (fun w => { w with gregs := tset w.gregs n { r with writer := some cid, cur := x } }))

def State.gRead (s : State) (cid : Nat) (c : Crew) (n : Nat) : Except Trap W64 :=
  if s.displaced c then .error (Trap.plain 7) else .ok ((s.wg? c.g).elim 0 (fun w => w.gRead cid n))

/-! ### The spilled part of the reconvergence stack (01 R30) -/

/-- The crew's private area: base and bytes (R75). -/
def State.privateArea (s : State) (c : Crew) : Nat × Nat :=
  match s.launchOf c with
  | some l => ((l.kern.pstack.toNat + (s.wgiOf c * l.record.crews + c.id) * l.kern.pstackKib * 1024) % 2 ^ 72, l.kern.pstackKib * 1024)
  | none => (0, 0)

/-- Entries below the 32 topmost stand in the private area, from the bottom up, 32 bytes each (R30, R414). -/
def spillBytes (st : List Entry) : List Byte := ((st.drop 32).reverse).flatMap (entryBytes st)

/-- The spilled entries written. -/
def State.spill (s : State) (c : Crew) : Except AccFault State :=
  if c.stack.length ≤ 32 then .ok s else s.vwrite (s.ctxOf c) .store (s.privateArea c).1 (spillBytes c.stack)

/-- The crew's spilled entries are written where its stack has changed; a fault here leaves the area as it is (notes/assumptions/91). -/
def State.respill (s : State) (cid : Nat) : State :=
  match s.crew? cid with
  | some c => match s.spill c with
    | .ok s' => s'
    | .error _ => s
  | none => s

/-- A spilled entry as the private area holds it: where the area still has its S-PC, kind and mask it is as it was, else what the area says; the
barrier a path is parked on is not in it. -/
def fillEntry (bs : List Byte) (st : List Entry) (e : Entry) : Entry :=
  let same (lo n : Nat) : Bool := (bs.drop lo).take n = ((entryBytes st e).drop lo).take n
  let fld (off n : Nat) : Nat := leNat ((bs.drop off).take n)
  if same 0 11 && same 12 4 && same 18 2 then e
  else
    let link := if bitAt (fld 11 1) 1 then (st.reverse[fld 19 1]?).bind (fun j => match j with
      | .join i _ _ _ _ => some i
      | .path _ _ _ _ _ => none) else none
    match e with
    | .path _ _ _ _ p => .path (BitVec.ofNat 72 (fld 0 9)) (BitVec.ofNat 32 (fld 12 4)) link (fld 16 2) p
    | .join i _ _ _ _ => .join i (BitVec.ofNat 72 (fld 0 9)) (BitVec.ofNat 32 (fld 12 4)) (fld 18 1) link

/-- The machine check of a read of poisoned data at issue (R384). -/
def poisonTrap (core : Nat) : Trap := ⟨16, 0, 0, 0, [(64, 1, 3), (65, 2, core), (68, 4, 0)]⟩

/-- The crew in focus with its spilled stack entries filled back, or the trap of reading them: an access trap, or a machine check on poisoned data
(R30, R384). -/
def State.fill (s : State) (c : Crew) : Except Trap (State × Crew) :=
  if c.stack.length ≤ 32 then .ok (s, c)
  else match s.access (s.ctxOf c) .load (s.privateArea c).1 (32 * (c.stack.length - 32)) with
    | .error f => .error (Trap.access .load f 0)
    | .ok ps =>
      let bs := s.rdPieces ps
      if s.touchesPoison ps then .error (poisonTrap (s.coreOf c))
      else
        let low := (c.stack.drop 32).reverse
        let c2 := { c with stack := c.stack.take 32 ++ (((List.range low.length).zip low).map (fun x => fillEntry ((bs.drop (32 * x.1)).take 32) c.stack x.2)).reverse }
        .ok (s.setCrew s.focus c2, c2)

/-! ### The wrappers of meanings -/

/-- What executing an instruction comes to: it is done, it waits and changes only what the state says, or it traps with nothing changed. -/
inductive Eff where
  | done (s : State)
  | wait (s : State)
  | trap (t : Trap)
deriving DecidableEq, Repr

/-- The word that a wait of the L-stream holds belongs to the running path; an S-instruction always does. -/
def Crew.waitsOnPath (c : Crew) (w : Wait) : Bool :=
  match w with
  | .marker .l | .again .l | .dry | .queue _ _ | .pixels _ => c.runPath.elim false (fun e => c.runs.head?.elim false (fun r => r.mask = e.mask))
  | _ => true

/-- Parks a crew: the running path, when it is the one that parks and its age has reached the quantum, rotates (R34, R35), at once for a
marker or an L-word, for an S-instruction when it has completed. A stall is no park, and TWAIT and LNCH, whose waits R45 and R260 set beside
those of R35, rotate nothing. -/
def State.park (s : State) (cid : Nat) (c : Crew) (w : Wait) : State :=
  let q := (s.kernOf c).quantum
  if c.wait = w || !c.waitsOnPath w then s.setCrew cid { c with wait := w }
  else
    match w with
    | .stall _ | .twait _ | .lnch _ => s.setCrew cid { c with wait := w }
    | .again .s => s.setCrew cid { c with wait := w, rotDue := decide (q ≤ (c.runPath.elim 0 Entry.age)) }
    | _ => (s.setCrew cid { c.rotateIfDue q with wait := w }).respill cid

/-- A word of a crew has issued in state s, and counts unless its partition is stopped (R421). -/
def State.countWord (t s : State) (c : Crew) (code : Nat) : State := if s.partStopped (s.coreOf c) c.part then t else t.count (s.ctxOf c) code 1

/-- An S-instruction in the order of R221: its wait (R28), the checks, the effect. `drain` marks the forms that drain the L-stream. The
effect gets the crew with what the wait has made of its registers; spilled stack entries are filled before it, once the checks have passed, and
written after it (R30). -/
def runS (s : State) (w drain : Bool) (len : Nat) (checks : State → Crew → List (Bool × Trap)) (body : State → Crew → Eff) : Res :=
  match s.crew? s.focus with
  | none => .fault .noCrew
  | some c =>
    if (w || drain) && !c.drained || w && !(c.out .s).isEmpty then fin (s.park s.focus c (if w then .marker .s else .stall .s))
    else
      let c1 := if w then (c.mark s.oracle .l).mark s.oracle .s else if drain then c.mark s.oracle .l else c
      let s1 := if w || drain then ((s.setCrew s.focus c1).placeRasts c .s).joinStreams s.focus else s.setCrew s.focus c1
      match firstFail (checks s1 c1) with
      | some t => fin (s1.takeTrap s.focus .s len t)
      | none =>
        match s1.fill c1 with
        | .error t => fin (s1.takeTrap s.focus .s len t)
        | .ok (s2, c2) =>
          match body s2 c2 with
          | .trap t => fin (s2.takeTrap s.focus .s len t)
          | .wait s' => fin s'
          | .done s' =>
            match (s'.crew? s.focus).elim (.ok s') s'.spill with
            | .ok s3 => fin (s3.countWord s c 3)
            | .error f => fin (s2.takeTrap s.focus .s len (Trap.access .store f 0))

/-- The usual end of an S-instruction that does not branch: the crew with its new registers goes on past the instruction. -/
def sDone (s : State) (c : Crew) (len : Nat) : Eff :=
  let c := if c.rotDue then ({ c.advance len with rotDue := false }).rotate else c.advance len
  .done (s.setCrew s.focus { c with wait := .none })

/-- A no-operation of the S-stream: the wait of W, and nothing else of its own, which also leaves a spilled stack where it is (R236, R270). -/
def plainS (s : State) (w : Bool) : Res :=
  match s.crew? s.focus with
  | none => .fault .noCrew
  | some c =>
    if w && !(c.drained && (c.out .s).isEmpty) then fin (s.park s.focus c (.marker .s))
    else
      let c1 := if w then (c.mark s.oracle .l).mark s.oracle .s else c
      match sDone (if w then ((s.setCrew s.focus c1).placeRasts c .s).joinStreams s.focus else s.setCrew s.focus c1) c1 4 with
      | .done s' => fin (s'.countWord s c 3)
      | .trap t => fin (s.takeTrap s.focus .s 4 t)
      | .wait s' => fin s'

/-- The lanes in which an L-word acts (R14, R225). -/
def Crew.activeFor (o : Nat) (c : Crew) (r : LRun) (f : LF) : W32 :=
  r.mask &&& (if f.gn then ~~~(c.pMask o f.gp) else c.pMask o f.gp)

/-- The word at the head of the L-run queue has issued (R27, R34). -/
def Crew.wordDone (c : Crew) : Crew :=
  match c.runs with
  | [] => c
  | r :: rs =>
    { c.agePath r.mask with
      runs := if r.done + 1 < r.count then { r with done := r.done + 1 } :: rs else rs
      wait := match c.wait with
        | .marker .l | .stall .l | .again .l | .dry | .queue _ _ | .pixels _ => .none
        | w => w }

/-- An L-instruction in the order of R221. The effect gets the crew, its run and the lanes of Active. -/
def runL (s : State) (f : LF) (checks : State → Crew → List (Bool × Trap)) (body : State → Crew → LRun → W32 → Eff) : Res :=
  match s.crew? s.focus with
  | none => .fault .noCrew
  | some c =>
    match c.runs with
    | [] => .fault .noRun
    | r :: _ =>
      if f.w && !(c.out .l).isEmpty then fin (s.park s.focus c (.marker .l))
      else
        let c1 := if f.w then c.mark s.oracle .l else c
        let s1 := (if f.w then s.placeRasts c .l else s).setCrew s.focus c1
        match firstFail (checks s1 c1) with
        | some t => fin (s1.takeTrap s.focus .l 12 t)
        | none =>
          match body s1 c1 r (c1.activeFor s.oracle r f) with
          | .trap t => fin (s1.takeTrap s.focus .l 12 t)
          | .wait s' => fin s'
          | .done s' => fin ((s'.modCrew s.focus Crew.wordDone).countWord s c 2)

/-- The usual effect of an L-instruction: the crew with its new lane state. -/
def lDone (s : State) (c : Crew) : Eff := .done (s.setCrew s.focus c)

/-- The crew of an L-word is not ready, and issues the word again (R35). -/
def lWait (s : State) (c : Crew) : Eff := .wait (s.park s.focus c (.again .l))

/-- A full table stalls the stream, which issues the word again; the crew is no less ready (R316, R324, R343). -/
def lStall (s : State) (c : Crew) : Eff := .wait (s.park s.focus c (.stall .l))
def sStall (s : State) (c : Crew) : Eff := .wait (s.park s.focus c (.stall .s))

/-- The crew of an S-instruction is not ready, and issues it again (R35). -/
def sWait (s : State) (c : Crew) : Eff := .wait (s.park s.focus c (.again .s))

end Sys2Proof.Machine
end

