-- ==== Sys2Proof/Machine/Flags.lean ====
section
/-! DEFINITION. Conditions and bit counts: what SSET, JMPC and SBIT compute (14 R249, R255), and the same counts for lanes
(15 R286). The device keeps no status flags (05 R106): conditions go to registers and predicates. -/

namespace Sys2Proof.Machine

/-- SSET's condition: func[1:0] 0 EQ, 1 NE, 2 LT, 3 GE (R249). -/
def ssetCond (signed : Bool) (func : Nat) (a b : W64) : Bool :=
  match func % 4 with
  | 0 => a = b
  | 1 => a ≠ b
  | 2 => if signed then a.slt b else a.ult b
  | _ => if signed then !(a.slt b) else !(a.ult b)

/-- Leading zeros of a w-bit number; w for 0. -/
def clz (w x : Nat) : Nat := w - bitLen (x % 2 ^ w)

/-- Trailing zeros of a w-bit number; w for 0. -/
def ctz (w x : Nat) : Nat := ((List.range w).find? (fun i => x.testBit i)).getD w

/-- Bits that are 1 among the w lowest. -/
def popc (w x : Nat) : Nat := ((List.range w).filter (fun i => x.testBit i)).length

/-- The w lowest bits reversed. -/
def brev (w x : Nat) : Nat := (List.range w).foldl (fun a i => if x.testBit i then a + 2 ^ (w - 1 - i) else a) 0

/-- SBIT on w bits: func[1:0] 0 CLZ, 1 CTZ, 2 POPC, 3 BREV (R249). -/
def sbitOp (w func x : Nat) : Nat :=
  match func % 4 with
  | 0 => clz w x
  | 1 => ctz w x
  | 2 => popc w x
  | _ => brev w x

/-- JMPC's conditions on the tested register (R255). -/
inductive JCond | eqz | nez | ltz | gez deriving DecidableEq, Repr
def JCond.holds (k : JCond) (x : W64) : Bool :=
  match k with
  | .eqz => x = 0
  | .nez => x ≠ 0
  | .ltz => x.msb
  | .gez => !x.msb

end Sys2Proof.Machine
end

