-- ==== Sys2Proof/Machine/Operands.lean ====
section
/-! DEFINITION. Operand forms: immediates (12 R224), effective addresses (03 R53), the bytes an access of each space reaches
(03 R54, R63, R66, R72) with presence (R64), and the ordering fields (04 R81 to R83). -/

namespace Sys2Proof.Machine

/-- imm12 sign-extended to 64 bits (R224). -/
def simm (imm : Nat) : W64 := BitVec.ofInt 64 (sgn 12 imm)

/-- A base register plus a signed offset, modulo 2^72 (R53). -/
def ea (b : VA) (off : Int) : Nat := wrap 72 ((b.toNat : Int) + off)

/-- A 64-bit register as a signed offset (R53). -/
def soff (x : W64) : Int := x.toInt

/-- A branch target: S-PC + 4 * the signed word offset of a field of w bits (R224). -/
def target (pc : VA) (w off : Nat) : VA := BitVec.ofInt 72 ((pc.toNat : Int) + 4 * sgn w off)

/-- An atomic must be aligned to its size, which is looked at after translation and permission (R60, R221); `level` is that of the walk. -/
def aligned (a : Acc) (addr n level : Nat) (ls : List Loc) : Locs :=
  if a = .atomic && addr % n ≠ 0 then .error ⟨4, addr, level⟩ else .ok ls

/-- The level reached by the walk for an address; 0 where it ends without a leaf. -/
def State.levelAt (s : State) (ctx va : Nat) : Nat := match s.translate ctx va with
  | .ok lf => lf.level
  | .error _ => 0

/-- The places of the n bytes at an effective address (R54 to R60, R63, R66, R72, R77). A global atomic to an uncached host-link page
is a permission fault (R312). -/
def State.locate (s : State) (c : Crew) (sp : Space) (a : Acc) (addr n : Nat) : Locs :=
  match s.launchOf c with
  | none => .error ⟨2, addr, 0⟩
  | some l =>
    match sp with
    | .glb =>
      match s.access l.ctx a addr n with
      | .error f => .error f
      | .ok ps =>
        if a = .atomic && (paList ps).any (fun p => bitAt p 51) && (match s.translate l.ctx addr with
          | .ok lf => lf.cache = 2
          | .error _ => false) then .error ⟨3, addr, s.levelAt l.ctx addr⟩
        else aligned a addr n (s.levelAt l.ctx addr) ((paList ps).map Loc.mem)
    | .scr =>
      let lim := if a.writes then l.kern.scratchBytes else l.kern.scratchBytes + l.kern.bufferBytes
      if n ≠ 0 && decide (lim < addr + n) then .error ⟨3, addr, 0⟩ else aligned a addr n 0 ((List.range n).map (fun i => Loc.scr c.g (addr + i)))
    | .gang =>
      if n ≠ 0 && decide (l.record.gang * l.kern.scratchBytes < addr + n) then .error ⟨3, addr, 0⟩
      else aligned a addr n 0 ((List.range n).map (fun i => s.gangLoc l.lid (s.wgiOf c / l.record.gang) l.record.gang (addr + i)))

/-- Some byte lies in a poisoned memory line (R383, R384). -/
def State.poisonedLocs (s : State) (ls : List Loc) : Bool :=
  ls.any (fun l => match l with
    | .mem pa => s.poisoned.contains (pa / 128)
    | _ => false)

/-- A memory line is stored to: it bears the store's tag, and a line that is poisoned stays so and is reported under that tag (R383); FLAGS[1]
is set when the crew has retired. -/
def State.tagLine (s : State) (t : StoreTag) (line : Nat) : State :=
  let s := { s with tags := tset s.tags line t }
  if s.poisoned.contains line then
    s.report t.ctx 33 (if (s.crew? t.cid).isSome then 1 else 3) t.who.slot t.who.gen 0 t.who.lid t.who.wgi 0 t.pos (128 * line) [] none none none false
  else s

/-- The memory lines of a list of bytes, each once. -/
def memLines (ls : List Loc) : List Nat := (ls.filterMap (fun l => match l with
  | .mem pa => some (pa / 128)
  | _ => none)).eraseDups

/-- The memory lines of a store bear its tag (R383). -/
def State.tagStores (s : State) (t : StoreTag) (ls : List Loc) : State := (memLines ls).foldl (fun s ln => s.tagLine t ln) s

/-- A load or sampler read of some lines that a cache may have missed: how many it missed is the device's own (R421; notes/assumptions/27). -/
def State.countMisses (s : State) (c : Crew) (code : Nat) (ls : List Loc) : State :=
  let n := (memLines ls).length
  if n = 0 || s.partStopped (s.coreOf c) c.part then s else s.count (s.ctxOf c) code (Config.free s.oracle 51 code % (n + 1))

/-- The tag of a store of the crew in focus. -/
def State.tagOf (s : State) (c : Crew) (pos : Pos) : StoreTag := ⟨s.ctxOf c, s.focus, s.whoOf c, pos⟩

/-! ### Accesses in the order of 04 -/

/-- Threads read bytes from a place: the events, and the bytes they get (R84 to R93). -/
def State.memLoad (s : State) (place : Ev) (y : Sync) (bs : List ByteAt) : State × List Nat × List Byte :=
  let r := s.readAt place y bs
  (r.1, r.2, r.2.flatMap r.1.returned)

/-- Threads update bytes in one step (R94). -/
def State.memUpdate (s : State) (place : Ev) (y : Sync) (bs : List ByteAt) (f : List Byte → List Byte) : State × List Byte :=
  let i := s.evs.length
  let t := s.enterUpdate (Ev.access { place with atomic := true } y (bs.map (fun b => (b, { key := b.key, rf := some none, wr := some 0, unit := b.unit })))) f
  (t, t.returned i)

/-- What a load leaves to its return: its bytes may yet be those of later writes (R309). -/
def lateOf (reads : List Nat) (sext : Bool) (dst regs : Nat) : List Late :=
  if reads.isEmpty then [] else [{ reads := reads, sext := sext, dst := dst, regs := regs }]

/-! ### Ordering fields (R81 to R83) -/

/-- The kinds of access an ORDK field belongs to. -/
inductive MemKind | load | store | atomic deriving DecidableEq, Repr

/-- The ordering kind is defined for the access: 0 plain, 1 acquire (not a store), 2 release (not a load), 3 both (atomics only). -/
def ordOk (k : MemKind) (ordk : Nat) : Bool :=
  match k with
  | .load => ordk = 0 || ordk = 1
  | .store => ordk = 0 || ordk = 2
  | .atomic => true

/-- Agent scope codes 6 and 7 are undefined in an ordering operation; a plain access ignores its scope (R81, R83). -/
def scopeOk (ordk scope : Nat) : Bool := ordk = 0 || decide (scope < 6)

/-- An acquire or fence with SMP (bit 2) in its mask invalidates the core's sampler cache (R71, R100). -/
def State.acquireEffect (s : State) (c : Crew) (acq : Bool) (mask : Nat) : State :=
  if acq && bitAt mask 2 then s.samplerFlush (s.coreOf c) else s

/-! ### Scalar memory operands (R253) -/

/-- The space of an SM word (R224). -/
def smSpace (a : SM) : Space := if a.space = 0 then .glb else .scr

/-- The effective address of an SM word (R253). -/
def smEa (o : Nat) (c : Crew) (a : SM) : Nat := ea (c.bRd a.b) (soff (c.sRd o a.sb))

/-- The checks of an SM word before its access (R83, R146, R224, R253). -/
def smChecks (k : MemKind) (a : SM) (s : State) (c : Crew) : List (Bool × Trap) :=
  [(ordOk k a.ordk && scopeOk a.ordk a.scope, Trap.illegal), (a.space = 0 || !s.displaced c, Trap.plain 7)]

end Sys2Proof.Machine
end

