-- ==== Sys2Proof/Machine/Engine.lean ====
section
/-! DEFINITION. What copies and engine commands share: sub-queues and their heads, guards at the head (17 R324, R328), discards
(R329, 16 R316), copies leaving the head and landing (16 R315, R316, 03 R64 to R69), faults of issued commands (22 R376 class 24). -/

namespace Sys2Proof.Machine

/-- The count of a scratch line goes up or down by one (R64). -/
def State.lineUp (s : State) (l : Nat × Nat) : State := s.setLine l (s.lineCount l + 1)
def State.lineDown (s : State) (l : Nat × Nat) : State := s.setLine l (s.lineCount l - 1)

/-- An issued command meets a fault: a class 24 record, and the context's policy: it is held for MMU_RESUME, or its launch is killed, or
the partition stops with that record (R68, R376, R381). A crew that has retired is named as it stood when the command was issued (R378). -/
def State.issuedFault (s : State) (ctx cid cmd : Nat) (who : Who) (pos : Pos) (lanes : Nat) (a : Acc) (f : AccFault) : State :=
  let w := (s.crew? cid).elim who s.whoOf
  let rec_ (waits : Bool) : TrapRec :=
    s.recOf ctx 24 (if (s.crew? cid).isSome then 0 else 2) w.slot w.gen 0 w.lid w.wgi lanes pos f.addr [(64, 1, a.code), (65, 1, f.level)]
      (some cmd) none none waits
  match s.policy ctx 24 with
  | .wait => s.pushRec (rec_ true)
  | .kill => (s.pushRec (rec_ false)).killLaunch w.lid
  | .debug => s.partitionStop (w.slot / 64) (w.slot / 16 % 4) [(cid, ctx)] [⟨cid, some cmd, rec_ true⟩]

/-! ### Copies -/

/-- The barrier a copy is tagged with (R316, R257). -/
def State.tagRef (s : State) (c : CopyOp) (n : Nat) : BarRef :=
  if c.dsp = .gang then .gang c.lid ((s.wg? c.g).elim 0 (fun w => w.wgi / s.gangSize c.lid)) n else .wg c.g n

/-- The workgroup of a copy is resident: a copy with a scratch or gang destination waits with a saved one (R388). -/
def State.copyLive (s : State) (op : CopyOp) : Bool := (s.wg? op.g).elim (op.dsp = .glb) (fun w => w.phase = .resident)

/-- What a tagged copy has written happens before what follows its barrier's opening (R87). -/
def State.copyKnown (s : State) (op : CopyOp) (lane : Option Nat) : State :=
  match op.tag with
  | none => s
  | some n =>
    let ws := (s.evs.filter (fun (e : Ev) => e.op.any (fun p => p.1 = op.id && lane.all (fun l => p.2 = l)) && e.bytes.any (fun b => b.wr.isSome))).map
      (fun (e : Ev) => e.id)
    s.setBarrier (s.tagRef op n) { s.barrier (s.tagRef op n) with pre := (s.barrier (s.tagRef op n)).pre ++ ws }

/-- Every landing or discard ends here: lines no lane of the copy still writes to come down, the tag is reduced, times are stamped,
and the copy is gone when all its lanes have landed (R64, R36, R316, R418). -/
def State.copyEnd (s : State) (op : CopyOp) (lane : Option Nat) (n : Nat) : State :=
  let lanes := op.lanes.map (fun k => match lane with
    | some l => if k.lane = l then { k with landed := true } else k
    | none => { k with landed := true })
  let still := locLines (lanes.flatMap (fun k =>
    if k.landed then []
    else match s.spaceLocs op.g op.lid op.ctx op.dsp .copyWrite k.dst (op.len.getD 0) with
      | .ok ls => ls
      | .error _ => []))
  let gone := op.lines.filter (fun l => !still.contains l)
  let op' := { op with lanes := lanes, lines := op.lines.filter (fun l => still.contains l) }
  let s := (gone.foldl State.lineDown s).copyKnown op lane
  let s := { s with
    copies := if lanes.all (fun k => k.landed) then s.copies.filter (fun (c : CopyOp) => c.id ≠ op.id)
      else s.copies.map (fun (c : CopyOp) => if c.id = op.id then op' else c)
    stamps := s.stamps.map (fun (t : Stamp) =>
      let t := if t.ins.contains op.id then { t with cinLand := s.tnow } else t
      if t.outs.contains op.id then { t with coutLand := s.tnow } else t) }
  let s := match op.tag with
    | some b => s.subBarrier (s.tagRef op b) n
    | none => s
  s.flushStamps.tryRetireWg op.g

/-- A discarded copy: reads and writes nothing, resets its bin, lowers its counts, reduces its tag by its lanes' lengths (R316). -/
def State.discardCopy (s : State) (op : CopyOp) : State :=
  let n := op.len.getD (s.bin op.cid op.bin)
  let s := if op.len.isNone then s.clearBin op.cid op.bin else s
  s.copyEnd { op with len := some n } none (n * op.lanes.length)

/-- A lane's copy is held until its fault is served (R68, R376). -/
def State.holdCopy (s : State) (op : CopyOp) (k : CopyLane) (a : Acc) (f : AccFault) : State :=
  let lanes := op.lanes.map (fun (j : CopyLane) => if j.lane = k.lane then { j with held := true } else j)
  let s := { s with copies := s.copies.map (fun (c : CopyOp) => if c.id = op.id then { c with lanes := lanes } else c) }
  s.issuedFault op.ctx op.cid op.id op.who op.pos (2 ^ k.lane) a f

/-- Every line of some bytes is present but for the copy's own counts (R64). -/
def State.presentFor (s : State) (op : CopyOp) (ls : List Loc) : Bool :=
  (locLines ls).all (fun l => !s.lineAbsent l || (op.lines.contains l && s.lineCount l = 1))

/-- A copy replaced. -/
def State.setCopy (s : State) (op : CopyOp) : State := { s with copies := s.copies.map (fun (c : CopyOp) => if c.id = op.id then op else c) }

/-- The copies of one CPY leave the head: a bin length is read and the bin reset in the same event, and the ranges are checked (R263, R316); a
copy of no bytes lands at once (R315). What the trigger of their guard has acquired comes before their accesses (R262). -/
def State.leaveCopy (s : State) (op : CopyOp) (trig : List Nat) : State :=
  let n := op.len.getD (s.bin op.cid op.bin)
  let s := if op.len.isNone then s.clearBin op.cid op.bin else s
  let op' := { op with
    len := some n, guard := none, left := true,
    lanes := op.lanes.map (fun (k : CopyLane) => { k with place := { k.place with pre := k.place.pre ++ trig } }) }
  let s := s.setCopy op'
  if n = 0 then s.copyEnd op' none 0
  else if op.len.isSome then s
  else op'.lanes.foldl (fun s k =>
    match s.spaceLocs op.g op.lid op.ctx op.ssp .copyRead k.src n, s.spaceLocs op.g op.lid op.ctx op.dsp .copyWrite k.dst n with
    | .ok _, .ok _ => s
    | .error f, _ => match s.copies.find? (fun c => c.id = op.id) with
      | some c => s.holdCopy c k .copyRead f
      | none => s
    | _, .error f => match s.copies.find? (fun c => c.id = op.id) with
      | some c => s.holdCopy c k .copyWrite f
      | none => s) s

/-- Words of a lane's destination are written (R96): those that `take` names, that have not landed and whose sources have been read. For a launch that
has been killed, each byte gets its value or keeps what it holds (R385). -/
def State.landWords (s : State) (op : CopyOp) (lane : Nat) (take : Nat → Bool) : State :=
  match (s.copies.find? (fun (c : CopyOp) => c.id = op.id)).bind (fun c => c.lanes.find? (fun (k : CopyLane) => k.lane = lane)),
      op.lanes.find? (fun (k : CopyLane) => k.lane = lane) with
  | some k, some k0 =>
    match s.spaceLocs op.g op.lid op.ctx op.dsp .copyWrite k0.dst (op.len.getD 0) with
    | .error _ => s
    | .ok dst =>
      let n := dst.length
      let word (i : Nat) : Nat := (k.dst + i) / 8
      let killed := (s.launch? op.lid).isNone
      let all := (List.range n).zip (s.bytesWith op.ctx op.dsp k.dst (wordUnit k.dst n) dst)
      let ready (w : Nat) : Bool := (List.range n).all (fun i => word i ≠ w || k.reads.any (fun y => y.1 = i))
      let words := ((List.range n).map word).eraseDups.filter (fun w => take w && !k.got.contains w && ready w)
      let todo := all.filter (fun x => words.contains (word x.1) && !(killed && Config.free s.oracle 35 (lane * 2 ^ 40 + x.1) % 2 = 0))
      let vals := todo.map (fun x => ((k.reads.find? (fun y => y.1 = x.1)).elim 0 (fun y => s.gotten y.2.1 y.2.2)))
      let s1 := s.enterWrites (writesAt { k.place with ins := s.oracle } Sync.plain (todo.map (fun x => x.2)) vals)
      let s2 := s1.tagStores ⟨op.ctx, op.cid, op.who, op.pos⟩ (todo.filterMap (fun x => dst[x.1]?))
      s2.modCopyLane op.id lane (fun k => { k with got := k.got ++ words })
  | _, _ => s

/-- A lane's copy reads all of its source and writes all of its destination. Where they overlap it goes word by word from the end that lets a byte get
what this copy has written to its source byte, which its read may return or not (R315). -/
def State.moveAll (s : State) (op : CopyOp) (k : CopyLane) (src dst : List Loc) : State :=
  let n := dst.length
  if !src.any dst.contains then (s.takeSource op k.lane (fun _ => true)).landWords op k.lane (fun _ => true)
  else
    let ws := ((List.range n).map (fun i => (k.dst + i) / 8)).eraseDups
    (if dst.head?.any src.contains then ws else ws.reverse).foldl (fun (s : State) w =>
      (s.takeSource op k.lane (fun v => (List.range n).any (fun i => (k.dst + i) / 8 = w && (k.src + i) / 8 = v))).landWords op k.lane (fun v => v = w)) s

/-- A lane's copy lands (R68, R96): its source is read and its destination written; a failing page holds it with a class 24 record, or, after a
kill, ends it (R385). A read of poisoned data writes nothing and is a machine check on the crew (R384). -/
def State.landCopy (s : State) (op : CopyOp) (k : CopyLane) : State :=
  let n := op.len.getD 0
  let killed := (s.launch? op.lid).isNone
  let fault (a : Acc) (f : AccFault) : State := if killed then s.copyEnd op (some k.lane) n else s.holdCopy op k a f
  let ends (t : State) : State := match t.copies.find? (fun (c : CopyOp) => c.id = op.id) with
    | some c => (t.countFor op.cid op.ctx 10 n).copyEnd c (some k.lane) n
    | none => t
  if killed && op.ssp ≠ .glb then ends (s.landWords op k.lane (fun _ => true))
  else match s.spaceLocs op.g op.lid op.ctx op.ssp .copyRead k.src n, s.spaceLocs op.g op.lid op.ctx op.dsp .copyWrite k.dst n with
  | .ok src, .ok dst =>
    if s.poisonedLocs src then (ends s).machineCheck op.cid op.pos 3 (op.who.slot / 64) 0
    else if !s.presentFor op src then s
    else ends (s.moveAll op k src dst)
  | .error f, _ => fault .copyRead f
  | _, .error f => fault .copyWrite f

/-- Words of copies that are under way are read, and those with a global destination written, before the rest, as the device chooses (R68, R96); a
scratch line is read only while it is present (R64). -/
def State.drift (s : State) : State :=
  (s.copies.filter (fun op => op.left && op.recs.isNone && (s.launch? op.lid).isSome)).foldl (fun s op =>
    op.lanes.foldl (fun s k =>
      if k.landed || k.held then s
      else
        let n := op.len.getD 0
        match s.spaceLocs op.g op.lid op.ctx op.ssp .copyRead k.src n, s.spaceLocs op.g op.lid op.ctx op.dsp .copyWrite k.dst n with
        | .ok src, .ok _ =>
          if s.poisonedLocs src then s
          else
            let here (w : Nat) : List Loc := ((List.range n).zip src).filterMap (fun x => if (k.src + x.1) / 8 = w then some x.2 else none)
            let s1 := s.takeSource op k.lane (fun w => Config.free s.oracle 36 (k.lane * 2 ^ 72 + w) % 2 = 1 && s.presentFor op (here w))
            if op.dsp = .glb then s1.landWords op k.lane (fun w => Config.free s.oracle 33 (k.lane * 2 ^ 72 + w) % 2 = 1) else s1
        | _, _ => s) s) s

/-! ### Engine commands -/

/-- The unit of an engine that serves a core: the quad, the core itself, or the span (R16, R324). -/
def engineUnit (e : Engine) (core : Nat) : Nat :=
  match e with
  | .matrix | .radiance => core / 4
  | .traversal | .collective => core
  | .raster => core / 16

/-- The command stands in its unit's table: that of a workgroup which has been saved has left it (R134, R327). -/
def State.tabled (s : State) (k : Cmd) : Bool := (s.wg? k.g).elim true Workgroup.onCore

/-- The entries of a unit's table in use (R324, R136). -/
def State.engineUsed (s : State) (e : Engine) (u : Nat) : Nat := (s.cmds.filter (fun c => c.engine = e && c.unit = u && s.tabled c)).length

/-- An engine's table is full (R324). -/
def State.engineFull (s : State) (e : Engine) (u : Nat) : Bool := decide (64 ≤ s.engineUsed e u)

/-- The command still stands in its sub-queue. A granted pass has left it (R130), its rerun comes first whatever stands there (R129), and a COLL
has left it with its length (R330); every other command stands there until it is done (notes/assumptions/46). -/
def Cmd.standing (k : Cmd) : Bool :=
  match k.op with
  | .mma _ _ _ _ _ _ _ cap => k.stage = 0 && cap.isNone
  | .coll _ _ _ _ => k.stage = 0
  | _ => true

/-- The head of a crew's sub-queue in an engine. -/
def State.headOf (s : State) (cid : Nat) (e : Engine) : Option Cmd := s.cmds.find? (fun c => c.cid = cid && c.engine = e && c.standing)

/-- The command is the head of its sub-queue. -/
def State.isHead (s : State) (k : Cmd) : Bool := (s.headOf k.cid k.engine).elim false (fun h => h.id = k.id)

/-- A command replaced. -/
def State.setCmd (s : State) (k : Cmd) : State := { s with cmds := s.cmds.map (fun c => if c.id = k.id then k else c) }

/-- A pending write returns with its values (R326, R343). -/
def State.returnPend (s : State) (cid : Nat) (pid : Option Nat) (vs : Tbl W32) : State :=
  match pid with
  | none => s
  | some i => s.modCrew cid (fun c => { c with pend := c.pend.map (fun p =>
      if p.id = i then { p with vs := p.vs.map (fun e => (e.1, tget e.2 vs e.1)), ready := true, returned := true } else p) })

/-- A block of registers for the lanes of a mask, as pending destinations. -/
def destBlock (reg n : Nat) (lanes : W32) (val : Nat → Nat → W32) : Tbl W32 :=
  (List.range n).flatMap (fun i => (lanesOf lanes).map (fun l => (32 * (reg + i) + l, val i l)))

/-- The miss record of R192. -/
def missRecord (malformed : Bool) (i : Nat) : W32 :=
  match i with
  | 0 => 0x7F800000
  | 1 => 0xFFFFFFFF
  | 2 => if malformed then 0x20000000 else 0
  | _ => 0

/-- A command is gone. -/
def State.cutCmd (s : State) (k : Cmd) : State := { s with cmds := s.cmds.filter (fun c => c.id ≠ k.id) }

/-- What a discarded command leaves (R329, R418). -/
def State.discardCmd (s : State) (k : Cmd) : State :=
  let s := match k.op with
    | .trav vd _ _ _ _ _ _ _ _ => s.returnPend k.cid k.pid (destBlock vd 5 k.act (fun i _ => missRecord false i))
    | .rcq _ _ vd _ _ => s.returnPend k.cid k.pid (destBlock vd 3 k.act (fun _ _ => 0))
    | .coll _ _ len bin => if len.isNone then s.clearBin k.cid bin else s
    | _ => s.returnPend k.cid k.pid []
  let s := { s with stamps := s.stamps.map (fun (t : Stamp) => if t.cmd = k.id && t.kind = 0 then { t with done := true } else t) }
  (s.cutCmd k).flushStamps.tryRetireWg k.g

/-- Bits of an element of an MLDB format. -/
def mldbW (f : MldbFmt) : Nat :=
  match f with
  | .i4 | .n4 | .e2m1 => 4
  | .i8 | .n8 | .e4m3 | .e5m2 => 8
  | .bf16 | .fp16 => 16

/-- Ranges that a posted load reads. -/
def CmdOp.ranges : CmdOp → List (Nat × Nat)
  | .mldb fmt _ _ rows _ => rows.map (fun r => (r, 16 * mldbW fmt))
  | .smcp _ _ dens addr => [(addr, if dens = 1 then 1024 else 2048)]
  | _ => []

/-- The block numbers an MSCA needs of A and of B (R131), and the scale units that hold blocks (R116). -/
def blocksA (d : ScaleDesc) (kb row0 : Nat) (act : W32) : List Nat := (lanesOf act).map (fun r => kb * d.ld + row0 + r)
def blocksB (d : ScaleDesc) (kb col0 : Nat) : List Nat := (List.range 128).map (fun c => kb * d.ld + col0 + c)
def unitsOf (bs : List Nat) : List Nat := (bs.map (fun n => n / 128)).eraseDups
def unitAddr (d : ScaleDesc) (u : Nat) : Nat := (d.sbase + 512 * u) % 2 ^ 72

/-- Units of both descriptors that an MSCA needs; true for those of B. -/
def CmdOp.units (op : CmdOp) (act : W32) : List (Bool × ScaleDesc × Nat) :=
  match op with
  | .msca _ _ kb row0 col0 da db =>
    (unitsOf (blocksA da kb row0 act)).map (fun u => (false, da, u)) ++ (unitsOf (blocksB db kb col0)).map (fun u => (true, db, u))
  | _ => []

/-- The ranges of those units. -/
def CmdOp.unitRanges (op : CmdOp) (act : W32) : List (Nat × Nat) := (op.units act).map (fun e => (unitAddr e.2.1 e.2.2, 512))

/-- The place of the accesses that a command makes for a lane. -/
def Cmd.placeOf (k : Cmd) (s : State) (lane : Nat) : Ev :=
  match k.places.find? (fun p => p.1 = lane) with
  | some p => { p.2 with ins := s.oracle }
  | none => s.placeOf (engineOf 0 k.id)

/-- The ranges that a command's loads read for its threads, placed at its issue (R97). -/
def Cmd.ranges (k : Cmd) : List (Nat × Nat) := k.op.ranges ++ k.op.unitRanges k.act

/-- A command goes on: its loads look at memory, placed at its issue, or, where a trigger has let it go on, after what this has acquired (R97, R262). -/
def State.proceed (s : State) (k : Cmd) (trig : List Nat) : State × Cmd :=
  let ps := if trig.isEmpty then k.places else k.places.map (fun (p : Nat × Ev) => (p.1, { p.2 with
    pre := p.2.pre ++ trig, fin := if p.2.fin.isSome then some (.l, s.evs.length) else p.2.fin }))
  let r := match ps.head? with
    | some p => if k.ranges.isEmpty then (s, []) else s.readRanges p.2 k.ctx false k.ranges
    | none => (s, [])
  (r.1, { k with guard := none, places := ps, reads := r.2 })

/-- The loads of a command look at memory again as it carries out its reads (R88, R97), or for the first time where a range could not be read. -/
def State.readCmd (s : State) (k : Cmd) : State × Cmd :=
  if k.reads.length = k.ranges.length && k.reads.all (fun r => !r.isEmpty) then (k.reads.flatten.foldl State.lookAgain s, k) else s.proceed k []

/-- The bytes that a command's loads have returned, range by range. -/
def State.cmdBytes (s : State) (k : Cmd) : List (List Byte) := k.reads.map (fun r => r.flatMap s.returned)

/-- A command leaves the head: a COLL reads its bin and resets it in the same event (R263, R330). -/
def State.leaveHead (s : State) (k : Cmd) : State :=
  match k.op with
  | .coll wr srcs len bin =>
    let n := len.getD (s.bin k.cid bin)
    let s := if len.isNone then s.clearBin k.cid bin else s
    s.setCmd { k with guard := none, stage := 1, op := .coll wr srcs (some n) bin }
  | _ => s.setCmd k

/-- Heads whose guard is decided leave it: TRUE lets them proceed, FALSE discards them (R328). -/
def State.resolveHeads : Nat → State → Nat → State
  | 0, s, _ => s
  | fuel + 1, s, cid =>
    let decided (g : Option Nat) : Option Bool := match g with
      | none => none
      | some n => match s.guard cid n with
        | .yes => some true
        | .no => some false
        | _ => none
    let hs := [Engine.matrix, .radiance, .traversal, .collective, .raster].filterMap (fun e => s.headOf cid e)
    match hs.find? (fun k => k.stage = 0 && (decided k.guard).isSome) with
    | some k =>
      if decided k.guard = some true then
        let r := s.proceed k (s.trig cid (k.guard.getD 0))
        State.resolveHeads fuel (r.1.leaveHead r.2) cid
      else State.resolveHeads fuel (s.discardCmd k) cid
    | none =>
      match s.copies.find? (fun k => k.cid = cid && !k.left) with
      | none => s
      | some k =>
        match decided k.guard with
        | some true => State.resolveHeads fuel (s.leaveCopy k (s.trig cid (k.guard.getD 0))) cid
        | some false => State.resolveHeads fuel (s.discardCopy k) cid
        | none => s

/-- A head whose guard is decided is eligible from now on (R129). -/
def State.noteHeads (s : State) : State :=
  { s with cmds := s.cmds.map (fun (k : Cmd) => if k.since.isNone && k.guard.isNone && s.isHead k then { k with since := some s.cycle } else k) }

/-- Every sub-queue of a crew looks at its guards (R328). -/
def State.resolve (s : State) (cid : Nat) : State := (s.resolveHeads (s.cmds.length + s.copies.length + 1) cid).noteHeads

/-- A command is gone: the next of its crew stands at the head, and its workgroup may now retire. -/
def State.dropCmd (s : State) (k : Cmd) : State := ((s.cutCmd k).resolve k.cid).tryRetireWg k.g

/-- The places of a command's accesses: one for each lane for what each of its threads does itself. Those of a COLL and of a RAST have no end until a
CWAIT or a marker gives them one (R98, R185). -/
def State.cmdPlaces (s : State) (c : Crew) (r : LRun) (e : Engine) (act : W32) (id : Nat) : List (Nat × Ev) :=
  match e with
  | .traversal => (lanesOf act).map (fun l => (l, s.lanePlace c r l))
  | .collective | .raster => (lanesOf act).map (fun l => (l, { s.lanePlace c r l with fin := none, op := some (id, l) }))
  | .matrix | .radiance => [(0, s.place c act .l r.since)]

/-- A command is posted at issue (R325); `dests` are the destinations of its pending write, if it records one (R326). -/
def State.post (s : State) (c : Crew) (r : LRun) (e : Engine) (op : CmdOp) (act : W32) (pend : Bool) (dests : Tbl W32) (guard : Option Nat) : State :=
  let id := s.nextHandle
  let c1 := if pend then c.addPend .l dests [] [] false false c.lPos else c
  let c' := if e = .raster then { c1 with pend := c1.pend.map (fun (p : Pending) => if p.id = c.nextPid then { p with rast := some id } else p) } else c1
  let s1 := s.setCrew s.focus c'
  let k : Cmd := { id := id, cid := s.focus, g := c.g, lid := s.lidOf c, ctx := s.ctxOf c, engine := e,
                   unit := engineUnit e (s.coreOf c), op := op, act := act, pid := if pend then some c.nextPid else none, guard := guard,
                   stage := 0, posted := s.cycle, started := 0, rerun := false, held := false, pos := c.lPos, who := s.whoOf c,
                   places := s.cmdPlaces c r e act id }
  let p := if guard.isNone then s1.proceed k [] else (s1, k)
  ({ p.1 with cmds := p.1.cmds ++ [p.2], nextHandle := id + 1 }).resolve s.focus

/-- The guard fields of a command word: GSLOT [7:4] when GEN [3] is set (R230, R232). -/
def guardField (f : LF) : Option Nat := if bitAt f.low 3 then some (bits f.low 7 4) else none

end Sys2Proof.Machine
end

