-- ==== Sys2Proof/Machine/Control.lean ====
section
/-! DEFINITION. Control of the S-stream: branches, divergence, runs, barriers, exit, time, launches, guards and bins, special registers,
fences, yield, traps, no-operations (14 R255 to R270; 01 R27 to R39; 02 R44, R45). -/

namespace Sys2Proof.Machine

/-! ### Uniform control flow (R255) -/

/-- A branch taken to a target; a taken backward branch lets a path past its quantum rotate (R34). -/
def sJump (s : State) (c : Crew) (pc : VA) (backward : Bool) : Eff :=
  let c' := (c.setPc pc)
  .done (s.setCrew s.focus { (if backward then c'.rotateIfDue (s.kernOf c).quantum else c') with wait := .none })

def execJmp (a : SJ) (s : State) : Res :=
  runS s a.w false 4 (fun _ _ => []) (fun s c => sJump s c (target c.pc 21 a.off) (decide (sgn 21 a.off < 0)))

/-- JMPC tests s(56 + COND) (R223, R255). -/
def jumpIf (k : JCond) (a : SJ) (s : State) : Res :=
  runS s a.w false 4 (fun _ _ => []) (fun s c =>
    if k.holds (c.sRd s.oracle (56 + a.cond)) then sJump s c (target c.pc 21 a.off) (decide (sgn 21 a.off < 0)) else sDone s c 4)

def execJmpcEqz (a : SJ) (s : State) : Res := jumpIf .eqz a s
def execJmpcNez (a : SJ) (s : State) : Res := jumpIf .nez a s
def execJmpcLtz (a : SJ) (s : State) : Res := jumpIf .ltz a s
def execJmpcGez (a : SJ) (s : State) : Res := jumpIf .gez a s

/-- CALL writes the next S-PC to b15 and jumps as JMP; R34 lists JMP, JMPC and BRD only as branches that rotate. -/
def execCall (a : SJ) (s : State) : Res :=
  runS s a.w false 4 (fun _ _ => []) (fun s c => sJump s (c.bWr 15 (c.pc + 4)) (target c.pc 21 a.off) false)

/-- RET; a target whose bits [1:0] are not 0 is an alignment fault at the RET (R255). -/
def execRet (a : SA) (s : State) : Res :=
  runS s a.w false 4 (fun _ _ => []) (fun s c =>
    let t := c.bRd (a.sa % 16)
    if t.toNat % 4 ≠ 0 then .trap (Trap.align .fetch t.toNat 0) else sJump s c t false)

/-! ### Divergence (R31 to R33) -/

/-- BRD (R31). -/
def execBrd (a : SB) (s : State) : Res :=
  runS s a.w true 4 (fun _ _ => [(decide (a.xoff ≠ 0), Trap.illegal)]) (fun s c =>
    let m := c.active
    let t := m &&& c.pMask s.oracle a.p
    let n := m &&& ~~~t
    let tgt := target c.pc 10 a.off
    if t = 0 then sDone s c 4
    else if n = 0 then sJump s c tgt (decide (sgn 10 a.off < 0))
    else
      let x := c.pc + BitVec.ofNat 72 (4 * a.xoff)
      let st := mapRun (fun e => [.join c.nextJoin x 0 2 e.link]) c.stack
      let st' := [Entry.path tgt t (some c.nextJoin) 0 none, .path (c.pc + 4) n (some c.nextJoin) 0 none] ++ st
      if 32 + (s.privateArea c).2 / 32 < st'.length then
        .trap (Trap.perm .store (((s.privateArea c).1 + (s.privateArea c).2) % 2 ^ 72) 0)
      else .done (s.setCrew s.focus { c with stack := st', nextJoin := c.nextJoin + 1, wait := .none }))

/-- JOIN (R32). -/
def execJoin (a : SR) (s : State) : Res :=
  runS s a.w true 4 (fun _ _ => []) (fun s c =>
    match c.runPath with
    | some e => match c.joinOf e.link with
      | some j => if j.pc = c.pc then .done (s.setCrew s.focus { (c.leave c.active) with wait := .none }) else sDone s c 4
      | none => sDone s c 4
    | none => sDone s c 4)

/-- EXIT retires the running path's lanes (R33); fewer live threads may open barriers, complete a regroup set and free dormant slots
(R37, R140, R138). -/
def execExit (a : SR) (s : State) : Res :=
  runS s a.w true 4 (fun _ _ => []) (fun s c =>
    let m := c.active
    let c' := { (c.leave 0) with threads := c.threads.filter (fun t => !(m.getLsbD t.1)), wait := .none }
    .done ((s.setCrew s.focus c').openAll.fireRounds.sweepDormant))

/-! ### Runs (R27) -/

/-- LRUN appends a run with the mask of the running path and s and b as they stand (R344); a full queue stalls. -/
def execLrun (a : SL) (s : State) : Res :=
  runS s a.w false 4 (fun _ _ => [(decide (a.loff + a.cnt ≤ 131071), Trap.illegal)]) (fun s c =>
    if 4 ≤ c.runs.length then .wait (s.park s.focus c (.stall .s))
    else
      let run : LRun := { loff := a.loff, count := a.cnt + 1, done := 0, mask := c.active, spc := c.pc, sAt := c.s,
                          sAlt := (c.pend.filter (fun p => p.returned)).flatMap (fun p => p.ss), bAt := c.b,
                          sPend := (c.out .s).map (fun p => p.id), since := s.evs.length }
      sDone s { c with runs := c.runs ++ [run] } 4)

/-! ### Barriers (R36, R257) -/

/-- Arrival at a barrier: the byte count is added once for the path, its threads arrive, the clock starts, the path is parked past the
barrier instruction, and a path past its quantum goes to the bottom (R34, R36). Every access of its threads to GLB, SCR, STR and REC before it comes
before what the opening leads (R87). -/
def State.arrive (s : State) (c : Crew) (r : BarRef) (gang : Bool) (n bytes : Nat) : State :=
  let here := (c.threads.filter (fun t => c.active.getLsbD t.1)).map (fun t => t.2)
  let b := s.barrier r
  let q := (s.kernOf c).quantum
  let parked := mapRun (fun e => [.path (c.pc + 4) e.mask e.link 0 (some ⟨gang, n, c.pc⟩)]) c.stack
  let st := if q ≤ (c.runPath.elim 0 Entry.age)
    then mapRun (fun _ => []) c.stack ++ (c.runPath.toList.map (fun e => .path (c.pc + 4) e.mask e.link 0 (some ⟨gang, n, c.pc⟩)))
    else parked
  let s := s.setCrew s.focus { c with stack := st, wait := .none }
  let at_ := s.evs.length
  ((s.point (s.sPlace c) 27).setBarrier r { b with
    arrived := b.arrived ++ here.filter (fun t => !b.arrived.contains t)
    counter := (b.counter + bytes) % 2 ^ 32
    clock := some (b.clock.getD 0)
    pre := b.pre ++ [at_] }).tryOpen r

def execBar (a : SA) (s : State) : Res :=
  runS s a.w true 4 (fun s c => [(!s.displaced c, Trap.plain 7)]) (fun s c =>
    .done (s.arrive c (.wg c.g (a.sd % 16)) false (a.sd % 16) ((c.sRd s.oracle a.sa).toNat % 2 ^ 32)))

def execGbar (a : SA) (s : State) : Res :=
  runS s a.w true 4 (fun s c => [(s.gangSize (s.lidOf c) ≠ 0, Trap.illegal), (!s.displaced c, Trap.plain 7)]) (fun s c =>
    .done (s.arrive c (.gang (s.lidOf c) (s.wgiOf c / s.gangSize (s.lidOf c)) (a.sd % 16)) true (a.sd % 16)
      ((c.sRd s.oracle a.sa).toNat % 2 ^ 32)))

/-! ### Time (R44, R45, R259) -/

/-- A value of the bound frame, or all ones (R44). -/
def State.frameVal (s : State) (c : Crew) (f : FrameCap → Nat) : W64 :=
  match (s.launchOf c).bind (fun l => l.frame) with
  | some x => BitVec.ofNat 64 (f x)
  | none => BitVec.allOnes 64

/-- TGET (R44, R259). Crews that read in one cycle read the same count, a difference of 0 where R42 allows 4 ns (DESIGN CHOICE,
notes/assumptions/117). -/
def execTget (a : SI) (s : State) : Res :=
  let sel := a.imm % 16
  runS s a.w false 4 (fun _ _ => [(decide (sel < 6), Trap.illegal), (sel ≠ 1 || a.sd % 2 = 0, Trap.illegal)]) (fun s c =>
    match sel with
    | 0 => sDone s (c.sWr a.sd (BitVec.ofNat 64 s.tnow)) 4
    | 1 => sDone s ((c.sWr a.sd (BitVec.ofNat 64 s.tnow)).sWr (a.sd + 1) (BitVec.ofNat 64 s.tfrac)) 4
    | 2 => sDone s (c.sWr a.sd (s.frameVal c (fun f => f.frameNo))) 4
    | 3 => sDone s (c.sWr a.sd (s.frameVal c (fun f => f.pres))) 4
    | 4 => sDone s (c.sWr a.sd (s.frameVal c (fun f => f.deadline))) 4
    | _ => sDone s (c.sWr a.sd (BitVec.ofNat 64 s.lock)) 4)

/-- The all-ones time means never (R43). -/
def wakeTime (t : Nat) : Option Nat := if t = 2 ^ 64 - 1 then none else some t

/-- A time has been reached (R43). -/
def State.reached (s : State) (t : Option Nat) : Bool := t.elim false (fun x => decide (x ≤ s.tnow))

/-- TWAIT parks the crew past the instruction until the time; a time already reached parks it for no time (R45). -/
def sTwait (s : State) (c : Crew) (t : Option Nat) : Eff :=
  if s.reached t then sDone s c 4 else .done (s.park s.focus (c.advance 4) (.twait t))

def execTwait (a : SA) (s : State) : Res :=
  runS s a.w true 4 (fun _ _ => []) (fun s c => sTwait s c (wakeTime (c.sRd s.oracle a.sa).toNat))

def execTwaitPres (a : SA) (s : State) : Res :=
  runS s a.w true 4 (fun s c => [(((s.launchOf c).bind (fun l => l.frame)).isSome, Trap.illegal)]) (fun s c =>
    let sum : Int := (((s.launchOf c).bind (fun l => l.frame)).elim 0 (fun f => f.pres) : Nat) + soff (c.sRd s.oracle a.sa)
    sTwait s c (if sum < 0 then some 0 else if 2 ^ 64 ≤ sum then none else wakeTime sum.toNat))

/-! ### Launches (R260, R358) -/

/-- Queue q is enabled and device-fed for the context (R358). -/
def State.lnchOk (s : State) (ctx q : Nat) : Bool :=
  bitAt (s.r32 (qBlk q)) 31 && bitAt (s.r32 (qBlk q)) 29 && s.qCtx q = ctx

/-- Records in a queue (R356). -/
def State.qCount (s : State) (q : Nat) : Nat := (s.r32 (qBlk q + 0x28) + 2 ^ 32 - s.r32 (qBlk q + 0x2C)) % 2 ^ 32

/-- The record is written into the entry at TAIL, and TAIL advances (R260, R358). -/
def State.append (s : State) (q : Nat) (rec : List Byte) : Except AccFault State :=
  let tail := s.r32 (qBlk q + 0x28)
  match s.vwrite (s.qCtx q) .ring (((s.addr72 (qBlk q + 0x08) (qBlk q + 0x10)).toNat + 64 * (tail % s.qSize q)) % 2 ^ 72) rec with
  | .ok s' => .ok (s'.w32 (qBlk q + 0x28) (tail + 1))
  | .error f => .error f

/-- The record of a launch instruction: the one read when a parked LNCH issued, else the 64 bytes at EA, read for the active threads (R260);
poisoned data there is a machine check (R384). -/
def State.launchBytes (s : State) (c : Crew) (a : SM6) : Except Trap (State × List Byte) :=
  match c.wait with
  | .lnch r => .ok (s, r)
  | _ =>
    let addr := ea (c.bRd a.b) (soff (c.sRd s.oracle a.sb))
    if addr % 64 ≠ 0 then .error (Trap.align .load addr 0)
    else match s.access (s.ctxOf c) .load addr 64 with
      | .error f => .error (Trap.access .load f 0)
      | .ok ps =>
        if s.touchesPoison ps then .error (poisonTrap (s.coreOf c))
        else
          let r := s.readAt (s.sPlace c) Sync.plain (s.bytesWith (s.ctxOf c) .glb addr (wordUnit addr 64) ((paList ps).map Loc.mem))
          .ok (r.1, r.2.flatMap r.1.returned)

/-- Every access of the active threads to GLB and REC so far comes before the launches of a queue (R87). -/
def State.ringBell (s : State) (c : Crew) (q : Nat) : State :=
  let t := s.point (s.sPlace c) 17
  { t with bells := tset t.bells q (tget [] t.bells q ++ [s.evs.length]) }

def execLnch (a : SM6) (s : State) : Res :=
  runS s a.w true 4 (fun _ _ => []) (fun s c =>
    match s.launchBytes c a with
    | .error t => .trap t
    | .ok (s, bs) =>
      if !s.lnchOk (s.ctxOf c) a.low then .trap Trap.illegal
      else if s.qSize a.low ≤ s.qCount a.low then .wait (s.park s.focus c (.lnch bs))
      else match s.append a.low bs with
        | .error f => .trap (Trap.access .ring f 0)
        | .ok s' => sDone (s'.ringBell c a.low) c 4)

def execLnchNb (a : SM6) (s : State) : Res :=
  runS s a.w true 4 (fun _ _ => []) (fun s c =>
    match s.launchBytes c a with
    | .error t => .trap t
    | .ok (s, bs) =>
      if !s.lnchOk (s.ctxOf c) a.low then sDone s (c.sWr a.sd 2) 4
      else if s.qSize a.low ≤ s.qCount a.low then sDone s (c.sWr a.sd 1) 4
      else match s.append a.low bs with
        | .error f => .trap (Trap.access .ring f 0)
        | .ok s' => sDone (s'.ringBell c a.low) (c.sWr a.sd 0) 4)

/-! ### Guards and bins (R261 to R263) -/

/-- A guard slot gets a state, with what its trigger has acquired, and every sub-queue head that names it looks (R261, R328). -/
def sGuard (s : State) (c : Crew) (slot : Nat) (g : Guard) (trig : List Nat) : Eff :=
  match sDone s { c with guards := tset c.guards slot g, trigs := tset c.trigs slot trig } 4 with
  | .done s' => .done (s'.resolve s'.focus)
  | e => e

def execGsetT (a : SA) (s : State) : Res := runS s a.w false 4 (fun _ _ => []) (fun s c => sGuard s c (a.sd % 16) .yes [])
def execGsetF (a : SA) (s : State) : Res := runS s a.w false 4 (fun _ _ => []) (fun s c => sGuard s c (a.sd % 16) .no [])
def execGclr (a : SA) (s : State) : Res := runS s a.w false 4 (fun _ _ => []) (fun s c => sGuard s c (a.sd % 16) .unbound [])

/-- The watcher of a crew's guard slot reads; for a crew that has retired it acts as a unit of the device. -/
def State.watchRead (s : State) (ctx cid addr : Nat) : Except AccFault (State × Nat × List Nat) :=
  match s.crew? cid with
  | some c => s.watchFor (c.threads.map (fun t => .thread t.2)) (c.threads.map (fun t => .thread t.2)) (s.gangSize (s.lidOf c)) ctx addr
  | none => s.watchFor [engineOf 7 cid] [] 0 ctx addr

/-- GSET.TRIG: TRUE when the counter has reached the threshold when read at issue, else a watch (R261, R262). -/
def execGsetTrig (a : SM6) (s : State) : Res :=
  runS s a.w false 4 (fun _ _ => []) (fun s c =>
    let addr := ea (c.bRd a.b) (soff (c.sRd s.oracle a.sb))
    let thr := (c.sRd s.oracle a.low).toNat
    if addr % 8 ≠ 0 then .trap (Trap.align .watch addr 0)
    else match s.watchRead (s.ctxOf c) s.focus addr with
      | .error f => .trap (Trap.access .watch f 0)
      | .ok (t, v, trig) =>
        if thr ≤ v then sGuard t c (a.sd % 16) .yes trig else sGuard s c (a.sd % 16) (.watch (BitVec.ofNat 72 addr) thr c.sPos false none) [])

def execBinc (a : SA) (s : State) : Res :=
  runS s a.w false 4 (fun _ _ => []) (fun s c =>
    let n := a.sd % 16
    sDone s { c with bins := tset c.bins n ((tget 0 c.bins n + (c.sRd s.oracle a.sa).toNat % 2 ^ 32) % 2 ^ 32) } 4)

/-! ### Special registers (R24, R143, R233, R265, R266, R205) -/

/-- WGID of a flat index in a launch's grid (R24). -/
def wgid (r : Record) (wgi : Nat) : Nat :=
  let x := wgi % r.gx
  let y := wgi / r.gx % r.gy
  let z := wgi / r.gx / r.gy
  x + y * 2 ^ 20 + z * 2 ^ 40

/-- A uniform special register's value (R24, R233). -/
def State.uniformReg (s : State) (c : Crew) (num : Nat) : W64 :=
  match num, s.launchOf c with
  | 0x001, _ => BitVec.ofNat 64 c.id
  | 0x002, some l => BitVec.ofNat 64 (wgid l.record (s.wgiOf c))
  | 0x003, some l => if l.record.gang = 0 then BitVec.allOnes 64
      else BitVec.ofNat 64 (s.wgiOf c % l.record.gang + s.wgiOf c / l.record.gang * 16)
  | 0x005, _ => BitVec.ofNat 64 s.tnow
  | 0x006, _ => BitVec.ofNat 64 s.tfrac
  | 0x007, _ => s.frameVal c (fun f => f.frameNo)
  | 0x008, _ => BitVec.ofNat 64 c.key
  | _, _ => 0

/-- ORIGIN of a thread (R24). -/
def Thread.origin (t : Thread) : Nat := t.lane + t.crew * 32 + t.wgi * 1024

def isUniform (num : Nat) : Bool := num = 1 || num = 2 || num = 3 || num = 5 || num = 6 || num = 7 || num = 8
def isPerLane (num : Nat) : Bool := num = 0 || num = 4

def execSread (a : SP) (s : State) : Res :=
  runS s a.w (isPerLane a.num) 4 (fun s c =>
    [(isUniform a.num || isPerLane a.num, Trap.illegal),
     (isUniform a.num || (decide (a.dst + (if a.num = 4 then 1 else 0) < (s.kernOf c).vregs) && (a.num ≠ 4 || a.dst % 2 = 0)), Trap.illegal)])
    (fun s c =>
      if isUniform a.num then sDone s (c.sWr (a.dst % 64) (s.uniformReg c a.num)) 4
      else sDone s ((lanesOf c.active).foldl (fun c' l =>
        if a.num = 0 then c'.vWr a.dst l (BitVec.ofNat 32 l)
        else c'.vWrN 2 a.dst l ((tget? c.threads l).elim 0 Thread.origin)) c) 4)

/-- TGTBIND (R205): binds a target of a hardware work queue to the crew's workgroup. -/
def execSwrite (a : SI) (s : State) : Res :=
  runS s a.w false 4 (fun s c =>
    let x := (c.sRd s.oracle a.sa).toNat
    let q := tget? s.hwqs (bits x 5 0)
    [(a.imm = 0x010, Trap.illegal), (bits x 39 24 ≠ 0, Trap.illegal), (q.elim false (fun h => h.on && h.ctx = s.ctxOf c), Trap.illegal),
     (!bitAt x 18 || decide (bits x 23 19 < (s.kernOf c).acct), Trap.illegal),
     (q.elim false (fun h => h.targets.all (fun t => t.tile ≠ bits x 17 6)), Trap.illegal),
     (q.elim false (fun h => decide (h.entries.length + h.targets.length < 4096)), Trap.illegal)])
    (fun s c =>
      let x := (c.sRd s.oracle a.sa).toNat
      let t : Target := { tile := bits x 17 6, g := c.g, acc := if bitAt x 18 then some (bits x 23 19) else none, expect := bits x 39 24,
                          count := 0, skip := bitAt x 40 }
      sDone { s with hwqs := tmod s.hwqs (bits x 5 0) (fun h => { h with targets := h.targets ++ [t] }) } c 4)

/-! ### Fence, yield, traps, no-operations (R267 to R270, R236, R220) -/

/-- FENCE drains and orders the accesses of the active threads (R84 to R86); an acquiring kind with SMP in its mask invalidates the core's
sampler cache (R71, R267). -/
def execFence (a : SF) (s : State) : Res :=
  runS s a.w true 4 (fun _ _ => [(decide (a.scope < 6), Trap.illegal)]) (fun s c =>
    sDone ((s.fence c c.active .s (tget 0 s.joins s.focus) a.kind a.scope a.mask (a.u = 1)).acquireEffect c (decide (a.kind ≠ 1)) a.mask) c 4)

/-- The other crews that could issue on the crew's partition in its class (R35, R268); a stall of one stream leaves a crew ready. -/
def State.peers (s : State) (cid : Nat) (c : Crew) : List Nat :=
  (s.crews.filter (fun x => x.1 ≠ cid && s.coreOf x.2 = s.coreOf c && x.2.part = c.part && x.2.stop.isNone
    && (s.wg? x.2.g).elim false (fun w => w.phase = .resident)
    && (x.2.wait = .none || x.2.wait = .stall .s && !x.2.runs.isEmpty || x.2.wait = .stall .l) && x.2.runPath.isSome && (s.launchOf x.2).elim false (fun l => (s.launchOf c).elim false (fun m => l.record.classD = m.record.classD)))).map
    (fun x => x.1)

/-- YIELD rotates the running path, whatever its age, and lets every other ready crew of its partition and class issue first (R268). -/
def execYieldCrew (a : SR) (s : State) : Res :=
  runS s a.w false 4 (fun _ _ => []) (fun s c => sDone s { c with yielded := s.peers s.focus c } 4 |> fun e => match e with
    | .done s' => .done (s'.modCrew s'.focus Crew.rotate)
    | e => e)

/-- TRAP is a software trap, SYSC a system call, each with imm12 as its code (R269). -/
def execTrap (a : SI) (s : State) : Res := runS s a.w false 4 (fun _ _ => []) (fun _ _ => .trap ⟨13, 0, 0, a.imm, []⟩)
def execSysc (a : SI) (s : State) : Res := runS s a.w false 4 (fun _ _ => []) (fun _ _ => .trap ⟨14, 0, 0, a.imm, []⟩)

/-- BRKPT stops the partition when the context holds the debug right, and is a NOP otherwise (R269, R410). -/
def execBrkpt (a : SI) (s : State) : Res :=
  runS s a.w false 4 (fun _ _ => []) (fun s c => if s.debugRight (s.ctxOf c) then .trap ⟨12, 0, 0, a.imm, []⟩ else sDone s c 4)

/-- NOP, and a hint: no effect but the wait of W (R270, R236). -/
def execNop (a : SR) (s : State) : Res := plainS s a.w
def execSHint (_ : Nat) (a : SR) (s : State) : Res := plainS s a.w

/-- An unassigned S opcode: the illegal-instruction trap (R220). -/
def execSIllegalOpcode (_ : Nat) (a : SR) (s : State) : Res := runS s a.w false 4 (fun _ _ => [(false, Trap.illegal)]) (fun s c => sDone s c 4)

/-- L hints and unassigned L opcodes (R236, R220). -/
def execLHint (_ : Nat) (f : LF) (s : State) : Res := runL s f (fun _ _ => []) (fun s c _ _ => lDone s c)
def execLIllegalOpcode (_ : Nat) (f : LF) (s : State) : Res :=
  runL s f (fun _ _ => [(false, Trap.illegal)]) (fun s c _ _ => lDone s c)

end Sys2Proof.Machine
end

