-- ==== Sys2Proof/Machine/Arrays.lean ====
section
/-! DEFINITION. The event log, and the tests of rows of on-die arrays with the retirement they may lead to (25 R426 to R428). -/

namespace Sys2Proof.Machine

/-! ### The event log (R426) -/

/-- What is logged. The spec numbers no codes: the code of each is the device's (free). -/
inductive LogKind | bringup | errorClass | retire | update | level deriving DecidableEq, Repr
def LogKind.code (k : LogKind) : Nat :=
  Config.free 0 25 (match k with
    | .bringup => 0
    | .errorClass => 1
    | .retire => 2
    | .update => 3
    | .level => 4) % 65536

/-- Reeve's real-time clock. -/
def State.reeveTime (s : State) : Nat := (Config.reeveClock + s.reeve.clock) % 2 ^ 64

/-- A record joins the log of 131,072; past that the oldest goes. Its time is TNOW, or Reeve's own clock before TNOW starts. -/
def State.logDetail (s : State) (k : LogKind) (source detail : Nat) : State :=
  let r : LogRec := { time := if s.started then s.tnow else s.reeveTime, num := (s.reeve.log.getLast?).elim 0 (fun x => x.num + 1),
                      code := k.code, source := source, detail := detail % 2 ^ 128 }
  { s with reeve := { s.reeve with log := (s.reeve.log ++ [r]).drop (s.reeve.log.length + 1 - 131072) } }

/-- A record of which no detail is stated. -/
def State.logEvent (s : State) (k : LogKind) (source : Nat) : State := s.logDetail k source (Config.free s.oracle 26 1)

/-- The source of what is no sensor's, quad's, port's or array's: no rule gives it. -/
def State.noSource (s : State) : Nat := Config.free s.oracle 26 3 % 65536

/-! ### Errors in on-die arrays (R427, R428, R384) -/

/-- Number of an array: its kind and unit. -/
def arrayNo (k : ArrayKind) (unit : Nat) : Nat :=
  (match k with
    | .regFile => 0
    | .pool => 1
    | .stationary => 2
    | .accumulator => 3
    | .l2Slice => 4
    | .sampler => 5) * 1024 + unit

/-- The quad of an array, and whether it is an L2 slice. -/
def arrayQuad (a : Nat) : Nat := if a / 1024 = 2 || a / 1024 = 3 || a / 1024 = 4 then a % 1024 else a % 1024 / 4
def isSlice (a : Nat) : Bool := a / 1024 = 4

/-- A quad begins to leave service; `lasting` keeps it retired across resets. -/
def State.retireQuad (s : State) (q : Nat) (lasting : Bool) : State :=
  let flash := if lasting && !s.reeve.retiredFlash.contains q then s.reeve.retiredFlash ++ [q] else s.reeve.retiredFlash
  if !s.quadLive q || s.reeve.retiring.contains q then { s with reeve := { s.reeve with retiredFlash := flash } }
  else State.finishRetiring (({ s with reeve := { s.reeve with retiring := s.reeve.retiring ++ [q], retiredFlash := flash } }).logEvent .retire q)

/-- No spare row is free: the array's quad is retired, or its L2 slice alone. -/
def State.outOfSpares (s : State) (a : Nat) : State :=
  if isSlice a then
    if s.reeve.slicesFlash.contains (a % 1024) then s
    else ({ s with reeve := { s.reeve with slicesFlash := s.reeve.slicesFlash ++ [a % 1024] } }).logEvent .retire (a % 1024)
  else s.retireQuad (arrayQuad a) true

/-- An error is classed. -/
def State.classed (s : State) (a : Nat) (lasting : Bool) : State :=
  (if lasting then s.countField (reeveBlk + 0x18) 15 0 else s.countField (reeveBlk + 0x18) 31 16).logEvent .errorClass a

/-- The test of a row begins, with its data on a spare row. -/
def State.startTest (s : State) (a row : Nat) : State :=
  if 8 ≤ (s.reeve.spares.filter (fun x => x.array = a)).length then s.outOfSpares a
  else { s with reeve := { s.reeve with spares := s.reeve.spares ++ [⟨a, row, true⟩] } }

/-- The test of a row ends: it is transient and its spare free again, or lasting and the spare stays. Errors queued for the array are tested next. -/
def State.endTest (s : State) (a row : Nat) (lasting : Bool) : State :=
  let here (x : Spare) : Bool := x.array = a && x.row = row && x.testing
  let spares := if lasting then s.reeve.spares.map (fun (x : Spare) => if here x then { x with testing := false } else x)
    else s.reeve.spares.filter (fun x => !here x)
  let mine := s.reeve.queuedErrs.filter (fun e => e.1 = a)
  let s1 : State := { s with reeve := { s.reeve with spares := spares, queuedErrs := s.reeve.queuedErrs.filter (fun e => e.1 ≠ a) } }
  mine.eraseDups.foldl (fun t e => t.startTest e.1 e.2) (s1.classed a lasting)

/-- A row that has shown an error is tested; one already in test has met a further error, and is lasting. -/
def State.testRow (s : State) (a row : Nat) : State :=
  if s.reeve.spares.any (fun x => x.array = a && x.row = row && x.testing) then s.endTest a row true else s.startTest a row

/-- Rows from here up are an array's spare rows: an error met in one while a test runs in the array waits for the test to end. -/
def spareRows : Nat := 65536

end Sys2Proof.Machine
end

