-- ==== Sys2Proof/Machine/Num.lean ====
section
/-! DEFINITION. Number formats and exact arithmetic (05): decoding, ROUND, FTZ, SUM_ASC, ALIGN, types and their elements, and the
enclosures that bound the approximated functions (15 R275, R289). -/

namespace Sys2Proof.Machine

/-! ### Formats (R104) -/

inductive Fmt | f64 | f32 | f16 | bf16 | e4m3 | e5m2 | e2m1 deriving DecidableEq, Repr

/-- Exponent bits and fraction bits. -/
def Fmt.eb : Fmt → Nat
  | .f64 => 11 | .f32 => 8 | .f16 => 5 | .bf16 => 8 | .e4m3 => 4 | .e5m2 => 5 | .e2m1 => 2
def Fmt.fb : Fmt → Nat
  | .f64 => 52 | .f32 => 23 | .f16 => 10 | .bf16 => 7 | .e4m3 => 3 | .e5m2 => 2 | .e2m1 => 1
def Fmt.bias (f : Fmt) : Nat := 2 ^ (f.eb - 1) - 1
def Fmt.width (f : Fmt) : Nat := 1 + f.eb + f.fb
/-- Infinity and NaN occupy the top exponent. -/
def Fmt.hasInf : Fmt → Bool
  | .e4m3 | .e2m1 => false
  | _ => true
/-- The encoding of MAXF without its sign. -/
def Fmt.maxMag (f : Fmt) : Nat :=
  match f with
  | .e4m3 => 0x7E
  | .e2m1 => 7
  | _ => (2 ^ f.eb - 1) * 2 ^ f.fb - 1
/-- CANON_NAN (R106); +0 for E2M1. -/
def Fmt.canonNan : Fmt → Nat
  | .f64 => 0x7FF8000000000000 | .f32 => 0x7FC00000 | .f16 => 0x7E00 | .bf16 => 0x7FC0 | .e4m3 => 0x7F | .e5m2 => 0x7E | .e2m1 => 0
def Fmt.signBit (f : Fmt) : Nat := 2 ^ (f.eb + f.fb)

/-- An exact value: NaN, an infinity, or a signed fraction n / d whose zero keeps its sign. -/
inductive Ex where
  | nan
  | inf (neg : Bool)
  | num (neg : Bool) (n d : Nat)
deriving DecidableEq, Repr

/-- Sign and magnitude bits of an encoding. -/
def Fmt.neg (f : Fmt) (x : Nat) : Bool := bitAt x (f.eb + f.fb)
def Fmt.mag (f : Fmt) (x : Nat) : Nat := x % f.signBit

/-- m and e of a finite encoding's magnitude (R104). -/
def Fmt.me (f : Fmt) (mag : Nat) : Nat × Int :=
  let E := mag / 2 ^ f.fb
  if E = 0 then (mag % 2 ^ f.fb, 1 - (f.bias : Int) - f.fb) else (2 ^ f.fb + mag % 2 ^ f.fb, (E : Int) - f.bias - f.fb)

/-- m * 2^e as a fraction. -/
def Ex.ofME (neg : Bool) (m : Nat) (e : Int) : Ex :=
  if 0 ≤ e then .num neg (m * 2 ^ e.toNat) 1 else .num neg m (2 ^ (-e).toNat)

def Fmt.isNan (f : Fmt) (x : Nat) : Bool :=
  match f with
  | .e4m3 => decide (f.mag x = 0x7F)
  | .e2m1 => false
  | _ => decide (f.maxMag + 1 < f.mag x)
def Fmt.isInf (f : Fmt) (x : Nat) : Bool := f.hasInf && decide (f.mag x = f.maxMag + 1)
def Fmt.isSub (f : Fmt) (x : Nat) : Bool := decide (f.mag x ≠ 0) && decide (f.mag x < 2 ^ f.fb)

/-- DECODE as an exact value (R104). -/
def Fmt.dec (f : Fmt) (x : Nat) : Ex :=
  if f.isNan x then .nan
  else if f.isInf x then .inf (f.neg x)
  else Ex.ofME (f.neg x) (f.me (f.mag x)).1 (f.me (f.mag x)).2

/-! ### Exact operations -/

/-- The rounding modes (R107). -/
inductive RMode | rne | rz | ru | rd deriving DecidableEq, Repr
def RMode.of : Nat → RMode
  | 0 => .rne
  | 1 => .rz
  | 2 => .ru
  | _ => .rd

def Ex.negate : Ex → Ex
  | .nan => .nan
  | .inf s => .inf (!s)
  | .num s n d => .num (!s) n d
def Ex.isZero : Ex → Bool
  | .num _ n _ => n = 0
  | _ => false
def Ex.mul : Ex → Ex → Ex
  | .nan, _ => .nan
  | _, .nan => .nan
  | .inf s, .inf t => .inf (s != t)
  | .inf s, .num t n _ => if n = 0 then .nan else .inf (s != t)
  | .num s n _, .inf t => if n = 0 then .nan else .inf (s != t)
  | .num s n d, .num t m e => .num (s != t) (n * m) (d * e)
def Ex.div : Ex → Ex → Ex
  | .nan, _ => .nan
  | _, .nan => .nan
  | .inf _, .inf _ => .nan
  | .inf s, .num t _ _ => .inf (s != t)
  | .num s _ _, .inf t => .num (s != t) 0 1
  | .num s n d, .num t m e => if m = 0 then (if n = 0 then .nan else .inf (s != t)) else .num (s != t) (n * e) (d * m)
/-- The exact sum; a zero sum's sign by R110. -/
def Ex.add (mode : RMode) : Ex → Ex → Ex
  | .nan, _ => .nan
  | _, .nan => .nan
  | .inf s, .inf t => if s = t then .inf s else .nan
  | .inf s, _ => .inf s
  | _, .inf t => .inf t
  | .num s n d, .num t m e =>
    if n = 0 && m = 0 then .num (if s = t then s else decide (mode = .rd)) 0 1
    else if s = t then .num s (n * e + m * d) (d * e)
    else if n * e = m * d then .num (decide (mode = .rd)) 0 1
    else if m * d < n * e then .num s (n * e - m * d) (d * e)
    else .num t (m * d - n * e) (d * e)
def Ex.sub (mode : RMode) (a b : Ex) : Ex := a.add mode b.negate
/-- a < b and a = b of two values that are not NaN. -/
def Ex.lt : Ex → Ex → Bool
  | .inf s, .inf t => s && !t
  | .inf s, .num _ _ _ => s
  | .num _ _ _, .inf t => !t
  | .num s n d, .num t m e =>
    if n = 0 && m = 0 then false
    else if s && !t then true
    else if !s && t then false
    else if s then decide (m * d < n * e) else decide (n * e < m * d)
  | _, _ => false
def Ex.eq : Ex → Ex → Bool
  | .inf s, .inf t => s = t
  | .num s n d, .num t m e => (n * e = m * d) && (s = t || n = 0)
  | _, _ => false
/-- An integer as an exact value. -/
def Ex.ofInt (x : Int) : Ex := .num (decide (x < 0)) x.natAbs 1

/-! ### ROUND (R108) -/

/-- floor(log2(n / d)) for n, d > 0. -/
def log2Frac (n d : Nat) : Int :=
  let e : Int := (Nat.log2 n : Int) - Nat.log2 d
  let lt : Bool := if 0 ≤ e then n < d * 2 ^ e.toNat else n * 2 ^ (-e).toNat < d
  if lt then e - 1 else e

/-- n / d in units of 2^q: the floor, and the rest over its denominator. -/
def scaleFrac (n d : Nat) (q : Int) : Nat × Nat × Nat :=
  let n' := if 0 ≤ q then n else n * 2 ^ (-q).toNat
  let d' := if 0 ≤ q then d * 2 ^ q.toNat else d
  (n' / d', n' % d', d')

/-- An integer part with its rest, rounded. -/
def roundUnit (mode : RMode) (neg : Bool) (k r d : Nat) : Nat :=
  match mode with
  | .rne => if d < 2 * r || (2 * r = d && k % 2 = 1) then k + 1 else k
  | .rz => k
  | .ru => if neg || r = 0 then k else k + 1
  | .rd => if neg && r ≠ 0 then k + 1 else k

/-- The exponent of the grid of a format at n / d (R108: extended to unbounded exponent). -/
def Fmt.gridExp (f : Fmt) (n d : Nat) : Int := max (log2Frac n d) (1 - (f.bias : Int)) - f.fb

/-- The encoding, on the grid of unbounded exponent, of the magnitude n / d rounded; beyond maxMag it has overflowed. -/
def Fmt.magOf (f : Fmt) (mode : RMode) (neg : Bool) (n d : Nat) : Nat :=
  if n = 0 then 0
  else
    let q := f.gridExp n d
    let u := scaleFrac n d q
    (q + f.bias + f.fb - 1).toNat * 2 ^ f.fb + roundUnit mode neg u.1 u.2.1 u.2.2

/-- A sign put on a magnitude. -/
def Fmt.signed (f : Fmt) (neg : Bool) (mag : Nat) : Nat := if neg then f.signBit + mag else mag

/-- ROUND(x, fmt, mode, sat) (R108). -/
def round (x : Ex) (f : Fmt) (mode : RMode) (sat : Bool) : Nat :=
  let overflow (neg : Bool) : Nat :=
    if sat || f = .e2m1 then f.signed neg f.maxMag
    else if f = .e4m3 then f.canonNan
    else f.signed neg (f.maxMag + 1)
  match x with
  | .nan => f.canonNan
  | .inf s => overflow s
  | .num s n d =>
    let m := f.magOf mode s n d
    if m ≤ f.maxMag then f.signed s m
    else if mode = .rz || mode = .ru && s || mode = .rd && !s then f.signed s f.maxMag
    else overflow s

/-- RNE32 (R108). -/
def rne32 (x : Ex) : Nat := round x .f32 .rne false

/-- FTZ_IN and FTZ_OUT on an encoding: a subnormal becomes a zero of its sign (R109). -/
def ftz (on : Bool) (f : Fmt) (x : Nat) : Nat := if on && f.isSub x then f.signed (f.neg x) 0 else x

/-- SUM_ASC (R110). -/
def sumAsc (ts : List Ex) (f : Fmt) (mode : RMode) (sat : Bool) : Nat :=
  match ts with
  | [] => 0
  | t :: ts => ts.foldl (fun a t => round ((f.dec a).add mode t) f mode sat) (round t f mode sat)

/-- An exact value rounded to an integer; none for NaN (R103). Infinities lie beyond every type. -/
def roundInt (mode : RMode) : Ex → Option Int
  | .nan => none
  | .inf s => some (if s then -(2 ^ 80) else 2 ^ 80)
  | .num s n d =>
    let k := roundUnit mode s (n / d) (n % d) d
    some (if s then -(k : Int) else k)

/-! ### ALIGN (R111) -/

/-- A matrix operand element: sign, magnitude, exponent, and whether it is NaN or infinite (R104, R111). -/
structure Elem where
  s : Bool
  m : Nat
  e : Int
  bad : Bool
deriving DecidableEq, Repr

/-- DECODE of a floating-point element. -/
def Fmt.elem (f : Fmt) (x : Nat) : Elem :=
  { s := f.neg x, m := (f.me (f.mag x)).1, e := (f.me (f.mag x)).2, bad := f.isNan x || f.isInf x }

/-- DECODE of an integer element of w bits. -/
def intElem (w : Nat) (signed : Bool) (x : Nat) : Elem :=
  let v : Int := if signed then sgn w x else (x % 2 ^ w : Nat)
  { s := decide (v < 0), m := v.natAbs, e := 0, bad := false }

/-- ALIGN of a block: signed aligned magnitudes, the block exponent, the bad flag. `win` none marks an integer format. -/
def alignBlock (xs : List Elem) (win : Option Nat) : List Int × Int × Bool :=
  let bad := xs.any (fun x => x.bad)
  let sg (x : Elem) (a : Nat) : Int := if x.s then -(a : Int) else a
  match win with
  | none => (xs.map (fun x => sg x x.m), 0, bad)
  | some w =>
    let nz := xs.filter (fun x => x.m ≠ 0)
    match nz with
    | [] => (xs.map (fun _ => 0), 0, bad)
    | y :: ys =>
      let T : Int := ys.foldl (fun (t : Int) (x : Elem) => max t (x.e + (bitLen x.m : Int))) (y.e + (bitLen y.m : Int))
      let E := T - w
      (xs.map (fun x => sg x (if 0 ≤ x.e - E then x.m * 2 ^ (x.e - E).toNat else x.m / 2 ^ (E - x.e).toNat)), E, bad)

/-! ### Types of the L-stream (R102, R227) -/

/-- An element: an integer of w bits, signed or not, or a float. -/
inductive EKind | int (signed : Bool) (w : Nat) | flt (f : Fmt) deriving DecidableEq, Repr

/-- Element count and kind of a type code (R227). -/
def tyElem : Nat → Option (Nat × EKind)
  | 0 => some (1, .int true 32)
  | 1 => some (1, .int false 32)
  | 2 => some (1, .flt .f32)
  | 3 => some (2, .flt .f16)
  | 4 => some (2, .flt .bf16)
  | 5 => some (2, .int true 16)
  | 6 => some (2, .int false 16)
  | 7 => some (1, .flt .f64)
  | 8 => some (1, .int true 64)
  | 9 => some (1, .int false 64)
  | 10 => some (4, .int true 8)
  | 11 => some (4, .int false 8)
  | 12 => some (4, .flt .e4m3)
  | 13 => some (4, .flt .e5m2)
  | 14 => some (8, .flt .e2m1)
  | _ => none

/-- A type of 64 bits occupies a register pair. -/
def ty64 (t : Nat) : Bool := t = 7 || t = 8 || t = 9
def tyCount (t : Nat) : Nat := ((tyElem t).getD (1, .int false 32)).1
def tyKind (t : Nat) : EKind := ((tyElem t).getD (1, .int false 32)).2
def EKind.w : EKind → Nat
  | .int _ w => w
  | .flt f => f.width
def EKind.isFlt : EKind → Bool
  | .flt _ => true
  | .int _ _ => false
/-- Registers of an operand of the type. -/
def tyRegs (t : Nat) : Nat := if ty64 t then 2 else 1

/-- Element i of w bits. -/
def elemAt (w x i : Nat) : Nat := x / 2 ^ (w * i) % 2 ^ w
/-- Elements packed low first. -/
def packElems (w n : Nat) (f : Nat → Nat) : Nat := (List.range n).foldl (fun a i => a + f i % 2 ^ w * 2 ^ (w * i)) 0

/-- The value of an element. -/
def EKind.int? : EKind → Nat → Int
  | .int true w, x => sgn w x
  | .int false w, x => (x % 2 ^ w : Nat)
  | .flt _, _ => 0
def EKind.dec : EKind → Nat → Ex
  | .flt f, x => f.dec x
  | k, x => Ex.ofInt (k.int? x)

/-- A negated operand element (R226). -/
def EKind.negElem (k : EKind) (x : Nat) : Nat :=
  match k with
  | .int _ w => wrap w (-(x : Int))
  | .flt f => f.signed (!f.neg x) (f.mag x)

/-- An exact integer as a result element (R103). -/
def intResult (signed : Bool) (w : Nat) (sat : Bool) (x : Int) : Nat := if sat then satInt w signed x else wrap w x

/-- CONVERT (R292). -/
def convertEx (x : Ex) (dst : EKind) (mode : RMode) (sat : Bool) : Nat :=
  match dst with
  | .flt f => round x f mode sat
  | .int signed w => ((roundInt mode x).map (satInt w signed)).getD 0
def convert (x : Nat) (src dst : EKind) (mode : RMode) (sat : Bool) : Nat :=
  match src, dst with
  | .int _ _, .int signed w => intResult signed w sat (src.int? x)
  | _, _ => convertEx (src.dec x) dst mode sat

/-! ### Square root, exactly enough to round -/

/-- Newton's iteration for floor(sqrt n). -/
def isqrtAux : Nat → Nat → Nat → Nat
  | 0, _, x => x
  | fuel + 1, n, x =>
    let y := (x + n / x) / 2
    if y < x then isqrtAux fuel n y else x
def isqrt (n : Nat) : Nat := if n = 0 then 0 else isqrtAux (Nat.log2 n + 2) n (2 ^ ((Nat.log2 n + 2) / 2))

/-- The square root of m * 2^e as a value that rounds as the exact root does: 128 more bits and a sticky half unit. -/
def sqrtEx (m : Nat) (e : Int) : Ex :=
  let par := (e % 2).toNat
  let N := m * 2 ^ (par + 256)
  let r := isqrt N
  Ex.ofME false (2 * r + (if r * r = N then 0 else 1)) ((e - par) / 2 - 129)

/-! ### Enclosures of the approximated functions (R289): fixed point with 512 fraction bits -/

/-- An interval [lo, hi] in units of 2^-512. -/
abbrev Iv := Int × Int
def fpBits : Nat := 512
def fpOne : Nat := 2 ^ fpBits
/-- Slack that covers the rounding of the fixed-point steps. -/
def fpSlack : Int := 2 ^ 24

/-- The product over the fraction bits of the square roots of 2: floor(2^f) for a fraction f of w bits. -/
def exp2Frac : Nat → Nat → Nat → Nat → Nat
  | 0, _, _, acc => acc
  | w + 1, f, root, acc =>
    let r := isqrt (root * fpOne)
    exp2Frac w f r (if f.testBit w then acc * r / fpOne else acc)

/-- log2 of r in [1, 2): n binary digits by squaring. -/
def log2Digits : Nat → Nat → Nat → Nat
  | 0, _, acc => acc
  | n + 1, r, acc =>
    let q := r * r / fpOne
    if 2 * fpOne ≤ q then log2Digits n (q / 2) (2 * acc + 1) else log2Digits n q (2 * acc)

/-- arctan(1/k) in fixed point, by n terms. -/
def arctanInv (k n : Nat) : Int :=
  (List.range n).foldl (fun a i =>
    let t : Int := ((fpOne / k ^ (2 * i + 1) / (2 * i + 1) : Nat) : Int)
    if i % 2 = 0 then a + t else a - t) 0
/-- pi (Machin). -/
def fpPi : Int := 4 * (4 * arctanInv 5 230 - arctanInv 239 70)

/-- Taylor sums of sin and cos at x in [0, 7), in fixed point. -/
def trigSum : Nat → Nat → Int → Int → Int → Int
  | 0, _, _, _, acc => acc
  | n + 1, k, x2, term, acc =>
    let t := -(term * x2 / fpOne) / (((k + 1) * (k + 2) : Nat) : Int)
    trigSum n (k + 2) x2 t (acc + t)
def fpSin (x : Int) : Int := trigSum 90 1 (x * x / fpOne) x x
def fpCos (x : Int) : Int := trigSum 90 0 (x * x / fpOne) fpOne fpOne

/-- exp(-z) for z >= 0: Taylor at z / 1024, then ten squarings. -/
def fpExpNeg (z : Int) : Int :=
  let y := z / 1024
  let s := (List.range 120).foldl (fun (p : Int × Int) i =>
    let t := -(p.1 * y / fpOne) / ((i + 1 : Nat) : Int)
    (t, p.2 + t)) ((fpOne : Int), (fpOne : Int))
  (List.range 10).foldl (fun a _ => a * a / fpOne) s.2

/-- A fraction in fixed point, rounded down. -/
def fpOf (neg : Bool) (n d : Nat) : Int := let q : Int := ((n * fpOne / d : Nat) : Int); if neg then -q else q

/-! ### Choosing among the permitted encodings -/

/-- Encodings in the order of their values: 0 is +0, -1 is -0. -/
def ordFloor (f : Fmt) (neg : Bool) (n d : Nat) : Int :=
  if neg then -1 - (f.magOf .rd true n d : Int) else (f.magOf .rd false n d : Int)
def ordCeil (f : Fmt) (neg : Bool) (n d : Nat) : Int :=
  if neg then -1 - (f.magOf .ru true n d : Int) else (f.magOf .ru false n d : Int)

/-- A value of magnitude num / den * 2^ex with its sign. -/
structure Scaled where
  num : Int
  ex : Int
deriving DecidableEq, Repr
/-- Sign, numerator, denominator of v * 2^-512 * 2^ex. -/
def Scaled.frac (v : Scaled) : Bool × Nat × Nat :=
  let e := v.ex - fpBits
  (decide (v.num < 0), if 0 ≤ e then v.num.natAbs * 2 ^ e.toNat else v.num.natAbs, if 0 ≤ e then 1 else 2 ^ (-e).toNat)

/-- The encoding of an ordinal, an overflow as infinity or saturated. -/
def ofOrd (f : Fmt) (sat : Bool) (o : Int) : Nat :=
  let neg := decide (o < 0)
  let mag := if o < 0 then (-1 - o).toNat else o.toNat
  f.signed neg (if f.maxMag < mag then (if sat then f.maxMag else f.maxMag + 1) else mag)

/-- Ordinals limited to MAXF, or to infinity where the exact value lies beyond MAXF. -/
def clampOrd (f : Fmt) (top bot : Bool) (o : Int) : Int :=
  let hi : Int := (f.maxMag : Int) + (if top then 1 else 0)
  let lo : Int := -1 - (f.maxMag : Int) - (if bot then 1 else 0)
  if hi < o then hi else if o < lo then lo else o

/-- One encoding in a range of ordinals, fixed by the form, type and operand (R275). -/
def pickOrd (f : Fmt) (sat : Bool) (form ty x : Nat) (lo hi : Int) : Nat :=
  ofOrd f sat (lo + ((Config.approx form ty x % ((hi - lo).toNat + 1) : Nat) : Int))

/-- A result whose exact value lies in [lo, hi] * 2^(ex - 512): with a bound in ulp and an absolute bound 2^-abs (the larger holds), or,
for the 16-bit formats, one of the two values that enclose it (R275, R289). -/
def approxIn (f : Fmt) (sat : Bool) (form ty x : Nat) (iv : Iv) (ex : Int) (ulps : Nat) (abs : Option Nat) : Nat :=
  let l := (Scaled.mk iv.1 ex).frac
  let h := (Scaled.mk iv.2 ex).frac
  let top := decide ((f.maxMag : Int) < ordCeil f h.1 h.2.1 h.2.2)
  let bot := decide (ordFloor f l.1 l.2.1 l.2.2 < -1 - (f.maxMag : Int))
  if f ≠ .f32 then
    pickOrd f sat form ty x (clampOrd f top bot (ordFloor f l.1 l.2.1 l.2.2)) (clampOrd f top bot (ordCeil f h.1 h.2.1 h.2.2))
  else
    let big := max iv.1.natAbs iv.2.natAbs
    let bf := (Scaled.mk big ex).frac
    let g := if big = 0 then 1 - (f.bias : Int) - f.fb else f.gridExp bf.2.1 bf.2.2
    let unit : Int :=
      let u := g + fpBits - ex
      let a : Int := if 0 ≤ u then ((ulps * 2 ^ u.toNat : Nat) : Int) else 1
      match abs with
      | none => a
      | some k =>
        let v := (fpBits : Int) - k - ex
        max a (if 0 ≤ v then ((2 ^ v.toNat : Nat) : Int) else 1)
    let lo := (Scaled.mk (iv.1 - unit) ex).frac
    let hi := (Scaled.mk (iv.2 + unit) ex).frac
    pickOrd f sat form ty x (clampOrd f top bot (ordCeil f lo.1 lo.2.1 lo.2.2)) (clampOrd f top bot (ordFloor f hi.1 hi.2.1 hi.2.2))

end Sys2Proof.Machine
end

