-- ==== Sys2Proof/Machine/Lane.lean ====
section
/-! DEFINITION. Operands of lane forms (15 R271, R272; 12 R226 to R228), register limits (01 R26), and the wrappers that write
fixed-latency and long-latency destinations (R273, 18 R343). -/

namespace Sys2Proof.Machine

/-! ### What an L-word reads of the S-stream's registers (R344, R345) -/

/-- s[n] as a lane reads it: as it stood at the LRUN, or for a register with a pending S write then what that write has delivered; a form
that reads it once reads it as lane 0. -/
def lrunS (o : Nat) (r : LRun) (n : Nat) (l : Nat := 0) : W64 :=
  choose o 36 (32 * n + l) 0 (tget 0 r.sAt n :: (r.sAlt.filter (fun e => e.1 = n)).map (fun e => e.2))

/-- b[n] as it stood at the LRUN. -/
def lrunB (r : LRun) (n : Nat) : VA := tget 0 r.bAt n

/-! ### Fields -/

def immB (f : LF) : Bool := bitAt f.sub 7
def sbB (f : LF) : Bool := bitAt f.mod 2
def nbB (f : LF) : Bool := bitAt f.mod 1
def naB (f : LF) : Bool := bitAt f.mod 0

/-- SB with IMMB is undefined (R226). -/
def bOk (f : LF) : Bool := !(immB f && sbB f)

/-- A used register block: first register, count, whether it must start even (R26). -/
structure RBlk where
  reg : Nat
  n : Nat
  even : Bool
deriving DecidableEq, Repr

/-- A single register, and an operand of a type. -/
def r1 (reg : Nat) : RBlk := ⟨reg, 1, false⟩
def rT (t reg : Nat) : RBlk := ⟨reg, tyRegs t, ty64 t⟩
def rPair (reg : Nat) : RBlk := ⟨reg, 2, true⟩

/-- The register of operand b, when it is a v-register. -/
def rB (f : LF) (blk : Nat → RBlk) : List RBlk := if immB f || sbB f then [] else [blk f.vb]

/-- Every used register exists and pairs are even (R26). -/
def regsOk (s : State) (c : Crew) (rs : List RBlk) : Bool :=
  rs.all (fun b => decide (b.reg + b.n ≤ (s.kernOf c).vregs) && (!b.even || b.reg % 2 = 0))

/-! ### Operands -/

/-- n registers of a lane. -/
def opV (s : State) (c : Crew) (n reg l : Nat) : Nat := c.vRdN s.oracle n reg l

/-- Operand b: v[vb], the uniform s[vb], or LOW, as n registers (R226, R228). -/
def opB (s : State) (c : Crew) (r : LRun) (f : LF) (n : Nat) (unsigned64 : Bool) (l : Nat) : Nat :=
  if sbB f then (lrunS s.oracle r (f.vb % 64) l).toNat % 2 ^ (32 * n)
  else if immB f then (if n = 1 then f.low % 2 ^ 32 else if unsigned64 then f.low % 2 ^ 32 else wrap 64 (sgn 32 f.low))
  else opV s c n f.vb l

/-- Operand b of a type. -/
def opBT (s : State) (c : Crew) (r : LRun) (f : LF) (t l : Nat) : Nat := opB s c r f (tyRegs t) (t = 9) l

/-! ### Wrappers -/

/-- n registers from vd written in every lane of Active; `val` sees the registers before the instruction (R271). -/
def laneWrite (c : Crew) (act : W32) (n vd : Nat) (val : Nat → Nat) : Crew :=
  (lanesOf act).foldl (fun c' l => c'.vWrN n vd l (val l)) c

/-- A result block as pending destinations. -/
def laneDest (act : W32) (n vd : Nat) (val : Nat → Nat) : Tbl W32 :=
  destBlock vd n act (fun i l => BitVec.ofNat 32 (val l / 2 ^ (32 * i)))

/-- A predicate result as pending destinations; p7 discards. -/
def predDest (act : W32) (p : Nat) (val : Nat → Bool) : Tbl Bool :=
  if p = 7 then [] else (lanesOf act).map (fun l => (32 * p + l, val l))

/-- A long-latency result: one entry of the L table for the whole block (R343); a full table stalls. -/
def longDone (s : State) (c : Crew) (act : W32) (vs : Tbl W32) (ps : Tbl Bool) (poison : Bool) : Eff :=
  if c.tableFull .l then lStall s c
  else lDone s (if act = 0 then c else c.addPend .l vs ps [] true poison c.lPos)

/-- A lane form: field checks, used registers, and the effect on the lanes. -/
def laneForm (s : State) (f : LF) (ok : Bool) (regs : List RBlk) (body : State → Crew → LRun → W32 → Eff) : Res :=
  runL s f (fun s c => [(ok, Trap.illegal), (regsOk s c regs, Trap.illegal)]) body

/-- A form that writes a fixed-latency result of n registers to vd, lane by lane. -/
def laneFixed (s : State) (f : LF) (ok : Bool) (regs : List RBlk) (n : Nat) (val : State → Crew → LRun → Nat → Nat) : Res :=
  laneForm s f ok regs (fun s c r act => lDone s (laneWrite c act n f.vd (val s c r)))

/-- A form that writes a long-latency result. -/
def laneLong (s : State) (f : LF) (ok : Bool) (regs : List RBlk) (n : Nat) (val : State → Crew → LRun → Nat → Nat) : Res :=
  laneForm s f ok regs (fun s c r act => longDone s c act (laneDest act n f.vd (val s c r)) [] false)

/-! ### Element-wise forms (R278) -/

/-- Type classes of R277. -/
def tI : List Nat := [0, 1, 8, 9]
def tIP : List Nat := [5, 6, 10, 11]
def tF : List Nat := [2, 7]
def tFP : List Nat := [3, 4]
def tAll : List Nat := tI ++ tIP ++ tF ++ tFP

/-- FTZ acts on the form and type (R109, R276). -/
def ftzOn (s : State) (c : Crew) (t : Nat) : Bool := (s.kernOf c).ftz && (t = 2 || t = 3 || t = 4)

/-- Negation and FTZ_IN of an operand element. -/
def prep (on neg : Bool) (k : EKind) (x : Nat) : Nat :=
  let y := if neg then k.negElem x else x
  match k with
  | .flt fm => ftz on fm y
  | .int _ _ => y

/-- FTZ_OUT of a result element. -/
def flushOut (on : Bool) (k : EKind) (x : Nat) : Nat :=
  match k with
  | .flt fm => ftz on fm x
  | .int _ _ => x

/-- The elements of one lane's result: `fz` whether FTZ belongs to the form, `m` whether NA and NB act. -/
def elemWise (s : State) (c : Crew) (r : LRun) (f : LF) (fz m useB useC : Bool) (op : EKind → Nat → Nat → Nat → Nat) (l : Nat) : Nat :=
  let t := f.ty
  let k := tyKind t
  let on := fz && ftzOn s c t
  let a := opV s c (tyRegs t) f.va l
  let b := if useB then opBT s c r f t l else 0
  let x := if useC then opV s c (tyRegs t) f.vc l else 0
  packElems k.w (tyCount t) (fun i =>
    flushOut on k (op k (prep on (m && naB f) k (elemAt k.w a i)) (prep on (m && nbB f) k (elemAt k.w b i)) (prep on false k (elemAt k.w x i))))

/-- Used registers of an element-wise form. -/
def ewRegs (f : LF) (useB useC : Bool) : List RBlk :=
  [rT f.ty f.vd, rT f.ty f.va] ++ (if useB then rB f (rT f.ty) else []) ++ (if useC then [rT f.ty f.vc] else [])

/-- An element-wise form with a fixed-latency or a long-latency result. -/
def ewForm (s : State) (f : LF) (types : List Nat) (fz m useB useC long : Bool) (op : LF → EKind → Nat → Nat → Nat → Nat) : Res :=
  let val := fun s c r l => elemWise s c r f fz m useB useC (op f) l
  let ok := types.contains f.ty && (!useB || bOk f)
  if long then laneLong s f ok (ewRegs f useB useC) (tyRegs f.ty) val else laneFixed s f ok (ewRegs f useB useC) (tyRegs f.ty) val

/-- The result of an exact expression: integers by R103, floats by ROUND (R278). -/
def exactResult (f : LF) (k : EKind) (i : Int) (x : Ex) : Nat :=
  match k with
  | .int sg w => intResult sg w f.sat i
  | .flt fm => round x fm (RMode.of f.rnd) f.sat

end Sys2Proof.Machine
end

