-- ==== Sys2Proof/Machine/LaneMem.lean ====
section
/-! DEFINITION. Lane loads, stores, sampler reads, fences and atomics (16 R304 to R314; 12 R229). -/

namespace Sys2Proof.Machine

/-! ### Memory fields (R229) -/

def mOrdk (f : LF) : Nat := bits f.sub 7 6
def mScope (f : LF) : Nat := bits f.sub 5 3
def mSize (f : LF) : Nat := bits f.sub 2 0
def mOfsk (f : LF) : Nat := bits f.low 27 26
def mMask (f : LF) : Nat := bits f.low 17 13

/-- The effective address of a lane (R53, R229). -/
def laneEa (s : State) (c : Crew) (r : LRun) (f : LF) (l : Nat) : Nat :=
  let off : Int := match mOfsk f with
    | 0 => soff (lrunS s.oracle r (bits f.low 25 20) l)
    | 1 => (opV s c 1 f.vb l : Nat)
    | 2 => sgn 32 (opV s c 1 f.vb l)
    | _ => sgn 64 (opV s c 2 f.vb l)
  ea (lrunB r (bits f.low 31 28)) off

/-- The register of a vector offset. -/
def ofsRegs (f : LF) : List RBlk :=
  match mOfsk f with
  | 0 => []
  | 3 => [rPair f.vb]
  | _ => [r1 f.vb]

/-- Defined values of ORDK, SCOPE and CPOL (R81, R83, R229). -/
def memFieldsOk (k : MemKind) (f : LF) : Bool := ordOk k (mOrdk f) && scopeOk (mOrdk f) (mScope f) && bits f.low 19 18 ≠ 3

/-- The ordering part of a lane access (R83, R229). -/
def mSync (f : LF) : Sync := syncOf (mOrdk f) (mScope f) (mMask f)

/-- A gang-space form needs a launch with gangs (R67). -/
def gangOk (s : State) (c : Crew) (sp : Space) : Bool := sp ≠ .gang || s.gangSize (s.lidOf c) ≠ 0

/-- Bytes and registers of SIZE and TYPE, and whether SIZE pairs with the type (R308). -/
def memBytes (f : LF) : Nat :=
  match mSize f with
  | 0 => 4 * tyRegs f.ty
  | 1 => 1
  | 2 => 2
  | 3 => 8
  | _ => 16
def memRegs (f : LF) : Nat :=
  match mSize f with
  | 3 => 2
  | 4 => 4
  | _ => tyRegs f.ty
def sizeOk (f : LF) : Bool :=
  (tyElem f.ty).isSome && decide (mSize f ≤ 4) && (!(mSize f = 1 || mSize f = 2) || tI.contains f.ty)

/-- The register block of a load or store. -/
def memBlk (f : LF) (reg : Nat) : RBlk := ⟨reg, memRegs f, ty64 f.ty⟩

/-! ### Every lane's checks (R304, R305) -/

/-- A lane form of a space while threads are displaced (R146, R305). -/
def displacedTrap (s : State) (c : Crew) (sp : Space) : Bool := sp ≠ .glb && s.displaced c

/-- The places of every lane's access, or the trap of the lowest failing lane with the mask of the failing lanes. -/
def laneLocs (s : State) (c : Crew) (act : W32) (sp : Space) (a : Acc) (n : Nat) (addr : Nat → Nat) : Except Trap (List (Nat × List Loc)) :=
  if displacedTrap s c sp && act ≠ 0 then .error (Trap.plain 7)
  else
    let one (l : Nat) : Locs := s.locate c sp a (addr l) n
    let res := (lanesOf act).map (fun l => (l, one l))
    let bad := res.filterMap (fun r => match r.2 with
      | .error f => some (r.1, f)
      | .ok _ => none)
    match bad with
    | (_, f) :: _ => .error (Trap.access a f (maskOf (fun l => bad.any (fun b => b.1 = l))))
    | [] => .ok (res.filterMap (fun r => match r.2 with
      | .ok ls => some (r.1, ls)
      | .error _ => none))

/-- Some lane touches an absent line (R305). -/
def anyAbsent (s : State) (ls : List (Nat × List Loc)) : Bool := ls.any (fun x => s.absent x.2)

/-- A lane's entry of a list. -/
def laneVal {α : Type} (d : α) (xs : List (Nat × α)) (l : Nat) : α :=
  match xs.find? (fun x => x.1 = l) with
  | some x => x.2
  | none => d

/-! ### Loads and stores (R307 to R310) -/

/-- The load sign-extends (R308). -/
def loadSigned (f : LF) : Bool := (mSize f = 1 || mSize f = 2) && (f.ty = 0 || f.ty = 8)

/-- What a load of n bytes leaves in the registers (R308). -/
def loadVal (f : LF) (x : Nat) : Nat :=
  if loadSigned f then wrap (32 * memRegs f) (sgn (8 * memBytes f) x) else x

/-- Every lane's load (R309): the state, and each lane's read events and bytes. -/
def loadLanes (s : State) (c : Crew) (r : LRun) (f : LF) (sp : Space) (addr : Nat → Nat) (ls : List (Nat × List Loc)) : State × List (Nat × List Nat × List Byte) :=
  ls.foldl (fun (p : State × List (Nat × List Nat × List Byte)) x =>
    let q := p.1.memLoad (s.lanePlace c r x.1) (mSync f) (p.1.bytesAt (s.ctxOf c) sp (addr x.1) x.2)
    (q.1, p.2 ++ [(x.1, q.2)])) (s, [])

def execVld (sp : Space) (f : LF) (s : State) : Res :=
  runL s f (fun s c => [(memFieldsOk .load f && sizeOk f, Trap.illegal), (regsOk s c ([memBlk f f.vd] ++ ofsRegs f), Trap.illegal),
      (gangOk s c sp, Trap.illegal)]) (fun s c r act =>
    match laneLocs s c act sp .load (memBytes f) (laneEa s c r f) with
    | .error t => .trap t
    | .ok ls =>
      if anyAbsent s ls then lWait s c
      else if c.tableFull .l then lStall s c
      else
        let q := loadLanes s c r f sp (laneEa s c r f) ls
        let s' := (q.1.acquireEffect c (mOrdk f = 1 && act ≠ 0) (mMask f)).countMisses c 8 (ls.flatMap (fun x => x.2))
        lDone s' (if act = 0 then c else c.addLoad .l (laneDest act (memRegs f) f.vd (fun l => loadVal f (leNat (laneVal ([], []) q.2 l).2))) []
          (ls.any (fun x => s.poisonedLocs x.2)) c.lPos (q.2.flatMap (fun x => lateOf x.2.1 (loadSigned f) (32 * f.vd + x.1) (memRegs f)))))

/-- A store; lanes write in ascending order, so the highest lane's bytes stand (R80, R309). -/
def execVst (sp : Space) (f : LF) (s : State) : Res :=
  runL s f (fun s c => [(memFieldsOk .store f && sizeOk f, Trap.illegal), (regsOk s c ([memBlk f f.vc] ++ ofsRegs f), Trap.illegal),
      (gangOk s c sp, Trap.illegal)]) (fun s c r act =>
    match laneLocs s c act sp .store (memBytes f) (laneEa s c r f) with
    | .error t => .trap t
    | .ok ls =>
      if anyAbsent s ls then lWait s c
      else
        lDone ((s.tagStores (s.tagOf c c.lPos) (ls.flatMap (fun x => x.2))).enterWrites (ls.flatMap (fun x =>
          writesAt (s.lanePlace c r x.1) (mSync f) (s.bytesAt (s.ctxOf c) sp (laneEa s c r f x.1) x.2)
            (leBytes (memBytes f) (opV s c (memRegs f) f.vc x.1))))) c)

/-- VSMP (R310): every aligned 4-byte word as the sampler cache may hold it. -/
def execVsmp (f : LF) (s : State) : Res :=
  runL s f (fun s c => [(mOrdk f = 0 && bits f.low 19 18 ≠ 3 && sizeOk f, Trap.illegal),
      (regsOk s c ([memBlk f f.vd] ++ ofsRegs f), Trap.illegal)]) (fun s c r act =>
    match laneLocs s c act .glb .sampler (memBytes f) (laneEa s c r f) with
    | .error t => .trap t
    | .ok ls =>
      let word (l : Nat) : Nat := leNat ((laneVal [] ls l).map (fun x => match x with
        | .mem pa => s.samplerByte (s.coreOf c) pa (l * 2 ^ 52 + pa / 4)
        | _ => 0))
      longDone (s.countMisses c 9 (ls.flatMap (fun x => x.2))) c act (laneDest act (memRegs f) f.vd (fun l => loadVal f (word l))) [] (ls.any (fun x => s.poisonedLocs x.2)))

/-- VFENCE (R311) orders the accesses of each thread of Active (R84 to R86); with a non-empty Active, an acquiring kind with SMP in its mask
invalidates the sampler cache. -/
def execVfence (f : LF) (s : State) : Res :=
  runL s f (fun _ _ => [(decide (mScope f < 6), Trap.illegal)]) (fun s c r act =>
    lDone ((s.fence c act .l r.since (mOrdk f) (mScope f) (mMask f) (bitAt f.low 12)).acquireEffect c (mOrdk f ≠ 1 && act ≠ 0) (mMask f)) c)

/-! ### Atomics (R312 to R314) -/

/-- The types an operation takes (R312). -/
def atomTypes (op : AtomOp) : List Nat :=
  match op with
  | .add => tI ++ [2, 4]
  | .xchg => tI ++ [2]
  | .inc | .dec => [1, 9]
  | _ => tI

/-- F(cur, x) of R313. -/
def atomF (op : AtomOp) (w : Nat) (signed : Bool) (cur x : Nat) : Nat :=
  let lt : Bool := if signed then sgn w cur < sgn w x else cur < x
  match op with
  | .add => (cur + x) % 2 ^ w
  | .sub => (cur + 2 ^ w - x) % 2 ^ w
  | .and => cur &&& x
  | .or => cur ||| x
  | .xor => cur ^^^ x
  | .min => if lt then cur else x
  | .max => if lt then x else cur
  | .xchg => x
  | .inc => if x ≤ cur then 0 else cur + 1
  | .dec => if cur = 0 || x < cur then x else cur - 1

/-- A merged read-modify-write: the new word and each lane's return, from the operands in ascending lane order (R313). -/
def mergeInt (fn : Nat → Nat → Nat) (old : Nat) (xs : List Nat) : Nat × List Nat :=
  xs.foldl (fun (p : Nat × List Nat) x => (fn p.1 x, p.2 ++ [p.1])) (old, [])

/-- The same for a floating-point add: sums in FP32, one rounding onto the old value. -/
def mergeFlt (fm : Fmt) (old : Nat) (xs : List Nat) : Nat × List Nat :=
  let upto (k : Nat) : Nat :=
    if k = 0 then old
    else round ((fm.dec old).add .rne (Fmt.f32.dec (sumAsc ((xs.take k).map fm.dec) .f32 .rne false))) fm .rne false
  (upto xs.length, (List.range xs.length).map upto)

/-- Bytes of one read-modify-write of ATOM: a word, or a half of one for a pair of BF16 (R94). -/
def atomWidth (op : AtomOp) (ty : Nat) : Nat := if op = .add && ty = 4 then 2 else 4 * tyRegs ty

/-- ATOM on one word, or on half of one. -/
def atomMerge (op : AtomOp) (ty old : Nat) (xs : List Nat) : Nat × List Nat :=
  if op = .add && ty = 2 then mergeFlt .f32 old xs
  else if op = .add && ty = 4 then mergeFlt .bf16 old xs
  else mergeInt (atomF op (32 * tyRegs ty) (ty = 0 || ty = 8)) old xs

/-- Every word's merged accesses (R94): the state, and what each lane gets, part by part of the word. `merge` sees the part's number, its old value and
the word's lanes. -/
def atomAll (s : State) (c : Crew) (r : LRun) (y : Sync) (width : Nat) (ls : List (Nat × List Loc)) (bytes : Nat → List Loc → List ByteAt)
    (merge : Nat → Nat → List Nat → Nat × List Nat) : State × List (Nat × Nat) :=
  ((ls.map (fun x => x.2)).eraseDups).foldl (fun (p : State × List (Nat × Nat)) w =>
    let lanes := (ls.filter (fun x => x.2 = w)).map (fun x => x.1)
    (List.range (w.length / width)).foldl (fun (p : State × List (Nat × Nat)) i =>
      let q := p.1.memUpdate (s.place c (maskOf (fun l => lanes.contains l)) .l r.since) y (((bytes (lanes.headD 0) w).drop (width * i)).take width)
        (fun old => leBytes width (merge i (leNat old) lanes).1)
      (q.1, p.2 ++ lanes.zip ((merge i (leNat q.2) lanes).2.map (fun v => v * 2 ^ (8 * width * i))))) p) (s, [])

/-- ATOM and CAS. -/
def laneAtomic (s : State) (f : LF) (sp : Space) (types : List Nat) (regs : List RBlk) (noret : Bool) (width : Nat)
    (merge : State → Crew → Nat → Nat → List Nat → Nat × List Nat) : Res :=
  runL s f (fun s c => [(memFieldsOk .atomic f && mSize f = 0 && types.contains f.ty, Trap.illegal), (regsOk s c (regs ++ ofsRegs f), Trap.illegal),
      (gangOk s c sp, Trap.illegal)]) (fun s c r act =>
    let n := 4 * tyRegs f.ty
    match laneLocs s c act sp .atomic n (laneEa s c r f) with
    | .error t => .trap t
    | .ok ls =>
      if anyAbsent s ls then lWait s c
      else if !noret && c.tableFull .l then lStall s c
      else
        let s1 := (s.tagStores (s.tagOf c c.lPos) (ls.flatMap (fun x => x.2))).acquireEffect c
          ((mOrdk f = 1 || mOrdk f = 3) && act ≠ 0) (mMask f)
        let res := atomAll s1 c r (mSync f) width ls (fun l w => s.bytesAt (s.ctxOf c) sp (laneEa s c r f l) w) (merge s c)
        let poison := ls.any (fun x => s.poisonedLocs x.2)
        if noret then lDone res.1 c
        else longDone res.1 c act (laneDest act (tyRegs f.ty) f.vd (fun l => (res.2.filter (fun x => x.1 = l)).foldl (fun n x => n + x.2) 0)) [] poison)

def execAtom (v : AtomVar) (f : LF) (s : State) : Res :=
  laneAtomic s f v.space (atomTypes v.op) ([rT f.ty f.vc] ++ (if v.noret then [] else [rT f.ty f.vd])) v.noret (atomWidth v.op f.ty)
    (fun s c i old lanes => atomMerge v.op f.ty old (lanes.map (fun l => elemAt (8 * atomWidth v.op f.ty) (opV s c (tyRegs f.ty) f.vc l) i)))

/-- CAS: compare values in va, new values in vc (R314). -/
def execCas (sp : Space) (f : LF) (s : State) : Res :=
  laneAtomic s f sp (tI ++ [2]) [rT f.ty f.vd, rT f.ty f.va, rT f.ty f.vc] false (4 * tyRegs f.ty) (fun s c _ old lanes =>
    mergeInt (fun cur l => if cur = opV s c (tyRegs f.ty) f.va l then opV s c (tyRegs f.ty) f.vc l else cur) old lanes)

end Sys2Proof.Machine
end

