-- ==== Sys2Proof/Machine/Copy.lean ====
section
/-! DEFINITION. Copies and copy batches (16 R315 to R317, 03 R64 to R69), and the copy engine's events. -/

namespace Sys2Proof.Machine

/-! ### Tile stamps at copies (24 R418) -/

/-- The launch keeps stamps: its queue's bit of TRC_SQMASK with TRC_RCTL.EN; a node's batch is a launch of its QID (R418, R424, R374). -/
def State.traced (s : State) (lid : Nat) : Bool :=
  bitAt (s.r32 (trcBlk + 0x10)) 31 && (s.launch? lid).elim false (fun l => bitAt (s.r64 (trcBlk + 0x08)) l.queue)

/-- A crew's empty stamp. -/
def State.newStamp (s : State) (cid : Nat) (c : Crew) (kind : Nat) : Stamp :=
  { cid := cid, lid := s.lidOf c, wgi := s.wgiOf c, slotNo := s.slotOf c, gen := s.genOf c, kind := kind, pt := 0, slot := 0, cinIssue := 0,
    cinLand := 0, opReady := 0, grant := 0, passDone := 0, coutIssue := 0, coutLand := 0, ins := [], outs := [], done := decide (kind = 1), closed := false,
    cmd := 0 }

/-- A copy issues: it is a copy-out of the crew's last MMA and a copy-in of its next. -/
def State.noteCopy (s : State) (cid : Nat) (c : Crew) (op : Nat) : State :=
  if !s.traced (s.lidOf c) then s
  else
    let s := if s.stamps.any (fun t => t.cid = cid && !t.closed) then s
      else { s with stamps := s.stamps ++ [{ s.newStamp cid c 1 with cinIssue := s.tnow }] }
    { s with stamps := s.stamps.map (fun (t : Stamp) =>
        if t.cid = cid && !t.closed then
          { t with outs := t.outs ++ [op], ins := if t.kind = 1 then t.ins ++ [op] else t.ins,
                   coutIssue := if t.outs.isEmpty then s.tnow else t.coutIssue }
        else t) }

/-! ### CPY (R315, R316, R230) -/

/-- DSP and SSP codes. -/
def spaceOf (code : Nat) : Space :=
  match code with
  | 0 => .glb
  | 1 => .scr
  | _ => .gang

/-- A lane's offset: a 64-bit pair with O64, else 32 bits sign-extended. -/
def cpyOff (s : State) (c : Crew) (f : LF) (reg l : Nat) : Int :=
  if bitAt f.sub 0 then sgn 64 (opV s c 2 reg l) else sgn 32 (opV s c 1 reg l)

def cpyDst (s : State) (c : Crew) (r : LRun) (f : LF) (l : Nat) : Nat := ea (lrunB r (bits f.low 31 28)) (cpyOff s c f f.va l)
def cpySrc (s : State) (c : Crew) (r : LRun) (f : LF) (l : Nat) : Nat := ea (lrunB r (bits f.low 27 24)) (cpyOff s c f f.vb l)

/-- Copies posted at issue, before they leave the head. Each lane's accesses are placed here, and have no end until a CWAIT gives them one (R96). -/
def State.postCopy (s : State) (c : Crew) (r : LRun) (f : LF) (act : W32) (dst src : Nat → Nat) (len : Option Nat) (lines : List (Nat × Nat)) : State :=
  let id := s.nextHandle
  let lanes := (lanesOf act).filterMap (fun l => (tget? c.threads l).map (fun t =>
    ({ lane := l, thread := t, src := src l, dst := dst l, place := { s.lanePlace c r l with fin := none, op := some (id, l) }, landed := false,
       held := false } : CopyLane)))
  let op : CopyOp := { id := id, cid := s.focus, g := c.g, lid := s.lidOf c, ctx := s.ctxOf c, dsp := spaceOf (bits f.low 23 22),
                       ssp := spaceOf (bits f.low 21 20), lanes := lanes, len := len, bin := bits f.low 17 14,
                       tag := if bitAt f.low 8 then some (bits f.low 12 9) else none, guard := guardField f, left := false, lines := lines,
                       pos := c.lPos, recs := none, who := s.whoOf c }
  let s := lines.foldl State.lineUp { s with copies := s.copies ++ [op], nextHandle := id + 1 }
  let s := { s with batches := s.batches ++ lanes.map (fun (k : CopyLane) => ({ thread := k.thread, batch := none, op := id, lane := k.lane, coll := false } : BatchItem)) }
  (s.noteCopy s.focus c id).resolve s.focus

def execCpy (f : LF) (s : State) : Res :=
  let dspC := bits f.low 23 22
  let sspC := bits f.low 21 20
  let lbin := bitAt f.low 13
  let blk (reg : Nat) : RBlk := if bitAt f.sub 0 then rPair reg else r1 reg
  runL s f (fun s c => [(dspC ≠ 3 && sspC ≠ 3 && !(lbin && dspC ≠ 0), Trap.illegal), (regsOk s c [blk f.va, blk f.vb], Trap.illegal),
      (gangOk s c (spaceOf dspC) && gangOk s c (spaceOf sspC), Trap.illegal)]) (fun s c r act =>
    if act = 0 then lDone s c
    else if displacedTrap s c (spaceOf dspC) || displacedTrap s c (spaceOf sspC) then .trap (Trap.plain 7)
    else
      let len : Option Nat := if lbin then none else some ((lrunS s.oracle r (bits f.low 19 14)).toNat % 2 ^ 32)
      let n := len.getD 0
      let one (l : Nat) : Option (Acc × AccFault) :=
        if lbin then none
        else match s.locate c (spaceOf sspC) .copyRead (cpySrc s c r f l) n, s.locate c (spaceOf dspC) .copyWrite (cpyDst s c r f l) n with
          | .ok _, .ok _ => none
          | .error x, _ => some (.copyRead, x)
          | _, .error x => some (.copyWrite, x)
      let bad := (lanesOf act).filterMap (fun l => (one l).map (fun x => (l, x)))
      match bad with
      | (_, x) :: _ => .trap (Trap.access x.1 x.2 (maskOf (fun l => bad.any (fun b => b.1 = l))))
      | [] =>
        let lines := ((lanesOf act).flatMap (fun l => match s.locate c (spaceOf dspC) .copyWrite (cpyDst s c r f l) n with
          | .ok ls => locLines ls
          | .error _ => [])).eraseDups
        let room := (s.copies.filter (fun (k : CopyOp) => (s.wg? k.g).elim false (fun w => w.core = s.coreOf c) && k.recs.isNone)).foldl
          (fun n (k : CopyOp) => n + (k.lanes.filter (fun x => !x.landed)).length) 0
        if decide (512 < room + (lanesOf act).length) then lStall s c
        else if lines.any (fun l => decide (15 ≤ s.lineCount l)) then lStall s c
        else .done (s.postCopy c r f act (cpyDst s c r f) (cpySrc s c r f) len lines))

/-! ### Batches (R69, R317) -/

/-- The threads of a mask's lanes. -/
def Crew.threadsIn (c : Crew) (act : W32) : List Thread := (c.threads.filter (fun t => act.getLsbD t.1)).map (fun t => t.2)

def execCseal (f : LF) (s : State) : Res :=
  runL s f (fun _ _ => []) (fun s c _ act =>
    lDone { s with batches := s.batches.map (fun (b : BatchItem) =>
      if b.batch.isNone && (c.threadsIn act).contains b.thread then { b with batch := some (f.sub % 16) } else b) } c)

/-- A member of a batch has landed, or its contribution is complete (R69, R204). -/
def State.itemLanded (s : State) (b : BatchItem) : Bool :=
  if b.coll then !s.collOut b.op
  else !(s.copies.any (fun c => c.id = b.op && c.lanes.any (fun k => k.lane = b.lane && !k.landed)))

/-- CWAIT: when every copy of the batch has landed, their accesses end here in the thread's order (R69, R96, R317). -/
def execCwait (f : LF) (s : State) : Res :=
  runL s f (fun _ _ => []) (fun s c _ act =>
    let mine (b : BatchItem) : Bool := b.batch = some (f.sub % 16) && (c.threadsIn act).contains b.thread
    if (s.batches.filter mine).all s.itemLanded then
      let s1 := s.finish .l (fun e => (s.batches.filter mine).any (fun b => e.op = some (b.op, b.lane)))
      lDone { s1 with batches := s1.batches.filter (fun b => !mine b) } c
    else lWait s c)

/-! ### Events of the copy engine -/

/-- A crew's copies stand at the head of its sub-queue and could leave. -/
def State.copyReady (s : State) (op : CopyOp) : Bool :=
  !op.left && s.copyLive op && op.guard.elim true (fun g => s.guard op.cid g = .yes)
    && ((s.copies.find? (fun c => c.cid = op.cid && !c.left)).elim false (fun c => c.id = op.id))

/-- The copies at the head of a crew's copy sub-queue leave it: their guard has resolved TRUE or they have none (R316), and no older ones of the
core's crews could leave (R324). -/
def execCopyLeaveHead (cid : Nat) (s : State) : Res :=
  match s.copies.find? (fun c => c.cid = cid && !c.left) with
  | none => fin s
  | some op =>
    let coreOf (c : CopyOp) : Option Nat := (s.wg? c.g).map (fun w => w.core)
    if !s.copyLive op || s.copies.any (fun c => decide (c.id < op.id) && coreOf c = coreOf op && s.copyReady c) then fin s
    else match op.guard with
    | none => fin ((s.leaveCopy op []).resolve cid)
    | some g =>
      match s.guard cid g with
      | .yes => fin ((s.leaveCopy op (s.trig cid g)).resolve cid)
      | _ => fin s

/-- The last byte of one lane's copy is written (R316, R64, R36). -/
def execCopyLand (id lane : Nat) (s : State) : Res :=
  match s.copies.find? (fun c => c.id = id && c.left && c.recs.isNone) with
  | none => fin s
  | some op =>
    match op.lanes.find? (fun k => k.lane = lane && !k.landed && !k.held) with
    | none => fin s
    | some k => if op.dsp = .glb || s.copyLive op then fin (s.landCopy op k) else fin s

end Sys2Proof.Machine
end

