-- ==== Sys2Proof/Machine/Matrix.lean ====
section
/-! DEFINITION. The quad matrix engine: loads, passes, folds, scales (05 R111 to R116; 06 R119 to R136; 17 R331 to R335, R340). -/

namespace Sys2Proof.Machine

/-! ### Formats (R112, R123) -/

def mldbElem (f : MldbFmt) (x : Nat) : Elem :=
  match f with
  | .i4 => intElem 4 true x
  | .n4 => intElem 4 false x
  | .i8 => intElem 8 true x
  | .n8 => intElem 8 false x
  | .e2m1 => Fmt.e2m1.elem x
  | .e4m3 => Fmt.e4m3.elem x
  | .e5m2 => Fmt.e5m2.elem x
  | .bf16 => Fmt.bf16.elem x
  | .fp16 => Fmt.f16.elem x

/-- The B window of a format; none for integers, which are exact. -/
def mldbWin (f : MldbFmt) : Option Nat :=
  match f with
  | .i4 | .n4 | .i8 | .n8 => none
  | .e2m1 => some 5
  | .e4m3 | .e5m2 => some 12
  | .bf16 | .fp16 => some 16

/-- The element format of a pass. -/
def mmaBase (f : MmaFmt) : MldbFmt :=
  match f with
  | .i4 => .i4
  | .n4 => .n4
  | .i8 => .i8
  | .n8 => .n8
  | .e2m1 => .e2m1
  | .e4m3 | .e4m3Fine => .e4m3
  | .e5m2 | .e5m2Fine => .e5m2
  | .bf16 => .bf16
  | .fp16 => .fp16

/-- The A window of a pass, which is also its length in cycles (R112, R124). -/
def mmaWin (f : MmaFmt) : Nat :=
  match f with
  | .i4 | .n4 => 4
  | .i8 | .n8 | .e4m3 | .e5m2 => 8
  | .e2m1 => 5
  | .e4m3Fine | .e5m2Fine => 12
  | .bf16 | .fp16 => 16

/-- The window ALIGN is given for A; none for integers. -/
def mmaAlign (f : MmaFmt) : Option Nat := (mldbWin (mmaBase f)).map (fun _ => mmaWin f)

/-- Formats that pair (R123). -/
def pairClass (f : MldbFmt) : Nat :=
  match f with
  | .i4 | .n4 => 0
  | .i8 | .n8 => 1
  | .e2m1 => 2
  | .e4m3 | .e5m2 => 3
  | .bf16 | .fp16 => 4

/-- Stored values of a K-block for a DENS code, and K-blocks (R126). -/
def densN (d : Nat) : Nat := if d = 0 then 32 else if d = 1 then 16 else 8

/-! ### Shared checks -/

def mSlot (f : LF) : Nat := bits f.low 21 13
def mDens (f : LF) : Nat := bits f.low 12 11
def mAcc (f : LF) : Nat := bits f.sub 7 3
def mPt (f : LF) : Nat := bits f.sub 2 0

/-- Metadata entries of a workgroup (R120). -/
def Kernel.metas (k : Kernel) : Nat := ceilDiv k.sslots 4

/-- The workgroup's matrix storage. -/
def State.mx (s : State) (g : Nat) : Matrix := (s.wg? g).elim Matrix.none (fun w => w.mx)
where Matrix.none : Matrix := { slots := [], dens := [], metas := [], acc := [], cnt := [], ptP := [], ptEA := [], ptEB := [], ptRbad := [], ptCbad := [] }

def State.modMx (s : State) (g : Nat) (f : Matrix → Matrix) : State := s.modWg g (fun w => { w with mx := f w.mx })

/-- The declared density of a slot (R331). -/
def State.declared (s : State) (g slot : Nat) : Nat := tget 32 (s.mx g).dens slot

/-- A command of the matrix engine issues: nothing for an empty Active, a stall for a full table (R128, R325, R343). -/
def mxPost (s : State) (c : Crew) (r : LRun) (act : W32) (op : CmdOp) (dests : Tbl W32) (guard : Option Nat) (pre : State → State) : Eff :=
  if s.engineFull .matrix (engineUnit .matrix (s.coreOf c)) || c.tableFull .l then lStall s c
  else .done ((pre s).post c r .matrix op act true dests guard)

/-- Faults of ranges read at issue: the lowest faulting address (R331). -/
def State.rangeFault (s : State) (ctx : Nat) (ranges : List (Nat × Nat)) : Option AccFault :=
  lowestFault (ranges.filterMap (fun r => match s.access ctx .engine r.1 r.2 with
    | .error f => some f
    | .ok _ => none))

/-! ### MLDB and SMCP (R331, R332) -/

def execMldb (k : MldbFmt) (f : LF) (s : State) : Res :=
  let o := bits f.low 27 22
  runL s f (fun s c => [(decide (mDens f ≤ 2), Trap.illegal), (decide (o ≤ 62), Trap.illegal),
      (decide (mSlot f < (s.kernOf c).sslots), Trap.illegal)]) (fun s c r act =>
    if act = 0 then lDone s c
    else
      let b := lrunB r (bits f.low 31 28)
      let rows := (List.range 32).map (fun (i : Nat) => ea b (soff (lrunS s.oracle r o) + (i : Int) * soff (lrunS s.oracle r (o + 1))))
      let rs := CmdOp.ranges (.mldb k 0 0 rows none)
      match s.rangeFault (s.ctxOf c) rs with
      | some x => .trap (Trap.access .engine x act)
      | none =>
        mxPost s c r act (.mldb k (mSlot f) (densN (mDens f)) rows none) [] (guardField f)
          (fun s => s.modMx c.g (fun m => { m with dens := tset m.dens (mSlot f) (densN (mDens f)) })))

def execSmcp (f : LF) (s : State) : Res :=
  let o := bits f.low 27 22
  let e := bits f.sub 5 0
  runL s f (fun s c => [(mDens f = 1 || mDens f = 2, Trap.illegal), (decide (mSlot f < (s.kernOf c).sslots), Trap.illegal),
      (decide (e + mDens f ≤ (s.kernOf c).metas), Trap.illegal)]) (fun s c r act =>
    if act = 0 then lDone s c
    else
      let addr := ea (lrunB r (bits f.low 31 28)) (soff (lrunS s.oracle r o))
      let op : CmdOp := .smcp (mSlot f) e (mDens f) addr
      match s.rangeFault (s.ctxOf c) op.ranges with
      | some x => .trap (Trap.access .engine x act)
      | none => mxPost s c r act op [] (guardField f) (fun s => s))

/-! ### MMA (R333) -/

/-- Times of a pass for the crew's stamps: the copies since its last MMA are copy-ins of this one (R418). -/
def State.noteMma (s : State) (cid : Nat) (c : Crew) (pt slot cmd : Nat) : State :=
  if !s.traced (s.lidOf c) then s
  else
    let base := { s.newStamp cid c 0 with pt := pt, slot := slot, cmd := cmd }
    let prev := s.stamps.find? (fun t => t.cid = cid && !t.closed)
    let new := match prev with
      | none => base
      | some p => { base with ins := p.outs, cinIssue := if p.kind = 1 then p.cinIssue else p.coutIssue,
                              cinLand := if p.kind = 1 then p.cinLand else p.coutLand }
    let old := (s.stamps.filter (fun t => !(t.cid = cid && !t.closed && t.kind = 1))).map
      (fun (t : Stamp) => if t.cid = cid then { t with closed := true } else t)
    ({ s with stamps := old ++ [new] }).flushStamps

/-- The A operand: K-blocks of the rows of Active, aligned (R111). -/
def alignA (s : State) (c : Crew) (fmt : MmaFmt) (va n : Nat) (act : W32) : Tbl Int × Tbl Int × Tbl Bool :=
  let w := mldbW (mmaBase fmt)
  let per := 32 / w
  let elem (l k : Nat) : Elem := mldbElem (mmaBase fmt) (elemAt w (opV s c 1 (va + k / per) l) (k % per))
  let blocks := (lanesOf act).flatMap (fun l => (List.range (32 / n)).map (fun j =>
    (l, j, alignBlock ((List.range 32).map (fun k => elem l (32 * j + k))) (mmaAlign fmt))))
  (tsets [] (blocks.flatMap (fun b => ((List.range 32).zip b.2.2.1).map (fun e => (128 * b.1 + 32 * b.2.1 + e.1, e.2)))),
   tsets [] (blocks.map (fun b => (32 * b.2.1 + b.1, b.2.2.2.1))), tsets [] (blocks.map (fun b => (32 * b.2.1 + b.1, b.2.2.2.2))))

def execMma (k : MmaFmt) (f : LF) (s : State) : Res :=
  runL s f (fun s c =>
    let n := s.declared c.g (mSlot f)
    [(decide (mSlot f < (s.kernOf c).sslots), Trap.illegal), (decide (mPt f + 32 / n - 1 < (s.kernOf c).ptiles), Trap.illegal),
     (decide (f.va + mldbW (mmaBase k) * (32 / n) ≤ (s.kernOf c).vregs), Trap.illegal)]) (fun s c r act =>
    if act = 0 then lDone s c
    else
      let n := s.declared c.g (mSlot f)
      let a := alignA s c k f.va n act
      mxPost s c r act (.mma k (mPt f) (mSlot f) n a.1 a.2.1 a.2.2 none) [] (guardField f)
        (fun s => s.noteMma s.focus c (mPt f) (mSlot f) s.nextHandle))

/-! ### MSCA, MACZ, MACRD, MACWR (R334, R335) -/

/-- A scale descriptor's 32 bytes (R131), and whether its layout is valid (R132). -/
def parseScale (addr : Nat) (bs : List Byte) : ScaleDesc × Bool :=
  let at_ (i n : Nat) : Nat := leNat ((bs.drop i).take n)
  let d : ScaleDesc := { addr := addr, sbase := at_ 0 9, tid := at_ 10 2, extent := at_ 12 4, ld := at_ 16 4, nblk := at_ 20 4, fresh := bitAt (at_ 24 1) 0 }
  (d, d.sbase % 512 = 0 && d.extent % 512 = 0 && decide (512 * ceilDiv d.nblk 128 ≤ d.extent) && at_ 9 1 = 0 && at_ 24 1 / 2 = 0 && at_ 25 7 = 0)

def execMsca (f : LF) (s : State) : Res :=
  let k := bits f.low 23 18
  runL s f (fun s c => [(decide (k ≤ 62), Trap.illegal), (decide (mAcc f < (s.kernOf c).acct) && decide (mPt f < (s.kernOf c).ptiles), Trap.illegal)])
    (fun s c r act =>
      if act = 0 then lDone s c
      else
        let kb := (lrunS s.oracle r k).toNat
        let rc := (lrunS s.oracle r (k + 1)).toNat
        let da := (lrunB r (bits f.low 31 28)).toNat
        let db := (lrunB r (bits f.low 27 24)).toNat
        let ctx := s.ctxOf c
        let bad := [da, db].find? (fun a => a % 32 ≠ 0)
        match bad with
        | some a => .trap (Trap.align .engine a act)
        | none =>
          match s.access ctx .engine da 32, s.access ctx .engine db 32 with
          | .error x, _ => .trap (Trap.access .engine x act)
          | _, .error x => .trap (Trap.access .engine x act)
          | .ok qa, .ok qb =>
            let rd := s.readRanges (s.place c act .l r.since) ctx true [(da, 32), (db, 32)]
            let desc (i : Nat) : List Byte := (rd.2.getD i []).flatMap rd.1.returned
            let pa := parseScale da (desc 0)
            let pb := parseScale db (desc 1)
            let na := blocksA pa.1 kb (rc % 2 ^ 32) act
            let nb := blocksB pb.1 kb (rc / 2 ^ 32)
            let lay (p : ScaleDesc × Bool) (ns : List Nat) : Bool := p.2 && ns.all (fun n => decide (n < p.1.nblk))
            let trap (d : Nat) : Eff := .trap ⟨5, 0, act, 0, [(64, 10, d)]⟩
            if s.touchesPoison (qa ++ qb) then .trap (poisonTrap (s.coreOf c))
            else if !lay pa na then trap da
            else if !lay pb nb then trap db
            else
              match s.rangeFault ctx ((unitsOf na).map (fun u => (unitAddr pa.1 u, 512)) ++ (unitsOf nb).map (fun u => (unitAddr pb.1 u, 512))) with
              | some x => .trap (Trap.access .engine x act)
              | none => mxPost s c r act (.msca (mAcc f) (mPt f) kb (rc % 2 ^ 32) (rc / 2 ^ 32) pa.1 pb.1) [] (guardField f) (fun _ => rd.1))

/-- Used registers and tile number of an accumulator form. -/
def accForm (f : LF) (s : State) (regs : List RBlk) (op : State → Crew → W32 → CmdOp) (dests : W32 → Tbl W32) : Res :=
  runL s f (fun s c => [(regsOk s c regs, Trap.illegal), (decide (mAcc f < (s.kernOf c).acct), Trap.illegal)]) (fun s c r act =>
    if act = 0 then lDone s c else mxPost s c r act (op s c act) (dests act) none (fun s => s))

def execMacz (f : LF) (s : State) : Res := accForm f s [] (fun _ _ _ => .macz (mAcc f)) (fun _ => [])

def execMacrd (k : MacrdVar) (f : LF) (s : State) : Res :=
  match k with
  | .f32 => accForm f s [⟨f.vd, 32, false⟩] (fun _ _ _ => .macrdF (mAcc f) (bits f.sub 2 1) f.vd) (fun act => destBlock f.vd 32 act (fun _ _ => 0))
  | .cnt => accForm f s [r1 f.vd] (fun _ _ _ => .macrdC (mAcc f) f.vd) (fun act => destBlock f.vd 1 act (fun _ _ => 0))

def execMacwr (f : LF) (s : State) : Res :=
  accForm f s [⟨f.va, 32, false⟩] (fun s c act => .macwr (mAcc f) (bits f.sub 2 1)
    (tsets [] ((lanesOf act).flatMap (fun l => (List.range 32).map (fun j => (32 * l + j, c.vRd s.oracle (f.va + j) l)))))) (fun _ => [])

/-! ### Arbitration (R129) -/

/-- AGE_LIMIT of a quad (R136). -/
def State.ageLimit (s : State) (q : Nat) : Nat := max 1 (s.r32 (mxeBlk q + 0x18) % 65536)

/-- Cycles an entry has waited since it became eligible: at the head, its guard decided, two cycles after its issue (R124, R129). The count goes on
while its workgroup is saved (R134; DESIGN CHOICE, notes/assumptions/94). -/
def State.waited (s : State) (k : Cmd) : Nat := k.since.elim 0 (fun t => s.cycle - max t (k.posted + 2))

/-- Command a comes before command b in the order of R129. -/
def State.served (s : State) (age : Nat) (a b : Cmd) : Bool :=
  let old (x y : Cmd) : Bool := decide (x.posted < y.posted) || (x.posted = y.posted && decide (x.id < y.id))
  let cls (k : Cmd) : Bool := (s.launch? k.lid).elim false (fun l => l.record.classD)
  let dl (k : Cmd) : Nat := ((s.launch? k.lid).bind (fun l => l.deadline)).getD (2 ^ 64)
  let aged (k : Cmd) : Bool := decide (age ≤ s.waited k)
  if a.rerun ≠ b.rerun then a.rerun
  else if aged a ≠ aged b then aged a
  else if aged a then old a b
  else if cls a ≠ cls b then cls a
  else if cls a && dl a ≠ dl b then decide (dl a < dl b)
  else old a b

/-- The command an arbiter grants. -/
def State.arbiter (s : State) (age : Nat) (ks : List Cmd) : Option Cmd :=
  match ks with
  | [] => none
  | k :: rest => some (rest.foldl (fun a b => if s.served age b a then b else a) k)

/-- The workgroup of the command is resident: an evicted one's ungranted entries are saved with it (R327); a granted one completes while its
workgroup waits to be evicted, with its rerun (R134). -/
def State.cmdLive (s : State) (k : Cmd) : Bool :=
  (s.wg? k.g).elim false (fun w => w.phase = .resident || (w.phase = .stopping && (k.stage ≠ 0 || k.rerun)))

/-- Ungranted heads of an engine's unit that no guard holds, and passes to be rerun. -/
def State.eligible (s : State) (e : Engine) (u : Nat) : List Cmd :=
  s.cmds.filter (fun k => k.engine = e && k.unit = u && k.stage = 0 && k.guard.isNone && !k.held && (s.isHead k || k.rerun) && s.cmdLive k
    && decide (k.posted + 2 ≤ s.cycle))

/-- The command is the next of its kind for its unit to serve (R324, R129). -/
def State.nextFor (s : State) (k : Cmd) (age : Nat) (kind : CmdOp → Bool) : Bool :=
  (s.arbiter age ((s.eligible k.engine k.unit).filter (fun x => kind x.op))).elim false (fun x => x.id = k.id)

/-- Entries that have become eligible show it in their stamps (R419). -/
def State.markReady (s : State) : State :=
  { s with stamps := s.stamps.map (fun (t : Stamp) =>
      if t.kind = 0 && t.opReady = 0 && s.cmds.any (fun k => k.id = t.cmd && k.guard.isNone && s.isHead k && decide (k.posted + 2 ≤ s.cycle)) then
        { t with opReady := s.tnow }
      else t) }

/-- Cycles until an entry at the head of its sub-queue whose guard is decided becomes eligible, for the entries that keep stamps (R124, R419). -/
def State.readyIn (s : State) : List Nat :=
  (s.cmds.filter (fun k => s.stamps.any (fun t => t.kind = 0 && t.opReady = 0 && t.cmd = k.id) && k.guard.isNone && s.isHead k && decide (s.cycle < k.posted + 2))).map
    (fun k => k.posted + 2 - s.cycle)

/-! ### Machine checks of engines (R384) -/

/-- An engine read has returned poisoned data: the command has no effect and its pending write returns poison (R384). -/
def State.poisonCmd (s : State) (k : Cmd) : State :=
  let s := s.modCrew k.cid (fun c => { c with pend := c.pend.map (fun (p : Pending) => if some p.id = k.pid then { p with poison := true } else p) })
  s.dropCmd k

/-- The physical pieces of ranges, with the first fault. -/
def State.rangePieces (s : State) (ctx : Nat) (rs : List (Nat × Nat)) : List (Nat × Nat) :=
  rs.flatMap (fun r => match s.access ctx .engine r.1 r.2 with
    | .ok ps => ps
    | .error _ => [])

/-- A command is held on a fault met after issue (R68, R340). -/
def State.holdCmd (s : State) (k : Cmd) (f : AccFault) : State :=
  (s.setCmd { k with held := true }).issuedFault k.ctx k.cid k.id k.who k.pos k.act.toNat .engine f

/-! ### Events of loads (R331, R332) -/

/-- The slot that MLDB builds from its rows (R331, R125). -/
def buildSlot (fmt : MldbFmt) (n : Nat) (data : List Byte) : Slot :=
  let w := mldbW fmt
  let row (k : Nat) : Nat := leNat ((data.drop (16 * w * k)).take (16 * w))
  let rows := (List.range 32).map row
  let elem (k c : Nat) : Elem := mldbElem fmt (elemAt w (rows.getD k 0) c)
  let zero : Elem := { s := false, m := 0, e := 0, bad := false }
  let blocks := (List.range (32 / n)).flatMap (fun j => (List.range 128).map (fun c =>
    (j, c, alignBlock ((List.range 32).map (fun i => if i < n then elem (j * n + i) c else zero)) (mldbWin fmt))))
  let vals := blocks.flatMap (fun b => ((List.range n).zip b.2.2.1).map (fun e => (128 * (b.1 * n + e.1) + b.2.1, e.2)))
  let tbl : Tbl Int := tsets [] vals
  { tag := fmt, dens := n, vals := tbl, eb := tsets [] (blocks.map (fun b => (128 * b.1 + b.2.1, b.2.2.2.1))),
    bad := tsets [] (blocks.map (fun b => (128 * b.1 + b.2.1, b.2.2.2.2))),
    ck := (List.range 32).map (fun k => (k, (List.range 128).foldl (fun (a : Int) c => a + tget 0 tbl (128 * k + c)) 0)) }

/-- MLDBs of a quad in a staging buffer. -/
def State.staging (s : State) (quad : Nat) : Nat :=
  (s.cmds.filter (fun k => k.unit = quad && k.engine = .matrix && (match k.op with
    | .mldb _ _ _ _ (some _) => true
    | _ => false))).length

/-- MLDB leaves the head, takes a staging buffer and reads its rows. -/
def execMldbLeaveHead (id : Nat) (s : State) : Res :=
  match s.cmds.find? (fun k => k.id = id) with
  | none => fin s
  | some k =>
    match k.op with
    | .mldb fmt sl n rows none =>
      let mldb (op : CmdOp) : Bool := match op with
        | .mldb _ _ _ _ none => true
        | _ => false
      if !(s.nextFor k (s.ageLimit k.unit) mldb && decide (s.staging k.unit < 4)) then fin s
      else match s.rangeFault k.ctx k.op.ranges with
        | some x => fin (s.holdCmd k x)
        | none =>
          if s.touchesPoison (s.rangePieces k.ctx k.op.ranges) then fin (s.poisonCmd k)
          else
            let (t, k) := s.readCmd k
            fin (t.setCmd { k with stage := 1, started := s.cycle, op := .mldb fmt sl n rows (some (buildSlot fmt n (t.cmdBytes k).flatten)) })
    | _ => fin s

/-- A pass of the crew issued before the command has not ended: its rerun would read its slot and the entries bound to it again, so what the slot and
these entries hold stays till then (R125, R128). -/
def State.passReads (s : State) (k : Cmd) (slot : Nat) (entries : List Nat) : Bool :=
  s.cmds.any (fun x => x.cid = k.cid && decide (x.id < k.id) && (match x.op with
    | .mma _ _ sl _ _ _ _ _ => sl = slot || entries.any (fun e => (tget? (s.mx k.g).metas e).elim false (fun m => m.slot = some sl))
    | _ => false))

/-- The slot's contents are replaced in one event (R122). -/
def execMldbCommit (id : Nat) (s : State) : Res :=
  match s.cmds.find? (fun k => k.id = id && k.stage = 1) with
  | none => fin s
  | some k =>
    match k.op with
    | .mldb _ sl _ _ (some x) =>
      if s.passReads k sl [] then fin s
      else fin (((s.modMx k.g (fun m => { m with slots := tset m.slots sl x })).returnPend k.cid k.pid []).dropCmd k)
    | _ => fin s

/-- The masks are written and bound in one event (R126, R332). -/
def execSmcpCommit (id : Nat) (s : State) : Res :=
  match s.cmds.find? (fun k => k.id = id) with
  | none => fin s
  | some k =>
    match k.op with
    | .smcp sl e d _ =>
      let smcp (op : CmdOp) : Bool := match op with
        | .smcp _ _ _ _ => true
        | _ => false
      if !s.nextFor k (s.ageLimit k.unit) smcp || s.passReads k sl ((List.range d).map (fun i => e + i)) then fin s
      else match s.rangeFault k.ctx k.op.ranges with
        | some x => fin (s.holdCmd k x)
        | none =>
          if s.touchesPoison (s.rangePieces k.ctx k.op.ranges) then fin (s.poisonCmd k)
          else
            let (t, k) := s.readCmd k
            let data := (t.cmdBytes k).flatten
            let entry (i : Nat) : Meta :=
              { masks := (List.range 256).map (fun w => (w, BitVec.ofNat 32 (leNat ((data.drop (1024 * i + 4 * w)).take 4)))), slot := some sl,
                dens := densN d }
            let bind (m : Matrix) : Matrix :=
              let old := m.metas.map (fun (x : Nat × Meta) => if x.2.slot = some sl then (x.1, { x.2 with slot := none }) else x)
              { m with metas := tsets old ((List.range d).map (fun i => (e + i, entry i))) }
            fin (((t.modMx k.g bind).returnPend k.cid k.pid []).dropCmd k)
    | _ => fin s

/-! ### Passes (R124, R125, R127, R333) -/

/-- Granted passes of a quad, oldest grant first. -/
def State.passes (s : State) (quad : Nat) : List Cmd :=
  s.cmds.filter (fun k => k.engine = .matrix && k.unit = quad && k.stage = 1 && (match k.op with
    | .mma _ _ _ _ _ _ _ _ => true
    | _ => false))

def Cmd.win (k : Cmd) : Nat :=
  match k.op with
  | .mma fmt _ _ _ _ _ _ _ => mmaWin fmt
  | _ => 0

/-- The arbiter grants a pass: the slot and its metadata are read whole. -/
def execPassGrant (quad : Nat) (s : State) : Res :=
  let busy := (s.passes quad).any (fun k => decide (s.cycle < k.started + k.win))
  let heads := (s.eligible .matrix quad).filter (fun k => match k.op with
    | .mma _ _ _ _ _ _ _ _ => true
    | _ => false)
  match if busy then none else s.arbiter (s.ageLimit quad) heads with
  | none => fin s
  | some k =>
    match k.op with
    | .mma fmt pt sl n a ea bad _ =>
      let m := s.mx k.g
      let op : CmdOp := .mma fmt pt sl n a ea bad (some (tget? m.slots sl, m.metas.filter (fun e => e.2.slot = some sl)))
      let s := s.countFor k.cid k.ctx 6 1
      let s := { s with stamps := s.stamps.map (fun (t : Stamp) => if t.cmd = k.id && t.kind = 0 then { t with grant := s.tnow } else t) }
      fin ((s.setCmd { k with stage := 1, started := s.cycle, op := op }).resolve k.cid)
    | _ => fin s

/-- The mask of a column and K-block in the bound entries; none where no entry of the density is bound (R126, R127, R332). -/
def maskAt (metas : Tbl Meta) (n j c : Nat) : Option W32 :=
  let es := metas.filter (fun e => e.2.dens = n)
  if es.length = (if n = 16 then 1 else 2) then
    (es[j / 2]?).map (fun e => tget 0 e.2.masks (128 * (j % 2) + c))
  else none

/-- What the array forms for K-block j of a pass: the products of the rows and columns, which columns have a right mask, and the checksum
product of each row (R113, R125). Of a sparse block the checksum column is taken over the K positions that its masks give (notes/assumptions/93). -/
structure BlockSum where
  p : Nat → Nat → Int
  ok : Nat → Bool
  q : Nat → Int

def passBlock (x : Slot) (metas : Tbl Meta) (n : Nat) (a : Tbl Int) (j : Nat) : BlockSum :=
  let mask (c : Nat) : W32 := if n = 32 then 0xFFFFFFFF else (maskAt metas n j c).getD 0
  let lanes (c : Nat) : List Nat := lanesOf (mask c)
  let ok (c : Nat) : Bool := decide ((lanes c).length = n)
  let av (r k : Nat) : Int := tget 0 a (128 * r + 32 * j + k)
  let dot (r c : Nat) : Int := ((List.range n).zip (lanes c)).foldl (fun (acc : Int) e => acc + av r e.2 * tget 0 x.vals (128 * (j * n + e.1) + c)) 0
  { p := dot
    ok := ok
    q := fun r => if n = 32 then (List.range 32).foldl (fun (acc : Int) k => acc + av r k * tget 0 x.ck k) 0
      else ((List.range 128).filter ok).foldl (fun (acc : Int) c => acc + dot r c) 0 }

/-- The array's result as it comes out, of 48 bits: `err` is what an error adds to an element. -/
def BlockSum.out (b : BlockSum) (o t : Nat) (err : Nat → Nat → Int) (r c : Nat) : Int :=
  if b.ok c then (if err r c = 0 then b.p r c else (BitVec.ofInt 48 (b.p r c + err r c)).toInt) else sgn 48 (Config.free o 14 (4096 * t + 128 * r + c))

/-- The check of R125, modulo 2^24, over the columns whose product the spec gives. -/
def BlockSum.good (b : BlockSum) (act : W32) (err : Nat → Nat → Int) : Bool :=
  (lanesOf act).all (fun r => (((List.range 128).filter b.ok).foldl (fun (acc : Int) c => acc + (b.p r c + err r c)) 0 - b.q r) % 2 ^ 24 = 0)

/-- The array may use what it reads: the slot's tag pairs with the format and its density is the one captured (R123, R333). -/
def pairedSlot (fmt : MmaFmt) (n : Nat) (sl : Option Slot) : Option Slot :=
  sl.bind (fun x => if pairClass x.tag = pairClass (mmaBase fmt) && x.dens = n then some x else none)

/-- The array's error in K-block j: nothing, or with an upset some amount in each element, which is nowhere stated (free values). -/
def passErr (o pt j : Nat) (upset : Bool) (r c : Nat) : Int := if upset then sgn 48 (Config.free o 38 (4096 * (pt + j) + 128 * r + c)) else 0

/-- A pass has passed its check. -/
def passGood (o : Nat) (act : W32) (pt n : Nat) (a : Tbl Int) (sl : Option Slot) (metas : Tbl Meta) (upset : Bool) : Bool :=
  sl.elim true (fun x => (List.range (32 / n)).all (fun j => (passBlock x metas n a j).good act (passErr o pt j upset)))

/-- The partial tiles a pass writes (R113, R114, R123, R127); a column that some K-block's mask spoils is bad in every one of them. -/
def passWrite (o : Nat) (m : Matrix) (act : W32) (pt n : Nat) (a : Tbl Int) (ea : Tbl Int) (bad : Tbl Bool) (sl : Option Slot)
    (metas : Tbl Meta) (upset : Bool) : Matrix :=
  match sl with
  | none => (List.range (32 / n)).foldl (fun m j =>
      let t := pt + j
      { m with
        ptP := tsets m.ptP ((lanesOf act).flatMap (fun r => (List.range 128).map (fun c => (4096 * t + 128 * r + c, 0))))
        ptRbad := tsets m.ptRbad ((lanesOf act).map (fun r => (32 * t + r, true)))
        ptCbad := tsets m.ptCbad ((List.range 128).map (fun c => (128 * t + c, true))) }) m
  | some x =>
    let blocks := (List.range (32 / n)).map (passBlock x metas n a)
    let spoilt (c : Nat) : Bool := blocks.any (fun b => !b.ok c)
    ((List.range (32 / n)).zip blocks).foldl (fun m e =>
      let j := e.1
      let t := pt + j
      { m with
        ptP := tsets m.ptP ((lanesOf act).flatMap (fun r => (List.range 128).map (fun c => (4096 * t + 128 * r + c, e.2.out o t (passErr o pt j upset) r c))))
        ptEA := tsets m.ptEA ((lanesOf act).map (fun r => (32 * t + r, tget 0 ea (32 * j + r))))
        ptRbad := tsets m.ptRbad ((lanesOf act).map (fun r => (32 * t + r, tget false bad (32 * j + r))))
        ptEB := tsets m.ptEB ((List.range 128).map (fun c => (128 * t + c, tget 0 x.eb (128 * j + c))))
        ptCbad := tsets m.ptCbad ((List.range 128).map (fun c => (128 * t + c, tget false x.bad (128 * j + c) || spoilt c))) }) m

/-- The pass of a quad that ends next: the oldest grant, but none before an earlier pass of its crew (R128). -/
def State.endingPass (s : State) (quad : Nat) : Option Cmd :=
  let inOrder (k : Cmd) : Bool := !s.cmds.any (fun x => x.cid = k.cid && decide (x.id < k.id) && (match x.op with
    | .mma _ _ _ _ _ _ _ cap => cap.isSome
    | _ => false))
  ((s.passes quad).filter inOrder).foldl (fun (b : Option Cmd) k => match b with
    | none => some k
    | some x => if k.started < x.started then some k else b) none

/-- A pass ends: a good one is written; one whose checksum differs is run again once, and then raises a machine check, and Reeve tests the row
(R125). `upset` says that an error has struck the array during the pass, `row` where. -/
def execPassComplete (quad : Nat) (upset : Bool) (row : Nat) (s : State) : Res :=
  match s.endingPass quad with
  | none => fin s
  | some k =>
    if s.cycle < k.started + k.win + 10 then fin s
    else
      match k.op with
      | .mma fmt pt _ n a ea bad (some (sl, metas)) =>
        let done (s : State) : State :=
          { s with stamps := s.stamps.map (fun (t : Stamp) => if t.cmd = k.id && t.kind = 0 then { t with done := true, passDone := s.tnow } else t) }
        let x := pairedSlot fmt n sl
        if passGood s.oracle k.act pt n a x metas upset then
          let s := s.modMx k.g (fun m => passWrite s.oracle m k.act pt n a ea bad x metas upset)
          fin ((((done s).returnPend k.cid k.pid []).dropCmd k).flushStamps)
        else if !k.rerun then
          fin ((s.countField (mxeBlk quad + 8) 15 0).setCmd { k with stage := 0, rerun := true })
        else
          let s := (s.countField (mxeBlk quad + 8) 31 16).testRow (arrayNo .stationary quad) row
          fin (((((done s).returnPend k.cid k.pid []).dropCmd k).flushStamps).machineCheck k.cid k.pos 2 quad row)
      | _ => fin s

/-! ### Folds and scales (R115, R130, R133) -/

/-- The cached unit of a scale region. -/
def State.scaleUnit (s : State) (quad ctx tid u : Nat) : Option ScaleUnit :=
  s.scales.find? (fun x => x.quad = quad && x.ctx = ctx && x.tid = tid && x.unit = u)

/-- A unit enters the cache of 256; which other one leaves when it is full is the device's choice. -/
def State.cacheUnit (s : State) (x : ScaleUnit) (keep : ScaleUnit → Bool) : State :=
  let rest := s.scales.filter (fun y => !(y.quad = x.quad && y.ctx = x.ctx && y.tid = x.tid && y.unit = x.unit))
  let mine := rest.filter (fun y => y.quad = x.quad)
  let out := mine.filter (fun y => !keep y)
  if mine.length < 256 then { s with scales := rest ++ [x] }
  else match out[Config.free s.oracle 16 x.unit % out.length]? with
    | none => { s with scales := rest ++ [x] }
    | some v => { s with scales := rest.filter (fun y => y ≠ v) ++ [x] }

/-- Every unit hits, or is fetched afresh. -/
def State.scalesReady (s : State) (quad : Nat) (k : Cmd) : Bool :=
  (k.op.units k.act).all (fun e => e.2.1.fresh || (s.scaleUnit quad k.ctx e.2.1.tid e.2.2).isSome)

/-- A pass of the crew that still writes a partial tile. -/
def State.passPending (s : State) (k : Cmd) (pt : Nat) : Bool :=
  s.cmds.any (fun x => x.cid = k.cid && decide (x.id < k.id) && (match x.op with
    | .mma _ p _ n _ _ _ _ => decide (p ≤ pt) && decide (pt < p + 32 / n)
    | _ => false))

/-- The scale of a block in a unit's bytes (R116). -/
def unitScale (data : List Byte) (n : Nat) : Nat :=
  let j := n % 128
  leNat ((data.drop (4 * (j % 4 * 32 + j / 4))).take 4)

/-- One element folded (R115). -/
def foldElem (acc : W32) (p e : Int) (bad : Bool) (sa sb : Nat) : W32 :=
  if bad || Fmt.f32.isNan sa || Fmt.f32.isNan sb then BitVec.ofNat 32 Fmt.f32.canonNan
  else
    let t := (((Ex.ofME (decide (p < 0)) p.natAbs e).mul (Fmt.f32.dec sa)).mul (Fmt.f32.dec sb))
    let t := if p = 0 && !Fmt.f32.isInf sa && !Fmt.f32.isInf sb then Ex.num false 0 1 else t
    BitVec.ofNat 32 (rne32 ((Fmt.f32.dec acc.toNat).add .rne t))

/-- The bytes of a unit that hold positions below the block count: of its four lines of 128 bytes, line i holds the positions i mod 4 (R116). -/
def unitLines (d : ScaleDesc) (u : Nat) : List (Nat × Nat) :=
  ((List.range 4).filter (fun i => decide (128 * u + i < d.nblk))).map (fun i => ((unitAddr d u + 128 * i) % 2 ^ 72, 128))

/-- A unit as memory gives it to an MSCA: what a read placed at its issue may return; whether a line with positions it may read is poisoned. -/
def State.fetchUnit (s : State) (k : Cmd) (i : Nat) (d : ScaleDesc) (u : Nat) : Except AccFault (List Byte × Bool) :=
  match s.access k.ctx .engine (unitAddr d u) 512 with
  | .error f => .error f
  | .ok _ => .ok ((s.cmdBytes k).getD i [], s.touchesPoison (s.rangePieces k.ctx (unitLines d u)))

/-- The units of an MSCA that `want` names, each as memory gives it, with its place in the list; the first fault. -/
def State.fetchUnits (s : State) (k : Cmd) (want : Nat → ScaleDesc → Nat → Bool) : Except AccFault (List (Nat × List Byte) × Bool) :=
  let us := k.op.units k.act
  ((List.range us.length).zip us).foldl (fun r e => match r with
    | .error f => .error f
    | .ok (xs, poison) =>
      if !want e.1 e.2.2.1 e.2.2.2 then .ok (xs, poison)
      else match s.fetchUnit k e.1 e.2.2.1 e.2.2.2 with
        | .error f => .error f
        | .ok (bs, p) => .ok (xs ++ [(e.1, bs)], poison || p)) (.ok ([], false))

/-- Fetched units enter the cache whole: at positions beyond the NBLK of the descriptor that filled it, which R116 never reads, a unit holds what
memory held, without a look at its poison (DESIGN CHOICE, notes/assumptions/119). -/
def State.keepUnits (s : State) (quad : Nat) (k : Cmd) (xs : List (Nat × List Byte)) : State :=
  let us := k.op.units k.act
  xs.foldl (fun s x => match us[x.1]? with
    | none => s
    | some e => s.cacheUnit ⟨quad, k.ctx, e.2.1.tid, e.2.2, x.2⟩ (fun y => y.ctx = k.ctx && us.any (fun n => n.2.1.tid = y.tid && n.2.2 = y.unit))) s

/-- Where an MSCA without FRESH reads a cached unit whose bytes memory no longer gives, the unit holds the one or the other (R133). -/
def State.unitStale (s : State) (quad : Nat) (k : Cmd) (i : Nat) (d : ScaleDesc) (u : Nat) : Bool :=
  !d.fresh && (match s.scaleUnit quad k.ctx d.tid u, s.fetchUnit k i d u with
    | some x, .ok (bs, false) => x.data ≠ bs && Config.free s.oracle 40 i % 2 = 1
    | _, _ => false)

/-- What a fold operation makes of one element (R115, R334, R335): elements are 128 r + c of the accumulator tile, and the valid counts
4096 + 4 r + i. It returns the value written, if it writes, or read. `sa` and `sb` are an MSCA's scales. -/
def foldStep (m : Matrix) (op : CmdOp) (sa sb : Nat → Nat) (e : Nat) : Option W32 × Option W32 :=
  let r := e / 128
  let c := e % 128
  match op with
  | .msca acc pt _ _ _ _ _ =>
    (some (foldElem (tget 0 m.acc (4096 * acc + e)) (tget 0 m.ptP (4096 * pt + e)) (tget 0 m.ptEA (32 * pt + r) + tget 0 m.ptEB (128 * pt + c))
      (tget false m.ptRbad (32 * pt + r) || tget false m.ptCbad (128 * pt + c)) (sa r) (sb c)), none)
  | .macz _ => (some 0, none)
  | .macwr _ cb vals => (some (tget 0 vals (32 * r + (c - 32 * cb))), none)
  | .macrdF acc _ _ => (none, some (tget 0 m.acc (4096 * acc + e)))
  | .macrdC acc _ => (none, some (BitVec.ofNat 32 (tget 0 m.cnt (128 * acc + (e - 4096)))))
  | _ => (none, none)

/-- The accumulator tile of a fold operation, and the elements it acts on for the rows of Active. -/
def foldSpan (op : CmdOp) (act : W32) : Option (Nat × List Nat) :=
  let row (f : Nat → List Nat) : List Nat := (lanesOf act).flatMap f
  let counts : List Nat := row (fun r => (List.range 4).map (fun i => 4096 + 4 * r + i))
  match op with
  | .msca acc _ _ _ _ _ _ => some (acc, row (fun r => (List.range 128).map (fun c => 128 * r + c)))
  | .macz acc => some (acc, row (fun r => (List.range 128).map (fun c => 128 * r + c)) ++ counts)
  | .macrdF acc cb _ => some (acc, row (fun r => (List.range 32).map (fun j => 128 * r + 32 * cb + j)))
  | .macrdC acc _ => some (acc, counts)
  | .macwr acc cb _ => some (acc, row (fun r => (List.range 32).map (fun j => 128 * r + 32 * cb + j)))
  | _ => none

/-- Elements of a tile are acted on, each on its own: the tile after, and what was read of it. -/
def foldElems (m : Matrix) (op : CmdOp) (sa sb : Nat → Nat) (acc : Nat) (es : List Nat) : Matrix × Tbl W32 :=
  let xs := es.map (fun e => (e, foldStep m op sa sb e))
  let ws := xs.filterMap (fun x => x.2.1.map (fun v => (x.1, v)))
  ({ m with
     acc := tsets m.acc ((ws.filter (fun w => decide (w.1 < 4096))).map (fun w => (4096 * acc + w.1, w.2)))
     cnt := tsets m.cnt ((ws.filter (fun w => decide (4096 ≤ w.1))).map (fun w => (128 * acc + (w.1 - 4096), w.2.toNat))) },
   xs.filterMap (fun x => x.2.2.map (fun v => (x.1, v))))

/-- The registers a reading operation returns, from what it read. -/
def foldReturn (op : CmdOp) (act : W32) (got : Tbl W32) : Tbl W32 :=
  match op with
  | .macrdF _ cb vd => destBlock vd 32 act (fun j r => tget 0 got (128 * r + 32 * cb + j))
  | .macrdC _ vd => destBlock vd 1 act (fun _ r => BitVec.ofNat 32 (packElems 8 4 (fun i => (tget 0 got (4096 + 4 * r + i)).toNat)))
  | _ => []

/-- A fold operation on the tile of another crew stands before the fold unit, or a collective target is bound to the tile: they may meet element by
element in either order (R130, R206). -/
def State.contended (s : State) (k : Cmd) (acc : Nat) : Bool :=
  s.cmds.any (fun x => x.cid ≠ k.cid && x.g = k.g && x.engine = .matrix && (foldSpan x.op x.act).elim false (fun y => y.1 = acc)
    && (x.stage = 1 || (s.eligible .matrix x.unit).any (fun y => y.id = x.id)))
    || s.hwqs.any (fun q => q.2.targets.any (fun t => t.g = k.g && t.acc = some acc))

/-- The fold unit works on a command: on all the elements it has yet to act on, or on some of them where another crew's
command or a collective addend may come between. -/
def State.foldWork (s : State) (k : Cmd) (acc : Nat) (all : List Nat) (sa sb : Nat → Nat) : State :=
  let todo := k.rest.getD all
  let now := if s.contended k acc then todo.filter (fun e => Config.free s.oracle 39 e % 2 = 0) else todo
  let r := foldElems (s.mx k.g) k.op sa sb acc now
  let got := k.vals ++ r.2
  let left := todo.filter (fun e => !now.contains e)
  let s1 := s.modMx k.g (fun _ => r.1)
  if left.isEmpty then ((s1.returnPend k.cid k.pid (foldReturn k.op k.act got)).dropCmd k)
  else s1.setCmd { k with stage := 1, started := s.cycle, vals := got, rest := some left }

/-- The scales of an MSCA: `xs` are the units read from memory, the others are cached. -/
def State.mscaScale (s : State) (quad : Nat) (k : Cmd) (xs : List (Nat × List Byte)) (forB : Bool) (d : ScaleDesc) (n : Nat) : Nat :=
  let us := k.op.units k.act
  let i := us.findIdx (fun e => e.1 = forB && e.2.2 = n / 128)
  unitScale (((xs.find? (fun x => x.1 = i)).map (fun x => x.2)).getD ((s.scaleUnit quad k.ctx d.tid (n / 128)).elim [] (fun x => x.data))) n

/-- The fold unit takes a head, MSCA, MACZ, MACRD or MACWR, or goes on with one it has begun (R115, R130, R334, R335). An MSCA keeps the bytes of
all its units once it has begun. -/
def execFoldGrant (quad : Nat) (s : State) : Res :=
  let heads := (s.eligible .matrix quad).filter (fun k => match k.op with
    | .msca _ pt _ _ _ _ _ => !s.passPending k pt && s.scalesReady quad k
    | .macz _ | .macrdF _ _ _ | .macrdC _ _ | .macwr _ _ _ => true
    | _ => false)
  let begun := s.cmds.filter (fun k => k.engine = .matrix && k.unit = quad && k.rest.isSome && s.cmdLive k)
  let grant := s.arbiter (s.ageLimit quad) heads
  match choose s.oracle 41 0 none ((grant.toList ++ begun).map (fun k => some k)) with
  | none => fin s
  | some k =>
    match k.op, foldSpan k.op k.act with
    | .msca acc _ kb row0 col0 da db, some (_, all) =>
      let us := k.op.units k.act
      let work (s : State) (xs : List (Nat × List Byte)) (k : Cmd) : State :=
        s.foldWork k acc all (fun r => s.mscaScale quad k xs false da (kb * da.ld + row0 + r)) (fun c => s.mscaScale quad k xs true db (kb * db.ld + col0 + c))
      if k.rest.isSome then fin (work s ((List.range us.length).zip k.kept) k)
      else
        let (s, k) := s.readCmd k
        match s.fetchUnits k (fun i d u => d.fresh || s.unitStale quad k i d u) with
        | .error f => fin (s.holdCmd k f)
        | .ok (xs, poison) =>
          if poison then fin (s.poisonCmd k)
          else
            let fresh := xs.filter (fun x => (us[x.1]?).elim false (fun e => e.2.1.fresh))
            let held := ((List.range us.length).zip us).map (fun e => ((xs.find? (fun x => x.1 = e.1)).map (fun x => x.2)).getD
              ((s.scaleUnit quad k.ctx e.2.2.1.tid e.2.2.2).elim [] (fun x => x.data)))
            fin ((work (s.countFor k.cid k.ctx 7 1) xs { k with kept := held }).keepUnits quad k fresh)
    | _, some (acc, all) => fin (s.foldWork k acc all (fun _ => 0) (fun _ => 0))
    | _, none => fin s

/-- A missing scale unit of a waiting MSCA is fetched (R133). -/
def execScaleUnitFill (quad : Nat) (s : State) : Res :=
  let heads := (s.eligible .matrix quad).filter (fun k => match k.op with
    | .msca _ _ _ _ _ _ _ => !s.scalesReady quad k
    | _ => false)
  match s.arbiter (s.ageLimit quad) heads with
  | none => fin s
  | some k =>
    let (s, k) := s.readCmd k
    match s.fetchUnits k (fun _ d u => !d.fresh && (s.scaleUnit quad k.ctx d.tid u).isNone) with
    | .error f => fin (s.holdCmd k f)
    | .ok (xs, poison) => if poison then fin (s.poisonCmd k) else fin ((s.setCmd k).keepUnits quad k xs)

/-- A write of MXE_SCINV (R136). Of one that comes while GO reads 1 nothing is stored, ALL, CTX and TID included (DESIGN CHOICE,
notes/assumptions/95). -/
def State.writeScinv (s : State) (quad v : Nat) : State :=
  if s.scinvBusy.contains quad then s
  else
    let s := s.w32 (mxeBlk quad + 0x10) (v % 2 ^ 31 - bits v 29 22 * 2 ^ 22)
    if bitAt v 31 then { s with scinvBusy := s.scinvBusy ++ [quad] } else s

def execScinvGo (quad v : Nat) (s : State) : Res := if bitAt v 31 then fin (s.writeScinv quad v) else fin s

/-- The invalidation completes: GO reads 0 and no unit of the context, or of its TID, is left (R136). -/
def execScinvDone (quad : Nat) (s : State) : Res :=
  if !s.scinvBusy.contains quad then fin s
  else
    let v := s.r32 (mxeBlk quad + 0x10)
    fin { s with scinvBusy := s.scinvBusy.filter (fun q => q ≠ quad),
                 scales := s.scales.filter (fun x => !(x.quad = quad && x.ctx = bits v 21 16 && (bitAt v 30 || x.tid = v % 65536))) }

end Sys2Proof.Machine
end

