-- ==== Sys2Proof/Machine/Flow.lean ====
section
/-! DEFINITION. Receive and transmit flows: their registers (09 R177, 23 R401), pixels in pgroups, line rings (R166, R167, R173) and the
conversions of R170 and R171. -/

namespace Sys2Proof.Machine

/-! ### Registers of a flow (R177, R401) -/

def State.fCtl (s : State) (tx : Bool) (f : Nat) : Nat := s.r64 (flowBlk tx f)
def State.fWidth (s : State) (tx : Bool) (f : Nat) : Nat := bits (s.fCtl tx f) 19 8 + 1
def State.fRows (s : State) (tx : Bool) (f : Nat) : Nat := bits (s.fCtl tx f) 32 20 + 1
def State.fNfr (s : State) (tx : Bool) (f : Nat) : Nat := bits (s.fCtl tx f) 47 44
/-- Frame slots: NFR + 1 receive, NFR + 2 transmit (R167, R173). -/
def State.fSlots (s : State) (tx : Bool) (f : Nat) : Nat := s.fNfr tx f + (if tx then 2 else 1)
def State.fKind (s : State) (tx : Bool) (f : Nat) : Nat := bits (s.fCtl tx f) 43 41
def State.fSamp (s : State) (tx : Bool) (f : Nat) : Nat := bits (s.fCtl tx f) 39 36
def State.fDepth (s : State) (tx : Bool) (f : Nat) : Nat := 8 + 2 * bits (s.fCtl tx f) 35 34
def State.fStore (s : State) (tx : Bool) (f : Nat) : Bool := bitAt (s.fCtl tx f) 60
def State.fCtx (s : State) (tx : Bool) (f : Nat) : Nat := bits (s.fCtl tx f) 5 0
def State.fStride (s : State) (tx : Bool) (f : Nat) : Nat := s.r32 (flowBlk tx f + 0x5C)
def State.fPeriod (s : State) (tx : Bool) (f : Nat) : Nat := s.r32 (flowBlk tx f + 0x54)
def State.fRing (s : State) (tx : Bool) (f : Nat) : Nat := (s.addr72 (flowBlk tx f + 0x08) (flowBlk tx f + 0x10)).toNat
/-- PRES_OFS or DELAY, and LATE_OFS or TRO, signed ns. -/
def State.fOfs0 (s : State) (tx : Bool) (f : Nat) : Int := sgn 64 (s.r64 (flowBlk tx f + 0x18))
def State.fOfs1 (s : State) (tx : Bool) (f : Nat) : Int := sgn 64 (s.r64 (flowBlk tx f + 0x20))
def State.fLineNs (s : State) (tx : Bool) (f : Nat) : Nat := s.r32 (flowBlk tx f + 0x28)
/-- FILL0 to FILL2. -/
def State.fFill (s : State) (tx : Bool) (f j : Nat) : Nat := s.r64 (flowBlk tx f + 0x30) / 2 ^ (16 * j) % 4096

/-- A 128-bit address of a block, IPv4 in mapped form (R401, R402). -/
def State.addr128 (s : State) (off : Nat) : Nat := s.r64 off + 2 ^ 64 * s.r64 (off + 8)

/-- Where a transmit flow's packets go (R401). -/
def State.fDest (s : State) (f : Nat) : Dest :=
  ⟨bits (s.fCtl true f) 51 48, s.addr128 (flowBlk true f + 0x60), s.r32 (flowBlk true f + 0x50) % 65536, s.r32 (flowBlk true f + 0x50) / 65536⟩

/-- A time has come; 2^64 - 1 never does (R43). -/
def State.dueAt (s : State) (t : Nat) : Bool := t ≠ 2 ^ 64 - 1 && decide (t ≤ s.tnow)

/-- A line, record or row time as a 64-bit count: a sum below 0 counts as 0 and one beyond the largest time as the largest (DESIGN CHOICE,
notes/assumptions/112: R164 and R172 do not say). -/
def clampTime (t : Int) : Nat := if t < 0 then 0 else min t.toNat (2 ^ 64 - 1)

/-! ### pgroups (ST 2110-20) -/

/-- Pixels and bytes of a pgroup by sampling and depth. -/
def pgPix (samp depth : Nat) : Nat := if samp = 0 then 2 else if depth = 8 then 1 else if depth = 10 then 4 else 2
def pgBytes (samp depth : Nat) : Nat :=
  if samp = 0 then depth / 2 else if depth = 8 then 3 else if depth = 10 then 15 else 9

/-- Place of component j (Y, Cb, Cr or R, G, B) of pixel i of a pgroup, in components from the first on the wire. -/
def compPlace (samp i j : Nat) : Nat :=
  if samp = 0 then (match j with
    | 0 => 2 * (i % 2) + 1
    | 1 => 0
    | _ => 2)
  else if samp = 1 then 3 * i + (match j with
    | 0 => 1
    | 1 => 0
    | _ => 2)
  else 3 * i + j

/-- A big-endian pgroup as a number, and back. -/
def beNat (bs : List Byte) : Nat := bs.foldl (fun a b => 256 * a + b.toNat) 0
def beBytes (n x : Nat) : List Byte := (leBytes n x).reverse

/-- Component j of pixel i of a pgroup. -/
def pgComp (samp depth : Nat) (bs : List Byte) (i j : Nat) : Nat :=
  beNat bs / 2 ^ (8 * bs.length - depth * (compPlace samp i j + 1)) % 2 ^ depth

/-- A pgroup with a component replaced. -/
def pgSet (samp depth : Nat) (bs : List Byte) (i j v : Nat) : List Byte :=
  let lo := 8 * bs.length - depth * (compPlace samp i j + 1)
  beBytes bs.length (setBits (beNat bs) (lo + depth - 1) lo v)

/-! ### Line slots (R167, R173) -/

/-- The number of the line slot of a row of a frame, and its address. -/
def State.lineIdx (s : State) (tx : Bool) (f seq row : Nat) : Nat := seq % s.fSlots tx f * s.fRows tx f + row
def State.lineAddr (s : State) (tx : Bool) (f seq row : Nat) : Nat :=
  (s.fRing tx f + s.lineIdx tx f seq row * s.fStride tx f) % 2 ^ 72

/-- Payload address of a pixel's pgroup. -/
def State.pgAddr (s : State) (tx : Bool) (f seq row x : Nat) : Nat :=
  (s.lineAddr tx f seq row + 64 + x / pgPix (s.fSamp tx f) (s.fDepth tx f) * pgBytes (s.fSamp tx f) (s.fDepth tx f)) % 2 ^ 72

/-- A line's 64-byte header. -/
def lineHeader (lpt ldl seq row st amap : Nat) : List Byte :=
  leBytes 8 lpt ++ leBytes 8 ldl ++ leBytes 4 seq ++ leBytes 2 row ++ leBytes 1 st ++ leBytes 1 0 ++ leBytes 32 amap ++ leBytes 8 0

/-- Bytes written to a flow's ring, through its context's page tables. -/
def State.ringWrite (s : State) (tx : Bool) (f va : Nat) (bs : List Byte) : Except AccFault State := s.vwrite (s.fCtx tx f) .ring va bs
def State.ringRead (s : State) (tx : Bool) (f va n : Nat) : Except AccFault (List Byte) := s.vread (s.fCtx tx f) .engine va n

/-- A ring fault poisons the flow (R387). -/
def State.poisonFlow (s : State) (tx : Bool) (f : Nat) : State :=
  if tx then { s with tx := tmod s.tx f (fun x => { x with poison := true }) } else { s with rx := tmod s.rx f (fun x => { x with poison := true }) }
def State.flowPoisoned (s : State) (tx : Bool) (f : Nat) : Bool :=
  if tx then (tget? s.tx f).elim false (fun x => x.poison) else (tget? s.rx f).elim false (fun x => x.poison)
def State.flowOn (s : State) (tx : Bool) (f : Nat) : Bool := if tx then (tget? s.tx f).isSome else (tget? s.rx f).isSome

/-- A ring write that poisons the flow when it faults. -/
def State.ringPut (s : State) (tx : Bool) (f va : Nat) (bs : List Byte) : State :=
  match s.ringWrite tx f va bs with
  | .ok s' => s'
  | .error _ => s.poisonFlow tx f

/-- Chunks of 16 pixels all of whose pixels have landed (R166). -/
def amapOf (width pix : Nat) : Nat :=
  (List.range ((width + 15) / 16)).foldl (fun a k =>
    let n := min 16 (width - 16 * k)
    if pix / 2 ^ (16 * k) % 2 ^ n = 2 ^ n - 1 then a + 2 ^ k else a) 0

/-- Pixels [x, x + n) as a bit set. -/
def pixRange (x n : Nat) : Nat := (2 ^ n - 1) * 2 ^ x

/-! ### Conversion (R170, R171) -/

/-- Offset and span of a component: v = offset + value * span. -/
def fmtScale (fmt depth j : Nat) (rgb : Bool) : Nat × Nat :=
  let u := 2 ^ (depth - 8)
  if fmt = 1 then (0, 2 ^ depth - 1)
  else if j = 0 || rgb then (16 * u, 219 * u)
  else if fmt = 2 then (128 * u, 224 * u)
  else (128 * u, 112 * u)

/-- A component as SRD delivers it (R170). -/
def compOut (fmt depth j : Nat) (rgb : Bool) (v : Nat) : Nat :=
  if fmt = 0 then v
  else
    let sc := fmtScale fmt depth j rgb
    let d : Int := (v : Int) - sc.1
    round (.num (decide (d < 0)) d.natAbs sc.2) .f16 .rne false

/-- A register as SWR writes it (R171). -/
def compIn (fmt depth j : Nat) (rgb : Bool) (x : Nat) : Nat :=
  if fmt = 0 then x % 2 ^ depth
  else
    let sc := fmtScale fmt depth j rgb
    let v := ((Fmt.f16.dec (x % 65536)).mul (.num false sc.2 1)).add .rne (.num false sc.1 1)
    match roundInt .rne v with
    | none => 0
    | some i => if i < 0 then 0 else min i.toNat (2 ^ depth - 1)

/-! ### Transmit lines (R171, R173) -/

def TxFlow.line (x : TxFlow) (seq row : Nat) : Option TxLine := x.lines.find? (fun l => l.seq = seq && l.row = row)
def TxFlow.committed (x : TxFlow) (seq row : Nat) : Option Nat := (x.line seq row).bind (fun l => l.commit)
def TxFlow.setLine (x : TxFlow) (l : TxLine) : TxFlow :=
  { x with lines := x.lines.filter (fun k => !(k.seq = l.seq && k.row = l.row)) ++ [l] }

/-- The slot of frame q is free to be written (R173). -/
def State.txFree (s : State) (f q : Nat) : Bool :=
  (tget? s.tx f).elim true (fun x => decide (q + (if s.fStore true f then 1 else 0) < x.frame + s.fSlots true f))

/-- Pixel x of a line gets components in the ring; the chroma of a 4:2:2 pgroup comes from its even pixel. -/
def State.txPixel (s : State) (f seq row x : Nat) (comp : Nat → Nat) : State :=
  let samp := s.fSamp true f
  let depth := s.fDepth true f
  let va := s.pgAddr true f seq row x
  match s.ringRead true f va (pgBytes samp depth) with
  | .error _ => s.poisonFlow true f
  | .ok bs =>
    let i := x % pgPix samp depth
    let js := if samp = 0 && i = 1 then [0] else [0, 1, 2]
    s.ringPut true f va (js.foldl (fun b j => pgSet samp depth b i j (comp j)) bs)

/-- A line commits with a TIME: fill constants into every pixel not written, then the header (R173). -/
def State.txCommit (s : State) (f seq row time : Nat) : State :=
  match tget? s.tx f with
  | none => s
  | some x =>
    let pix := (x.line seq row).elim 0 (fun l => l.pix)
    if (x.committed seq row).isSome then s
    else
      let s1 := (List.range (s.fWidth true f)).foldl (fun s' p => if bitAt pix p then s' else s'.txPixel f seq row p (s.fFill true f)) s
      let s2 := s1.ringPut true f (s.lineAddr true f seq row) (lineHeader time 0 seq row 2 0)
      { s2 with tx := tmod s2.tx f (fun y => y.setLine { seq := seq, row := row, pix := pix, commit := some time }) }

end Sys2Proof.Machine
end

