-- ==== Sys2Proof/Machine/StreamRegs.lean ====
section
/-! DEFINITION. Stream registers: SRD, SWR, SSTAT (16 R318 to R320; 09 R168 to R171; 22 R387). -/

namespace Sys2Proof.Machine

/-- Stream register k of a crew's workgroup. -/
def State.xreg (s : State) (c : Crew) (k : Nat) : Option XReg := (s.wg? c.g).bind (fun w => tget? w.xregs k)
def State.setXreg (s : State) (c : Crew) (k : Nat) (x : XReg) : State := s.modWg c.g (fun w => { w with xregs := tset w.xregs k x })

/-- The cursor on the next row or frame (R169, R171). -/
def XReg.nextRow (x : XReg) (rows : Nat) : XReg :=
  if x.row + 1 < rows then { x with row := x.row + 1, col := 0 } else { x with row := 0, col := 0, seq := (x.seq + 1) % 2 ^ 32 }

/-- The cursor advanced by n pixels, and whether it passed the end of its row. -/
def XReg.advance (x : XReg) (n width rows : Nat) : XReg × Bool :=
  if width ≤ x.col + n then (x.nextRow rows, true) else ({ x with col := x.col + n }, false)

/-- The trap of a poisoned flow (R387). -/
def streamPoison (k : Nat) : Trap := ⟨11, 0, 0, 0, [(64, 1, 1), (65, 1, k)]⟩

/-- The fields of SRD and SWR (R231). -/
def strReg (f : LF) : Nat := f.sub % 8
def strN (f : LF) : Nat := bits f.low 31 27 + 1
def strFmt (f : LF) : Nat := bits f.low 26 23

/-- The claimed pixels of an instruction: at first issue the cursor advances (R319). -/
def claim (s : State) (c : Crew) (f : LF) (x : XReg) (n : Nat) (act : W32) (vals : Tbl Nat) : State × SrdClaim :=
  match c.wait with
  | .pixels cl => (s, cl)
  | _ =>
    let width := s.fWidth x.tx x.flow
    let cl : SrdClaim := { reg := strReg f, flow := x.flow, seq := x.seq, row := x.row, col := x.col, n := n, fmt := strFmt f,
                           plate := bits f.low 22 20, vd := f.vd, act := act, vals := vals }
    (s.setXreg c (strReg f) (x.advance n width (s.fRows x.tx x.flow)).1, cl)

/-- What a row of a receive flow's ring holds for a claim (R166, R169). -/
inductive RowState | ready | overrun | absent deriving DecidableEq, Repr
def State.rowState (s : State) (flow seq row : Nat) : RowState :=
  match (tget? s.rx flow).bind (fun x => tget? x.lines (s.lineIdx false flow seq row)) with
  | none => .absent
  | some l => if l.seq = seq then (if l.present then .ready else .absent) else if seq < l.seq then .overrun else .absent

/-- LPT of the line in a row's slot. -/
def State.slotLpt (s : State) (flow seq row : Nat) : Nat :=
  match tget? s.rx flow with
  | none => 0
  | some x =>
    let q := (tget? x.lines (s.lineIdx false flow seq row)).elim seq (fun l => l.seq)
    (x.frames.find? (fun fr => fr.seq = q)).elim 0 (fun fr => clampTime (fr.ft + s.fOfs0 false flow))

/-- A pixel's three components from the ring. -/
def State.ringPixel (s : State) (tx : Bool) (flow seq row x : Nat) : Except AccFault (List Nat) :=
  let samp := s.fSamp tx flow
  let depth := s.fDepth tx flow
  match s.ringRead tx flow (s.pgAddr tx flow seq row x) (pgBytes samp depth) with
  | .error e => .error e
  | .ok bs => .ok ((List.range 3).map (pgComp samp depth bs (x % pgPix samp depth)))

/-- Where a pixel of a claim comes from: nowhere beyond the width, the fill constants, or the ring's row of a frame (R169). -/
inductive PixelFrom | beyond | constants | ring (seq : Nat) deriving DecidableEq, Repr
def State.srdFrom (s : State) (cl : SrdClaim) (l : Nat) : PixelFrom :=
  let x := cl.col + l
  let has (q : Nat) : Bool := (tget? s.rx cl.flow).elim false (fun r =>
    (tget? r.lines (s.lineIdx false cl.flow q cl.row)).elim false (fun k =>
      k.seq = q && bitAt (amapOf (s.fWidth false cl.flow) k.pix) (x / 16)))
  if s.fWidth false cl.flow ≤ x then .beyond
  else if !s.flowOn false cl.flow || s.rowState cl.flow cl.seq cl.row = .overrun then .constants
  else if has cl.seq then .ring cl.seq
  else if s.fStore false cl.flow && decide (0 < cl.seq) && has (cl.seq - 1) then .ring (cl.seq - 1)
  else .constants

/-- A pixel of a claim: components and late (R169). -/
def State.srdPixel (s : State) (cl : SrdClaim) (l : Nat) : Except AccFault (List Nat × Bool) :=
  match s.srdFrom cl l with
  | .beyond => .ok ([0, 0, 0], false)
  | .constants => .ok ((List.range 3).map (s.fFill false cl.flow), true)
  | .ring q => (s.ringPixel false cl.flow q cl.row (cl.col + l)).map (fun p => (p, decide (q ≠ cl.seq)))

/-- The bytes of the ring that a pixel of a claim is read from. -/
def State.srdBytes (s : State) (cl : SrdClaim) (l : Nat) : List Nat :=
  match s.srdFrom cl l with
  | .ring q =>
    match s.access (s.fCtx false cl.flow) .engine (s.pgAddr false cl.flow q cl.row (cl.col + l)) (pgBytes (s.fSamp false cl.flow) (s.fDepth false cl.flow)) with
    | .ok ps => paList ps
    | .error _ => []
  | _ => []

/-- A pixel of a claim is read from poisoned memory (R384). -/
def State.srdPoison (s : State) (cl : SrdClaim) (l : Nat) : Bool := s.poisonedLocs ((s.srdBytes cl l).map Loc.mem)

/-- The place of a stream form's access to the ring (R82, R99): of class STR. -/
def State.streamPlace (s : State) (c : Crew) (r : LRun) (m : W32) (tx : Bool) (cl : SrdClaim) : Ev :=
  { s.place c m .l r.since with cls := 3, kind := s.pageKind (s.fCtx tx cl.flow) (s.lineAddr tx cl.flow cl.seq cl.row) }

/-- A line is staged in the workgroup's stream buffer: what its bytes hold from then on is the device's own (R72). -/
def State.stageLine (s : State) (c : Crew) : State := s.modWg c.g (fun w => { w with staged := s.oracle })

/-- A trap that keeps what the instruction claimed at issue (R387). -/
def trapKeeping (s : State) (t : Trap) : Eff := .wait (s.takeTrap s.focus .l 12 t)

def execSrd (f : LF) (s : State) : Res :=
  runL s f (fun s c => [(decide (strFmt f < 4), Trap.illegal), (regsOk s c [⟨f.vd, 3, false⟩], Trap.illegal),
      ((s.xreg c (strReg f)).elim false (fun x => !x.tx), Trap.illegal), (!s.displaced c, Trap.plain 7)]) (fun s c r act =>
    match s.xreg c (strReg f) with
    | none => .trap Trap.illegal
    | some x =>
      if c.tableFull .l then lStall s c
      else
        let (s0, cl) := claim s c f x (strN f) act []
        let s1 := s0.stageLine c
        if s1.flowPoisoned false cl.flow then trapKeeping s1 (streamPoison cl.reg)
        else if s1.flowOn false cl.flow && s1.rowState cl.flow cl.seq cl.row = .absent then .wait (s1.park s1.focus c (.pixels cl))
        else
          let lanes := (lanesOf act).filter (fun l => decide (l < cl.n))
          let px := lanes.map (fun l => (l, s1.srdPixel cl l))
          if px.any (fun p => match p.2 with
            | .error _ => true
            | .ok _ => false) then trapKeeping (s1.poisonFlow false cl.flow) (streamPoison cl.reg)
          else
            let get (l : Nat) : List Nat × Bool := match px.find? (fun p => p.1 = l) with
              | some (_, .ok v) => v
              | _ => ([], false)
            let rgb := s1.fSamp false cl.flow = 2
            let depth := s1.fDepth false cl.flow
            let m := maskOf (fun l => lanes.contains l)
            let s2 := if s1.flowOn false cl.flow then
                let s2 := s1.modWg c.g (fun w => { w with xregs := tmod w.xregs cl.reg (fun y => { y with time := s1.slotLpt cl.flow cl.seq cl.row }) })
                if s1.rowState cl.flow cl.seq cl.row = .overrun then s2.setField (flowBlk false cl.flow + 0x48) 1 1 1 else s2
              else s1
            let s3 := s2.readLast (s2.streamPlace c r m false cl) ((lanes.flatMap (s2.srdBytes cl)).eraseDups)
            longDone s3 c m (destBlock f.vd 3 m (fun i l =>
                BitVec.ofNat 32 (compOut cl.fmt depth i rgb ((get l).1.getD i 0))))
              (predDest m cl.plate (fun l => (get l).2)) (lanes.any (s1.srdPoison cl)))

/-- SWR's pixels, taken at its issue, enter the ring, unless their line has committed (R171, R319): writes of its threads of class STR (R99). -/
def State.swrPixels (s : State) (c : Crew) (r : LRun) (cl : SrdClaim) : State :=
  match tget? s.tx cl.flow with
  | none => s
  | some x =>
    if (x.committed cl.seq cl.row).isSome then s.countField (flowBlk true cl.flow + 0x48) 31 16
    else
      let rgb := s.fSamp true cl.flow = 2
      let depth := s.fDepth true cl.flow
      let lanes := (lanesOf cl.act).filter (fun l => decide (l < cl.n) && decide (cl.col + l < s.fWidth true cl.flow))
      let s1 := lanes.foldl (fun s' l => s'.txPixel cl.flow cl.seq cl.row (cl.col + l) (fun j =>
        compIn cl.fmt depth j rgb (tget 0 cl.vals (32 * j + l)))) s
      let pix := lanes.foldl (fun p l => p ||| 2 ^ (cl.col + l)) ((x.line cl.seq cl.row).elim 0 (fun k => k.pix))
      let s2 := s1.claimWrites s.writes.length (s.streamPlace c r cl.act true cl)
      { s2 with tx := tmod s2.tx cl.flow (fun y => y.setLine { seq := cl.seq, row := cl.row, pix := pix, commit := none }) }

/-- TIME of a stream register. -/
def State.xtime (s : State) (c : Crew) (k : Nat) : Nat := (s.xreg c k).elim 0 (fun x => x.time)

/-- The end of SWR or a commit on a claim: nothing on a disabled flow, the poison trap, the wait for the slot, or the effect (R173, R387). -/
def txAct (s : State) (c : Crew) (cl : SrdClaim) (act : State → State) : Eff :=
  if s.flowPoisoned true cl.flow then trapKeeping s (streamPoison cl.reg)
  else if !s.flowOn true cl.flow then lDone s c
  else if !s.txFree cl.flow cl.seq then .wait (s.park s.focus c (.pixels cl))
  else
    let s' := act s
    if s'.flowPoisoned true cl.flow then trapKeeping s' (streamPoison cl.reg) else lDone s' c

def execSwr (f : LF) (s : State) : Res :=
  runL s f (fun s c => [(decide (strFmt f < 4), Trap.illegal), (regsOk s c [⟨f.va, 3, false⟩], Trap.illegal),
      ((s.xreg c (strReg f)).elim false (fun x => x.tx), Trap.illegal), (!s.displaced c, Trap.plain 7)]) (fun s c r act =>
    match s.xreg c (strReg f) with
    | none => .trap Trap.illegal
    | some x =>
      let vals : Tbl Nat := (lanesOf act).flatMap (fun l => [0, 1, 2].map (fun j => (32 * j + l, opV s c 1 (f.va + j) l)))
      let (s0, cl) := claim s c f x (strN f) act vals
      let s1 := s0.stageLine c
      txAct s1 c cl (fun s2 =>
        let s3 := s2.swrPixels c r cl
        if s2.fWidth true cl.flow ≤ cl.col + cl.n then s3.txCommit cl.flow cl.seq cl.row (s2.xtime c cl.reg) else s3))

/-! ### SSTAT (R320) -/

/-- LINE of a receive register: STATE, present, newer (R320). -/
def State.rxLineStat (s : State) (x : XReg) : Nat :=
  match (tget? s.rx x.flow).bind (fun r => tget? r.lines (s.lineIdx false x.flow x.seq x.row)) with
  | none => 0
  | some l =>
    let st := if l.present then (if l.late then 3 else 2) else 1
    st + (if l.present && l.seq = x.seq then 4 else 0) + (if x.seq < l.seq then 8 else 0)

/-- The value of SSTAT.GET. -/
def State.sstat (s : State) (x : XReg) (sel : Nat) : Nat :=
  match sel with
  | 0 => x.seq
  | 1 => x.col + x.row * 65536
  | 2 => x.time
  | 3 => if x.tx then (if ((tget? s.tx x.flow).bind (fun t => t.committed x.seq x.row)).isSome then 1 else 0) else s.rxLineStat x
  | _ => if x.tx then (tget? s.tx x.flow).elim 0 (fun t => t.frame)
         else match (tget? s.rx x.flow).bind (fun r => r.frames.getLast?) with
           | some fr => fr.seq
           | none => 2 ^ 64 - 1

def execSstatGet (f : LF) (s : State) : Res :=
  runL s f (fun s c => [(decide (bits f.low 31 28 ≤ 4), Trap.illegal), (regsOk s c [rPair f.vd], Trap.illegal),
      ((s.xreg c (strReg f)).isSome, Trap.illegal)]) (fun s c _ act =>
    match s.xreg c (strReg f) with
    | none => .trap Trap.illegal
    | some x =>
      if s.displaced c && act ≠ 0 then .trap (Trap.plain 7)
      else longDone s c act (laneDest act 2 f.vd (fun _ => s.sstat x (bits f.low 31 28))) [] false)

def execSstatSet (f : LF) (s : State) : Res :=
  let sel := bits f.low 31 28
  runL s f (fun s c => [([0, 1, 2, 5].contains sel, Trap.illegal), (regsOk s c [rPair f.va], Trap.illegal),
      ((s.xreg c (strReg f)).elim false (fun x => sel ≠ 5 || x.tx), Trap.illegal)]) (fun s c _ act =>
    match s.xreg c (strReg f), lanesOf act with
    | none, _ => .trap Trap.illegal
    | some _, [] => lDone s c
    | some x, l :: _ =>
      let v := opV s c 2 f.va l
      if s.displaced c then .trap (Trap.plain 7)
      else match sel with
      | 0 => lDone (s.setXreg c (strReg f) { x with seq := v % 2 ^ 32 }) c
      | 1 =>
        if s.fWidth x.tx x.flow ≤ v % 4096 || s.fRows x.tx x.flow ≤ bits v 27 16 then .trap Trap.illegal
        else lDone (s.setXreg c (strReg f) { x with col := v % 4096, row := bits v 27 16 }) c
      | 2 => lDone (s.setXreg c (strReg f) { x with time := v }) c
      | _ =>
        let cl : SrdClaim := { reg := strReg f, flow := x.flow, seq := x.seq, row := x.row, col := x.col, n := 0, fmt := 0, plate := 7, vd := 0, act := act }
        let (s1, cl) := match c.wait with
          | .pixels old => (s, old)
          | _ => (s.setXreg c (strReg f) (x.nextRow (s.fRows true x.flow)), cl)
        txAct s1 c cl (fun s2 => s2.txCommit cl.flow cl.seq cl.row (s2.xtime c cl.reg)))

end Sys2Proof.Machine
end

