-- ==== Sys2Proof/Machine/Media.lean ====
section
/-! DEFINITION. Events of the stream logic: packets, deadlines, decoded lines, transmit rows with the encoder, enabling and disabling of
flows (09 R164 to R177; 22 R387; 23 R400, R401, R403). -/

namespace Sys2Proof.Machine

/-! ### Receive -/

/-- Port p is up (R400, R404). -/
def State.portUp (s : State) (p : Nat) : Bool := bits (s.r32 (portBlk p)) 1 0 = 2

/-- RTP clock of a flow (R164, R177). -/
def State.fClock (s : State) (f : Nat) : Nat :=
  if s.fKind false f = 2 then (match bits (s.fCtl false f) 7 6 with
    | 0 => 48000
    | 1 => 96000
    | _ => 44100)
  else 90000

/-- The frame time of an RTP timestamp at this instant (R164). -/
def State.frameTime (s : State) (f ts : Nat) : Int :=
  let hz := s.fClock f
  let n : Int := ((s.tnow * hz / 1000000000 : Nat) : Int)
  (n + sgn 32 (wrap 32 ((ts : Int) - n))) * 1000000000 / (hz : Int)

/-- The flow takes a packet that comes by a port, on its first or its second leg (R165, R177, R401). -/
def State.fTakes (s : State) (f port udp addr : Nat) : Bool :=
  let ctl := s.fCtl false f
  let first := s.addr128 (flowBlk false f + 0x60)
  let other := s.addr128 (flowBlk false f + 0x70)
  s.portUp port && udp = s.r32 (flowBlk false f + 0x50) % 65536
    && ((bits ctl 51 48 = port && addr = first) || (bitAt ctl 61 && bits ctl 55 52 = port && addr = (if other = 0 then first else other)))

/-- A leg's second copy of a packet (R165); otherwise the packet is noted. A sequence number is remembered until the flow is disabled (DESIGN
CHOICE, notes/assumptions/113: R165 gives no span). -/
def State.legSeen (s : State) (f eseq : Nat) : Option State :=
  if !bitAt (s.fCtl false f) 61 then some s
  else if (tget? s.rx f).elim false (fun r => r.seen.contains eseq) then none
  else some { s with rx := tmod s.rx f (fun r => { r with seen := r.seen ++ [eseq] }) }

/-- The header of a receive line written with a state (R167). -/
def State.rxHeader (s : State) (f seq row st pix : Nat) : State :=
  match tget? s.rx f with
  | none => s
  | some r =>
    let ft := (r.frames.find? (fun fr => fr.seq = seq)).elim 0 (fun fr => fr.ft)
    let ldl := (tget? r.lines (s.lineIdx false f seq row)).elim 0 (fun l => l.ldl)
    s.ringPut false f (s.lineAddr false f seq row)
      (lineHeader (clampTime (ft + s.fOfs0 false f)) ldl seq row st (amapOf (s.fWidth false f) pix))

def State.setRxLine (s : State) (f seq row : Nat) (l : RxLine) : State :=
  { s with rx := tmod s.rx f (fun r => { r with lines := tset r.lines (s.lineIdx false f seq row) l }) }

/-- A new frame begins: the next sequence number, its slot's lines FILLING (R167). -/
def State.beginFrame (s : State) (f ts : Nat) (ft : Int) : State :=
  match tget? s.rx f with
  | none => s
  | some r =>
    let seq := (r.frames.getLast?).elim 0 (fun fr => fr.seq + 1)
    let frames := ((r.frames ++ [({ seq := seq, ts := ts, ft := ft } : RxFrame)]).reverse.take (s.fSlots false f)).reverse
    let s := { s with rx := tset s.rx f { r with frames := frames } }
    let s := s.setField (flowBlk false f + 0x48) 0 0 1
    (List.range (s.fRows false f)).foldl (fun s' row =>
      let ldl := clampTime (ft + s.fOfs1 false f + ((row + 1) * s.fLineNs false f : Nat))
      (s'.setRxLine f seq row ⟨seq, 0, ldl, false, false⟩).rxHeader f seq row 1 0) s

/-- Pixels of a segment land in their line, if it is not present and its deadline has not passed; the line may become COMPLETE (R166). The
Bool says that a late line was met. -/
def State.landSeg (s : State) (f seq row x0 : Nat) (data : List Byte) : State × Bool :=
  match (tget? s.rx f).bind (fun r => tget? r.lines (s.lineIdx false f seq row)) with
  | none => (s, false)
  | some l =>
    if l.seq ≠ seq then (s, false)
    else if s.dueAt l.ldl then
      (if l.present then s else (s.setRxLine f seq row { l with present := true, late := true }).rxHeader f seq row 3 l.pix, true)
    else if l.present then (s, false)
    else
      let pg := pgPix (s.fSamp false f) (s.fDepth false f)
      let n := data.length / pgBytes (s.fSamp false f) (s.fDepth false f) * pg
      let width := s.fWidth false f
      let pix := (l.pix ||| pixRange x0 n) % 2 ^ width
      let s1 := s.ringPut false f (s.pgAddr false f seq row x0) data
      let full := pix = 2 ^ width - 1
      ((s1.setRxLine f seq row { l with pix := pix, present := full }).rxHeader f seq row (if full then 2 else 1) pix, false)

/-- A flow receives a video packet (R164 to R167); a codestream's piece is kept for the decoder (R175). -/
def State.rxVideo (s : State) (f : Nat) (p : VideoPacket) : State :=
    match s.legSeen f p.eseq with
    | none => s
    | some s =>
      let ft := s.frameTime f p.ts
      let frames := (tget? s.rx f).elim [] (fun r => r.frames)
      let late (s : State) : State := s.w32 (flowBlk false f + 0x40) (min (s.r32 (flowBlk false f + 0x40) + 1) (2 ^ 32 - 1))
      let s' : Option (State × Nat) :=
        match frames.find? (fun fr => fr.ts = p.ts % 2 ^ 32) with
        | some fr => some (s, fr.seq)
        | none =>
          if frames.all (fun fr => decide (fr.ft < ft)) then
            let s1 := s.beginFrame f (p.ts % 2 ^ 32) ft
            some (s1, ((tget? s1.rx f).bind (fun r => r.frames.getLast?)).elim 0 (fun fr => fr.seq))
          else none
      match s' with
      | none => late s
      | some (s1, seq) =>
        if s.fKind false f = 1 then { s1 with rx := tmod s1.rx f (fun r => { r with code := tset r.code seq (tget [] r.code seq ++ [(p.eseq, p.code)]) }) }
        else
          let res := p.segs.foldl (fun (a : State × Bool) g =>
            if g.1 < s.fRows false f then
              let b := a.1.landSeg f seq g.1 g.2.1 g.2.2
              (b.1, a.2 || b.2)
            else a) (s1, false)
          if res.2 then late res.1 else res.1

/-- A video packet: every flow that it is addressed to receives it (R401). -/
def execRxPacket (port : Nat) (p : VideoPacket) (s : State) : Res :=
  fin (((s.rx.map (fun r => r.1)).filter (fun f => decide (s.fKind false f ≤ 1) && s.fTakes f port p.udp p.addr)).foldl (fun s f => s.rxVideo f p) s)

/-- The codestream of a frame as far as it has come: the bytes of each run of packets without a gap in their sequence numbers, in their order. -/
def RxFlow.stream (r : RxFlow) (seq : Nat) : List (List Byte) :=
  let rec put (x : Nat × List Byte) : List (Nat × List Byte) → List (Nat × List Byte)
    | [] => [x]
    | y :: t => if x.1 < y.1 then x :: y :: t else y :: put x t
  let join (x : Nat × List Byte) : List (Nat × List Byte) → List (Nat × List Byte)
    | [] => [x]
    | y :: t => if y.1 = x.1 + 1 then (x.1, x.2 ++ y.2) :: t else x :: y :: t
  (((tget [] r.code seq).foldl (fun l x => put x l) []).foldr join []).map (fun x => x.2)

/-- A decoder's profile: Main 4:2:2.10, or High 4:4:4.12 (R175). -/
def jxsProfile (samp : Nat) : Nat := if samp = 0 then 0 else 1

/-- A row as the decoder gives it, if some run of packets without a gap holds the whole codestream of its precinct (R175). -/
def State.decoded (s : State) (f seq row : Nat) : Option (List Byte) :=
  (tget? s.rx f).bind (fun r => (r.stream seq).findSome? (fun run =>
    Config.jxsLine run (s.fWidth false f) (s.fRows false f) (s.fSamp false f) (s.fDepth false f) row))

/-- A line's deadline passes (R166); a precinct of a decoded flow whose codestream is incomplete makes all its rows late at its first row's deadline
(R175). -/
def execLineDeadline (f slot row : Nat) (s : State) : Res :=
  match tget? s.rx f with
  | none => fin s
  | some r =>
    match tget? r.lines (slot * s.fRows false f + row) with
    | none => fin s
    | some l =>
      if l.present || !s.dueAt l.ldl then fin s
      else
        let np := (Config.jxsShape (s.fWidth false f) (s.fRows false f) (jxsProfile (s.fSamp false f))).1
        let h := max 1 (ceilDiv (s.fRows false f) (max 1 np))
        let rows := if s.fKind false f = 1 && row % h = 0 && (s.decoded f l.seq row).isNone then (List.range h).map (fun i => row + i) else [row]
        fin (rows.foldl (fun s' k => match (tget? s'.rx f).bind (fun x => tget? x.lines (slot * s.fRows false f + k)) with
          | some m => if m.present || s.fRows false f ≤ k then s'
            else (s'.setRxLine f m.seq k { m with present := true, late := true }).rxHeader f m.seq k 3 m.pix
          | none => s') s)

/-- A decoder engine delivers a line of the flow that it is attached to, decoded from the codestream that has come (R175). -/
def execJxsLineDecoded (f seq row engine : Nat) (s : State) : Res :=
  if !s.flowOn false f || s.fKind false f ≠ 1 || decide (engine < 8) || bits (s.fCtl false f) 59 56 ≠ engine || s.fRows false f ≤ row then fin s
  else match s.decoded f seq row with
    | none => fin s
    | some data =>
      let n := ceilDiv (s.fWidth false f) (pgPix (s.fSamp false f) (s.fDepth false f)) * pgBytes (s.fSamp false f) (s.fDepth false f)
      fin (s.landSeg f seq row 0 ((data ++ List.replicate (n - data.length) 0).take n)).1

/-- A record enters a ring: its bytes, then bytes 12 to 15, a release at DEV scope (R174). -/
def State.ringRecord (s : State) (f va : Nat) (bs : List Byte) : State :=
  let ctx := s.fCtx false f
  match s.access ctx .ring va bs.length with
  | .error _ => s.poisonFlow false f
  | .ok ps =>
    let all := s.bytesWith ctx .glb va (fun i => if 12 ≤ i && decide (i < 16) then 1 else 0) ((paList ps).map Loc.mem)
    let part (s : State) (y : Sync) (p : Nat → Bool) : State :=
      let here := (List.range bs.length).filter p
      s.enterWrites (writesAt (s.placeOf (engineOf 6 f)) y (here.filterMap (fun i => all[i]?)) (here.filterMap (fun i => bs[i]?)))
    part (part s Sync.plain (fun i => !(decide (12 ≤ i) && decide (i < 16)))) ⟨false, true, 3, 1⟩ (fun i => decide (12 ≤ i) && decide (i < 16))

/-- A flow receives an audio or ancillary packet, a record of its byte ring (R174). A pad record's time and sequence number are not stated: free
values. -/
def State.rxRecord (s : State) (f : Nat) (p : RecordPacket) : State :=
    match s.legSeen f p.eseq with
    | none => s
    | some s =>
      match tget? s.rx f with
      | none => s
      | some r =>
        let rsize := s.fStride false f
        let need := 16 + 16 * ceilDiv p.payload.length 16
        if rsize < need then s
        else
          let ring := s.fRing false f
          let past := decide (rsize < r.wpos + need)
          let pad := past && decide (r.wpos + 16 ≤ rsize)
          let hdr (time len seq flags num : Nat) : List Byte := leBytes 8 time ++ leBytes 2 len ++ leBytes 2 seq ++ leBytes 4 (flags + num % 2 ^ 24 * 256)
          let s1 := if pad then
              s.ringRecord f ((ring + r.wpos) % 2 ^ 72) (hdr (Config.free s.oracle 10 0) 0 (Config.free s.oracle 10 1) 3 r.recNo)
            else s
          let num := if pad then r.recNo + 1 else r.recNo
          let pos := if past then 0 else r.wpos
          let time := clampTime (s.frameTime f p.ts + s.fOfs0 false f)
          let bs := hdr time p.payload.length (p.eseq % 65536) 1 num ++ p.payload ++ List.replicate (need - 16 - p.payload.length) 0
          let s2 := s1.ringRecord f ((ring + pos) % 2 ^ 72) bs
          let s3 := { s2 with rx := tmod s2.rx f (fun x => { x with wpos := pos + need, recNo := (num + 1) % 2 ^ 24 }) }
          s3.setField (flowBlk false f + 0x48) 0 0 1

/-- An audio or ancillary packet: every flow that it is addressed to receives it (R401). -/
def execRxRecordPacket (port : Nat) (p : RecordPacket) (s : State) : Res :=
  fin (((s.rx.map (fun r => r.1)).filter (fun f => (s.fKind false f = 2 || s.fKind false f = 3) && s.fTakes f port p.udp p.addr)).foldl (fun s f => s.rxRecord f p) s)

/-! ### Transmit (R172, R173, R176) -/

/-- The frame time of the next frame, when it is known (R172). -/
def State.nextFtx (s : State) (f : Nat) (x : TxFlow) : Option Nat :=
  match x.ftx with
  | some t => some t
  | none =>
    match x.committed x.frame 0 with
    | some t => some (clampTime ((t : Int) + s.fOfs0 true f))
    | none => if x.frame = 0 then none else some (clampTime ((x.prevFtx + s.fPeriod true f : Nat) : Int))

/-- A row of fill constants. -/
def State.fillRow (s : State) (f : Nat) : List Byte :=
  let samp := s.fSamp true f
  let depth := s.fDepth true f
  let pg := (List.range (pgPix samp depth)).foldl (fun b i => [0, 1, 2].foldl (fun b j => pgSet samp depth b i j (s.fFill true f j)) b)
    (List.replicate (pgBytes samp depth) 0)
  (List.range (ceilDiv (s.fWidth true f) (pgPix samp depth))).flatMap (fun _ => pg)

/-- Payload bytes of a row. -/
def State.rowBytes (s : State) (f : Nat) : Nat :=
  ceilDiv (s.fWidth true f) (pgPix (s.fSamp true f) (s.fDepth true f)) * pgBytes (s.fSamp true f) (s.fDepth true f)

/-- The wall output drives the flow (R403). -/
def State.wallFlow (s : State) (f : Nat) : Bool := bitAt (s.r32 0x0028) 31 && bits (s.r32 0x0028) 7 0 = f

/-- The bytes sent for the due row, and the state after reading them (R172, R173, R387). A late row of frame 0, which has no previous frame, is
sent as the fill constants, FSTORE set or not (DESIGN CHOICE, notes/assumptions/114). -/
def State.dueRow (s : State) (f : Nat) (x : TxFlow) : State × List Byte :=
  let rd (s : State) (q : Nat) : State × List Byte :=
    match s.ringRead true f ((s.lineAddr true f q x.row + 64) % 2 ^ 72) (s.rowBytes f) with
    | .ok bs => (s, bs)
    | .error _ => (s.poisonFlow true f, s.fillRow f)
  if x.poison then (s, s.fillRow f)
  else if s.wallFlow f then
    match s.ringRead true f ((x.image.getD 0 + x.row * s.fStride true f + 64) % 2 ^ 72) (s.rowBytes f) with
    | .ok bs => (s, bs)
    | .error _ => (s.poisonFlow true f, s.fillRow f)
  else if (x.committed x.frame x.row).isSome then rd s x.frame
  else
    let s1 := s.w32 (flowBlk true f + 0x40) (min (s.r32 (flowBlk true f + 0x40) + 1) (2 ^ 32 - 1))
    if s.fStore true f && decide (0 < x.frame) then rd s1 (x.frame - 1) else (s1, s.fillRow f)

/-- The first (Q, R) in the order of R176 whose precinct fits. -/
def jxsChoose (size : List Nat → Nat) (nb : Nat) (g p : Nat → Nat) (avail : Int) : Option (List Nat) :=
  ((List.range 32).flatMap (fun q => (List.range (nb + 1)).reverse.map (fun r =>
    (List.range nb).map (fun b => q - g b - (if p b < r then 1 else 0))))).find? (fun t => decide ((size t : Int) ≤ avail))

/-- A precinct's bytes: of the standard's coding methods the one with the smallest size, the lowest number among equals (R176). -/
def jxsBytes (pixels : List Nat) (width rows profile precinct : Nat) (trunc : List Nat) : List Nat :=
  let of_ (m : Nat) : List Nat := Config.jxsPrecinct pixels width rows profile precinct trunc m
  of_ ((List.range Config.jxsMethods).foldl (fun best m => if (of_ m).length < (of_ best).length then m else best) 0)

/-- A frame's codestream (R176): header bytes, precincts, padding; and whether some precinct exceeded its share. -/
def jxsEncode (pixels : List Nat) (width rows profile bpp : Nat) (g p : Nat → Nat) (padByte : Nat → Nat) : List Byte × Bool :=
  let shape := Config.jxsShape width rows profile
  let hdr := Config.jxsHeader width rows profile bpp
  let np := shape.1
  let nb := shape.2
  let B : Int := ((bpp * width * rows / 128 : Nat) : Int) - (hdr.length : Int)
  let enc (k : Nat) (t : List Nat) : List Nat := jxsBytes pixels width rows profile k t
  let res := (List.range np).foldl (fun (a : List Byte × Int × Bool) k =>
    let avail := B * (k + 1 : Nat) / (np : Int) - B * (k : Nat) / (np : Int) + a.2.1
    let worst := (List.range nb).map (fun b => 31 - g b)
    let t := jxsChoose (fun t => (enc k t).length) nb g p avail
    let out := enc k (t.getD worst)
    (a.1 ++ out.map (BitVec.ofNat 8), avail - (out.length : Nat), a.2.2 || t.isNone)) (hdr.map (BitVec.ofNat 8), 0, false)
  (res.1 ++ (List.range res.2.1.toNat).map (fun i => BitVec.ofNat 8 (padByte i)), res.2.2)

/-- The weight table's gain and priority of a band: two bytes for each band (R177). -/
def State.weight (s : State) (f b j : Nat) : Nat :=
  match s.vread (s.fCtx true f) .engine ((s.r64 (flowBlk true f + 0x38) + 2 * b + j) % 2 ^ 72) 1 with
  | .ok bs => leNat bs
  | .error _ => 0

/-- The pixels of sent rows, component by component. -/
def State.sentPixels (s : State) (f : Nat) (rows : List (List Byte)) : List Nat :=
  let samp := s.fSamp true f
  let depth := s.fDepth true f
  rows.flatMap (fun bs => (List.range (s.fWidth true f)).flatMap (fun x =>
    let pg := (bs.drop (x / pgPix samp depth * pgBytes samp depth)).take (pgBytes samp depth)
    (List.range 3).map (pgComp samp depth pg (x % pgPix samp depth))))

/-- Packets of a port that is not up are discarded and counted, saturating; how many packets one row takes is not stated: a free number. -/
def State.dropPackets (s : State) (port : Nat) : State :=
  s.w32 (portBlk port + 0x20) (min (s.r32 (portBlk port + 0x20) + 1 + Config.free s.oracle 12 port % 4096) (2 ^ 32 - 1))

/-- What leaves for the wire: a row, or with a codec the frame's codestream at its last row; a port that is not up discards packets (R400). -/
def State.emitRow (s : State) (f rtp row : Nat) (bs : List Byte) (sent : List (List Byte)) : State :=
  let port := bits (s.fCtl true f) 51 48
  if s.fKind true f = 1 then
    if row + 1 < s.fRows true f || bits (s.fCtl true f) 59 56 < 8 then s
    else
      let e := jxsEncode (s.sentPixels f sent) (s.fWidth true f) (s.fRows true f) (jxsProfile (s.fSamp true f)) (s.r32 (flowBlk true f + 0x58) % 65536)
        (fun b => s.weight f b 0) (fun b => s.weight f b 1) (fun i => Config.free s.oracle 11 i)
      let s := if e.2 then s.countField (flowBlk true f + 0x48) 15 8 else s
      if s.portUp port then { s with out := s.out ++ [.codestream (s.fDest f) f rtp e.1] } else s.dropPackets port
  else if s.portUp port then { s with out := s.out ++ [.row (s.fDest f) f rtp row bs] } else s.dropPackets port

/-- FTX of the frame being sent, and when its next row is due (R172). -/
def State.rowDue (s : State) (f : Nat) : Option (Nat × Nat) :=
  (tget? s.tx f).bind (fun x =>
    ((if s.wallFlow f then x.image.bind (fun _ => x.ftx) else s.nextFtx f x).bind (fun ftx =>
      if 1 < s.fKind true f then none else some (ftx, clampTime ((ftx : Int) + s.fOfs1 true f + (x.row * s.fLineNs true f : Nat))))))

/-- A transmit row is due: it is sent, and the flow goes on to the next row or frame (R172, R173). -/
def execTxRowDue (f : Nat) (s : State) : Res :=
  match tget? s.tx f with
  | none => fin s
  | some x =>
    match s.rowDue f with
    | none => fin s
    | some (ftx, due) =>
      if !s.dueAt due then fin s
      else
        let d := s.dueRow f x
        let sent := x.sent ++ [d.2]
        let s1 := d.1.emitRow f (ftx * 9 / 100000 % 2 ^ 32) x.row d.2 sent
        let last := decide (s.fRows true f ≤ x.row + 1)
        let s2 := { s1 with tx := tmod s1.tx f (fun y =>
          if last then
            { y with frame := y.frame + 1, row := 0, ftx := none, prevFtx := ftx, sent := [], image := none }
          else { y with row := y.row + 1, ftx := some ftx, sent := sent }) }
        let s3 := if last && !s.wallFlow f then
            { s2 with tx := tmod s2.tx f (fun y => { y with ftx := s2.nextFtx f { y with ftx := none } }) }
          else s2
        fin (s3.setField (flowBlk true f + 0x48) 0 0 1)

/-! ### Enabling and disabling (R167, R175, R177, R387, R400) -/

/-- A port of the current layout (R400). -/
def State.portPresent (s : State) (p : Nat) : Bool :=
  decide (p < (match bits (s.r32 0x0020) 1 0 with
    | 0 => 4
    | 1 => 8
    | _ => 16))

/-- The engine a control value attaches is held by another enabled flow (R175). -/
def State.engineTaken (s : State) (codec : Nat) : Bool :=
  s.rx.any (fun r => bits (s.fCtl false r.1) 59 56 = codec) || s.tx.any (fun r => bits (s.fCtl true r.1) 59 56 = codec)

/-- The checks of enabling a flow whose control word is v (R167, R173, R175, R177, R400). -/
def State.flowOk (s : State) (tx : Bool) (f v : Nat) : Bool :=
  let kind := bits v 43 41
  let codec := bits v 59 56
  let width := bits v 19 8 + 1
  let rows := bits v 32 20 + 1
  let samp := bits v 39 36
  let depth := 8 + 2 * bits v 35 34
  let period := s.fPeriod tx f
  let video := decide (kind < 2)
  let stride := s.fStride tx f
  decide (kind < 4) && decide (samp < 3) && bits v 35 34 ≠ 3 && bits v 7 6 ≠ 3 && (kind = 2 || bits v 7 6 = 0)
    && s.portPresent (bits v 51 48) && (!bitAt v 61 || s.portPresent (bits v 55 52)) && s.fRing tx f % 128 = 0
    && (if video then
          decide (1 ≤ bits v 47 44) && decide (rows ≤ 4096) && period ≠ 0 && stride % 128 = 0
            && decide (64 + ceilDiv width (pgPix samp depth) * pgBytes samp depth ≤ stride)
            && (codec < 8 || decide (width * rows * 1000000000 ≤ 3840 * 2160 * 60 * period) && !(s.engineTaken codec)
              && Config.jxsAllowed width rows period samp depth)
        else stride % 128 = 0 && decide (4096 ≤ stride) && (codec < 8 || !(s.engineTaken codec)))

/-- A 64-bit control word stored whole. -/
def State.setCtl (s : State) (tx : Bool) (f v : Nat) : State := s.w64 (flowBlk tx f) v

/-- EN is set: the flow starts from nothing, or BAD is set (R167, R177). -/
def State.enableFlow (s : State) (tx : Bool) (f value : Nat) : State :=
  let v := setBits (setBits value 63 63 1) 62 62 0
  if s.flowOn tx f || !bitAt value 63 then s
  else if !s.flowOk tx f v then s.setCtl tx f (setBits (setBits value 63 63 0) 62 62 1)
  else
    let s := s.setCtl tx f v
    if tx then { s with tx := tset s.tx f { frame := 0, row := 0, ftx := none, prevFtx := 0, lines := [], poison := false, sent := [], image := none } }
    else { s with rx := tset s.rx f { frames := [], lines := [], seen := [], poison := false, wpos := 0, recNo := 0 } }

/-- EN is cleared: the flow's progress is gone; parked stream instructions find it disabled (R387). -/
def State.disableFlow (s : State) (tx : Bool) (f value : Nat) : State :=
  if !s.flowOn tx f || bitAt value 63 then s
  else
    let s := s.setCtl tx f (setBits (s.fCtl tx f) 63 63 0)
    if tx then { s with tx := tdel s.tx f } else { s with rx := tdel s.rx f }

def execFlowEnable (tx : Bool) (f value : Nat) (s : State) : Res := fin (s.enableFlow tx f value)
def execFlowDisable (tx : Bool) (f value : Nat) (s : State) : Res := fin (s.disableFlow tx f value)

end Sys2Proof.Machine
end

