-- ==== Sys2Proof/Machine/Take.lean ====
section
/-! DEFINITION. Launch records, binding blocks, kernel descriptors and frame objects as the dispatcher reads them, and the take of a
record or node batch (21 R356 to R365, R374; 01 R21, R22; 02 R46 to R50; 08 R159, R160; 10 R197). -/

namespace Sys2Proof.Machine

/-! ### Fields of descriptors in memory -/

/-- n bytes at an offset, as a number. -/
def fld (bs : List Byte) (i n : Nat) : Nat := leNat ((bs.drop i).take n)

/-- An address in the 80-bit container of R21; none when bits [79:72] are not 0. -/
def container (bs : List Byte) (i : Nat) : Option VA := if fld bs (i + 9) 1 = 0 then some (BitVec.ofNat 72 (fld bs i 9)) else none

/-- Reads of descriptors by the device. -/
def State.dread (s : State) (ctx : Nat) (va n : Nat) : Option (List Byte) :=
  match s.vread ctx .engine va n with
  | .ok bs => some bs
  | .error _ => none

/-- The 64 bytes of a frame object as the device reads them (R47, R49): where software has written an 8-byte field from byte 8 on while STATE was OPEN or
READY, the field holds what it holds now or what it held before such a write, until the device writes SHOWN or HELD. -/
def State.frameRead (s : State) (ctx va : Nat) : Option (List Byte) :=
  match s.access ctx .engine va 64 with
  | .error _ => none
  | .ok ps =>
    let key (i : Nat) : Nat := (paList ps).getD i 0
    let device (w : Nat) : Bool := (s.ev w).thr.all Agent.isEngine
    let ended := ((s.order (key 25)).filter (fun w => device w && decide (3 ≤ (s.valueOf (key 25) (some w)).toNat))).foldl max 0
    let word (k : Nat) (b : Nat → Byte) : List Byte := (List.range 8).map (fun j => b (8 * k + j))
    let since (k : Nat) : List Nat := ((List.range 8).flatMap (fun j => (s.order (key (8 * k + j))).filter (fun w =>
      decide (ended ≤ w) && !device w && (s.asOf (key 25) w = 1 || s.asOf (key 25) w = 2)))).eraseDups
    some ((List.range 8).flatMap (fun k =>
      let now := word k (fun i => s.rd (key i))
      if k = 0 then now else choose s.oracle 42 k now (now :: (since k).map (fun w => word k (fun i => s.asOf (key i) w)))))

/-- The kernel descriptor of 64 bytes, if valid (R21, R22). -/
def parseKernel (bs : List Byte) : Option Kernel :=
  match container bs 0, container bs 10, container bs 20 with
  | some sentry, some lbase, some pstack =>
    let fl := fld bs 33 1
    let k : Kernel :=
      { sentry := sentry, lbase := lbase, pstack := pstack, pstackKib := fld bs 30 2, vregs8 := fld bs 32 1, ftz := bitAt fl 0,
        rgrpOk := bitAt fl 1, rgrpCore := bitAt fl 2, poolB1 := fld bs 34 1, poolB2 := fld bs 35 1, poolB3 := fld bs 36 1, yq := fld bs 37 1,
        bto := fld bs 38 2, rdepth := bits (fld bs 40 1) 3 0, payload := fld bs 41 1, sslots := bits (fld bs 42 2) 8 0, acct := fld bs 44 1,
        ptiles := fld bs 45 1 }
    if sentry.toNat % 4 = 0 && lbase.toNat % 16 = 0 && pstack.toNat % 65536 = 0 && k.pstackKib ≠ 0 && decide (1 ≤ k.vregs8)
        && decide (k.vregs8 ≤ 32) && fl / 8 = 0 && decide (k.poolB1 ≤ k.poolB2) && decide (k.poolB2 ≤ k.poolB3) && decide (k.poolB3 ≤ 64)
        && fld bs 40 1 / 16 = 0 && decide (k.payload ≤ 64) && fld bs 42 2 / 512 = 0 && decide (k.sslots ≤ 256) && decide (k.acct ≤ 32)
        && decide (k.ptiles ≤ 8) && fld bs 46 18 = 0
    then some k else none
  | _, _, _ => none

/-- Pool units that hold a number of register granules. Since fragmentation never delays residency (R18) no map of granules is kept, and a unit is
taken to return as soon as the granules in use fit one unit fewer (R62; DESIGN CHOICE, notes/assumptions/96). -/
def granuleUnits (n : Nat) : Nat := ceilDiv n 16

/-- One core and one quad hold a workgroup (R18, R22, R61, R62). -/
def Kernel.placeable (k : Kernel) (crews : Nat) : Bool := decide (k.poolB3 + granuleUnits (k.vregs8 * crews) ≤ 64)

/-- Some span has as many cores in service as a gang has members (R428). -/
def State.gangPlaceable (s : State) (gang : Nat) : Bool :=
  (List.range Config.spans).any (fun sp => decide (gang ≤ ((List.range 16).filter (fun c => s.quadLive ((16 * sp + c) / 4))).length))

/-- The fields of a launch record, and whether its containers and must-be-0 fields are as R359 says. -/
def parseRecord (bs : List Byte) : Option Record :=
  match container bs 0, container bs 10, container bs 20, container bs 54 with
  | some kd, some args, some frame, some bind =>
    let g := fld bs 32 8
    let fl := fld bs 52 1
    if bits g 63 60 = 0 && fl / 16 = 0 && fld bs 53 1 = 0 then
      some { kdesc := kd, args := args, frame := frame, crews := fld bs 30 1, gang := fld bs 31 1, gx := bits g 19 0, gy := bits g 39 20,
             gz := bits g 59 40, deadline := fld bs 40 8, est := fld bs 48 4, classD := bitAt fl 0, shed := bitAt fl 1, serial := bitAt fl 2,
             irq := bitAt fl 3, bind := bind }
    else none
  | _, _, _, _ => none

def Binding.none : Binding := ⟨List.replicate 8 0, 0, 0, 0⟩

/-- A binding block (R360). -/
def parseBinding (bs : List Byte) : Option Binding :=
  match container bs 16, container bs 40 with
  | some gate, some gxw =>
    let xb := (List.range 8).map (fun k => fld bs (2 * k) 2)
    if xb.all (fun x => bits x 14 9 = 0) && gate.toNat % 8 = 0 && gxw.toNat % 4 = 0 && fld bs 26 6 = 0 && fld bs 50 14 = 0 then
      some ⟨xb, gate, fld bs 32 8, gxw⟩
    else none
  | _, _ => none

/-- The binding block of a record; no block is the empty binding. -/
def State.readBinding (s : State) (ctx : Nat) (r : Record) : Option Binding :=
  if r.bind = 0 then some Binding.none
  else if r.bind.toNat % 64 ≠ 0 then none
  else (s.dread ctx r.bind.toNat 64).bind parseBinding

/-- A stream binding names an enabled flow of the context that does not drive the wall (R361, R168). -/
def State.bindOk (s : State) (ctx x : Nat) : Bool :=
  let tx := bitAt x 8
  let f := x % 256
  !bitAt x 15 || (s.flowOn tx f && s.fCtx tx f = ctx && !(tx && s.wallFlow f))

/-- The workgroup count fits a grid and its gangs (R359, R361). -/
def gridOk (r : Record) : Bool :=
  decide (r.total ≤ 2 ^ 32) && r.gang ≠ 1 && decide (r.gang ≤ 12) && (r.gang = 0 || r.total % r.gang = 0)

/-- A record with its binding is valid for a queue of a class (R361); `gx` whether GX is checked now. -/
def State.recordOk (s : State) (ctx : Nat) (classD gx : Bool) (r : Record) (b : Binding) : Bool :=
  decide (1 ≤ r.crews) && decide (r.crews ≤ 32) && decide (1 ≤ r.gy) && decide (1 ≤ r.gz) && r.frame.toNat % 64 = 0
    && r.classD = classD && r.gang ≠ 1 && decide (r.gang ≤ 12) && (!gx || (decide (1 ≤ r.gx) && gridOk r))
    && !(r.classD && r.deadline = 0 && r.frame = 0) && b.xb.all (s.bindOk ctx)

/-! ### Frames and radiance versions (R50, R159, R160) -/

/-- A frame object of 64 bytes, captured if its STATE is OPEN or READY; and its four switch times. Bytes 28 to 31, which must be 0, are ignored (R46
gives no consequence; DESIGN CHOICE, notes/assumptions/97). -/
def parseFrame (obj : VA) (bs : List Byte) : Option (FrameCap × List Nat) :=
  let st := fld bs 25 1
  if st = 1 || st = 2 then
    let pres := fld bs 8 8
    some (⟨fld bs 0 8, pres, min (fld bs 16 8) pres, fld bs 24 1, fld bs 26 2, obj⟩, (List.range 4).map (fun n => fld bs (32 + 8 * n) 8))
  else none

/-- The completed versions of a slot: 0 for A, 1 for B, with their switch frame numbers. -/
def Rco.complete (r : Rco) : List (Nat × Nat) := r.sfnA.toList.map (fun f => (0, f)) ++ r.sfnB.toList.map (fun f => (1, f))

/-- SFN of the newest completed version. -/
def Rco.newestSfn (r : Rco) : Nat := (if r.newestB then r.sfnB else r.sfnA).getD 0

/-- The version a launch captures, with or without a frame (R159). -/
def Rco.capture (r : Rco) (frame : Option Nat) : Nat :=
  match frame with
  | none => if r.newestB then 1 else 0
  | some f =>
    let better (a b : Nat × Nat) : Nat × Nat :=
      if a.2 ≤ f then (if b.2 ≤ f && decide (a.2 < b.2) then b else a) else if b.2 ≤ f then b else if b.2 < a.2 then b else a
    match r.complete with
    | [] => 0
    | x :: xs => (xs.foldl better x).1

/-- Frame capture schedules a switch of each bound slot whose time it sets (R160). -/
def State.scheduleSwitches (s : State) (ctx frame : Nat) (rsw : List Nat) : State :=
  { s with rcos := s.rcos.map (fun (e : Nat × Rco) =>
      let t := rsw.getD e.1 (2 ^ 64 - 1)
      if t ≠ 2 ^ 64 - 1 && e.2.ctx = ctx && decide (e.2.newestSfn < frame) && e.2.pending.isNone then
        (e.1, { e.2 with pending := some (t, frame), heldCounted := false, due := false })
      else e) }

/-- The capture of every slot bound to a context, and the slots whose capture waits for their switch (R159, R160). -/
def State.captureVersions (s : State) (ctx : Nat) (frame : Option Nat) : Tbl Nat × List Nat :=
  let mine := s.rcos.filter (fun e => e.2.ctx = ctx && !e.2.unbinding)
  let waits (e : Nat × Rco) : Bool := match e.2.pending, frame with
    | some p, some f => decide (p.2 ≤ f)
    | _, _ => false
  ((mine.filter (fun e => !waits e)).map (fun e => (e.1, e.2.capture frame)), (mine.filter waits).map (fun e => e.1))

/-! ### The take (R362) -/

/-- The next launch identifier, and the state that has given it (R373). -/
def nextLid (s : State) : Nat := s.r32 (0x00081000 + 8)
def State.tookLid (s : State) : State := s.w32 (0x00081000 + 8) (if nextLid s = 0xFFFFFFFE then 0 else nextLid s + 1)

/-- The status with which a take fails, with the deadline of the captured frame, or the launch (R362, R50, R22): the record and binding are valid
and their waits over. `start` are the events that come before its accesses (R87, R262). -/
def State.takeRecord (s : State) (q ctx lid : Nat) (ring : Option Nat) (r : Record) (b : Binding) (useGxw : Bool) (batch : Option Batch) (start : List Nat) :
    State × Except (Nat × Option Nat) Launch :=
  let frame := if r.frame = 0 then some none else ((s.frameRead ctx r.frame.toNat).bind (parseFrame r.frame)).map some
  match frame with
  | none => (s, .error (5, none))
  | some fr =>
    let s := match fr with
      | some f => s.scheduleSwitches ctx f.1.frameNo f.2
      | none => s
    let caps := s.captureVersions ctx (fr.map (fun f => f.1.frameNo))
    let fdl := fr.map (fun f => f.1.deadline)
    let gx := if useGxw && b.gxw ≠ 0 then (s.dread ctx b.gxw.toNat 4).map leNat else some r.gx
    match gx with
    | none => (s, .error (6, fdl))
    | some 0 => (s, .error (1, fdl))
    | some gx =>
      let r := { r with gx := gx }
      if 2 ^ 20 - 1 < gx || !gridOk r then (s, .error (6, fdl))
      else
        match if r.kdesc.toNat % 64 = 0 then (s.dread ctx r.kdesc.toNat 64).bind parseKernel else none with
        | none => (s, .error (3, fdl))
        | some k =>
          if !k.placeable r.crews || !s.gangPlaceable r.gang then (s, .error (4, fdl))
          else
            (s, .ok { lid := lid, queue := q, ring := ring, ctx := ctx, record := r, bind := b, kern := k, frame := fr.map (fun f => f.1),
                      versions := caps.1, deferred := caps.2, est := if r.est ≠ 0 then r.est else s.r32 (qBlk q + 0x30), tstart := 0, charge := 0,
                      nextWg := 0, doneWgs := 0, lateDone := false, gangWait := if caps.2.isEmpty then some s.tnow else none, batch := batch, start := start })

/-- The watch of a gate ends: the next one begins afresh (R262). -/
def State.endGate (s : State) (g : Nat) : State := { s with gateFailed := s.gateFailed.filter (fun x => x ≠ g), gateMet := tdel s.gateMet g }

/-- The watcher reads a gate's counter, an acquire for the launch to come (R262, R362). -/
def State.gateRead (s : State) (ctx : Nat) (b : Binding) : Except AccFault (State × Nat × List Nat) :=
  s.watchFor [.thread ⟨nextLid s, 0, 0, 0⟩] [] 0 ctx b.gate.toNat

/-- A gate's counter has reached its threshold, when read now, with what that acquires; a failing read is reported once per run of failures (R262,
R362). `g` is the queue, or 64 + node. -/
def State.gateOpen (s : State) (ctx g : Nat) (b : Binding) : State × Option (List Nat) :=
  if b.gate = 0 then (s, some [])
  else match s.gateRead ctx b with
    | .ok (t, v, trig) =>
      if b.gthr ≤ v then ({ t with gateFailed := t.gateFailed.filter (fun x => x ≠ g) }, some trig)
      else ({ s with gateFailed := s.gateFailed.filter (fun x => x ≠ g) }, none)
    | .error f =>
      if s.gateFailed.contains g then (s, none)
      else
        ({ s.report ctx 24 0 0 0 0 0xFFFFFFFF 0 0 ⟨0, none⟩ f.addr [(64, 1, 9), (65, 1, f.level)] none none none false with
            gateFailed := s.gateFailed ++ [g], gateMet := tdel s.gateMet g }, none)

/-- The queue takes records (R356, R365, R371). -/
def State.qOpen (s : State) (q : Nat) : Bool :=
  bitAt (s.r32 (qBlk q)) 31 && !bitAt (s.r32 (qBlk q + 0x38)) 2 && s.r32 (qBlk q + 0x28) ≠ s.r32 (qBlk q + 0x2C)
    && s.launches.all (fun l => l.2.queue ≠ q || l.2.batch.isSome || decide (l.2.record.total ≤ l.2.nextWg))

def State.qClassD (s : State) (q : Nat) : Bool := bitAt (s.r32 (qBlk q)) 28

/-- A record that ends without a launch of its own gets its completion entry, with the deadline and IRQ of the record's bytes if they could be
read, else of no record (R364, R371). -/
def State.endRecord (s : State) (q n lid status : Nat) (bytes : Option (List Byte)) (frame : Option Nat) : State :=
  let own := bytes.elim 0 (fun b => fld b 40 8)
  let dl : Option Nat := if own ≠ 0 then some own else frame
  let late := dl.elim false (fun d => decide (d < s.tnow))
  s.writeCompletion q n 0 s.tnow 0 lid status (if late then 1 else 0) (bytes.elim false (fun b => bitAt (fld b 52 1) 3)) (tget [] s.bells q) none

/-- The record at a queue's head is looked at: it is invalid, held, or taken (R362). -/
def State.takeHead (s : State) (q : Nat) : State :=
  if !s.qOpen q || s.bootState ≠ 6 then s
  else
    let ctx := s.qCtx q
    let n := s.r32 (qBlk q + 0x2C)
    let next (s : State) : State := { (s.endGate q).w32 (qBlk q + 0x2C) (n + 1) with heldHeads := s.heldHeads.filter (fun x => x ≠ q) }
    let bytes := s.dread ctx (((s.addr72 (qBlk q + 0x08) (qBlk q + 0x10)).toNat + 64 * (n % s.qSize q)) % 2 ^ 72) 64
    let invalid : State := (next s).endRecord q n 0xFFFFFFFF 6 bytes none
    match bytes.bind parseRecord with
    | none => invalid
    | some r =>
      match s.readBinding ctx r with
      | none => invalid
      | some b =>
        if !s.recordOk ctx (s.qClassD q) (b.gxw = 0) r b then invalid
        else
          let hold (s : State) : State := if s.heldHeads.contains q then s else { s with heldHeads := s.heldHeads ++ [q] }
          if r.serial && s.launches.any (fun l => l.2.queue = q && l.2.batch.isNone) then hold s
          else
            match s.gateOpen ctx q b with
            | (s, none) => hold s
            | (s, some got) =>
              let lid := nextLid s
              match ((next s).tookLid).takeRecord q ctx lid (some n) r b true none (tget [] s.bells q ++ got) with
              | (s, .ok l) => { s with launches := tset s.launches lid l }
              | (s, .error st) => s.endRecord q n lid st.1 bytes st.2

/-! ### Node batches (R197, R374) -/

/-- The template of a node as each batch uses it. -/
def State.template (s : State) (nd : Node) : Option (Record × Binding) :=
  match (s.dread nd.ctx nd.tmpl.toNat 64).bind parseRecord with
  | none => none
  | some r =>
    match s.readBinding nd.ctx r with
    | none => none
    | some b => if s.recordOk nd.ctx (s.qClassD nd.qid) (b.gxw = 0) r b then some (r, b) else none

/-- A take has failed: the batch's and the queued records go back, the node is disabled and reported (R374). -/
def State.nodeFail (s : State) (n status : Nat) : State :=
  match tget? s.nodes n with
  | none => s
  | some nd =>
    let s := (s.freeRecs nd.pool (nd.queue.map (fun e => e.1))).endGate (64 + n)
    let s := { s with nodes := tdel s.nodes n }
    let s := (s.setField (nodeBlk n) 31 31 0).setField (nodeBlk n) 30 30 1
    s.report nd.ctx 37 1 0 0 0 0xFFFFFFFF 0 0 ⟨0, none⟩ 0 [(64, 1, n), (65, 1, status)] none none none false

/-- A batch of the first k records of a node is launched, when its waits allow. -/
def State.nodeTake (s : State) (n k : Nat) : State :=
  match tget? s.nodes n with
  | none => s
  | some nd =>
    match s.template nd with
    | none => s.nodeFail n 6
    | some (r, b) =>
      if r.serial && s.launches.any (fun l => l.2.batch.elim false (fun x => x.node = n)) then s
      else
        match s.gateOpen nd.ctx (64 + n) b with
        | (s, none) => s
        | (s, some got) =>
          let lid := nextLid s
          let batch : Batch := ⟨n, nd.pool, (nd.queue.take k).map (fun e => e.1), false, (tget? s.pools nd.pool).elim 0 (fun p => p.rlines)⟩
          match s.tookLid.takeRecord nd.qid nd.ctx lid none { r with gx := 1, gy := 1, gz := 1, gang := 0 } b false (some batch) (tget [] s.bells (64 + n) ++ got) with
          | (s, .ok l) =>
            { s.endGate (64 + n) with launches := tset s.launches lid l, nodes := tset s.nodes n { nd with queue := nd.queue.drop k } }
          | (s, .error st) => s.nodeFail n st.1

/-- The node's queue holds a batch, or its oldest record's time is up (R197, R43); the number of records to launch. -/
def State.batchDue (s : State) (nd : Node) : Nat :=
  if nd.batch ≤ nd.queue.length then nd.batch
  else match nd.queue with
    | [] => 0
    | (_, t) :: _ => if nd.timeout ≠ 2 ^ 32 - 1 && decide (t + nd.timeout ≤ s.tnow) then nd.queue.length else 0

/-- Every batch of a node that may start. -/
def State.tryNode : Nat → State → Nat → State
  | 0, s, _ => s
  | fuel + 1, s, n =>
    match tget? s.nodes n with
    | none => s
    | some nd =>
      let k := s.batchDue nd
      if k = 0 || s.bootState ≠ 6 then s
      else
        let s' := s.nodeTake n k
        if (tget? s'.nodes n).elim true (fun x => x.queue.length = nd.queue.length) then s' else State.tryNode fuel s' n

def State.tryNodes (s : State) : State :=
  s.nodes.foldl (fun s n => s.tryNode (n.2.queue.length + 1) n.1) s

end Sys2Proof.Machine
end

