-- ==== Sys2Proof/Machine/Launch.lean ====
section
/-! DEFINITION. The dispatcher's events: doorbells, takes, slack, placement and gang reservation, the enabling of queues, pools, nodes and
hardware work queues (21 R356 to R375; 01 R17 to R19, R23; 09 R168; 10 R197). -/

namespace Sys2Proof.Machine

/-! ### Resources (R18, R61, R62, R119) -/

/-- It holds its quad's resources (R390). -/
def Workgroup.onQuad (w : Workgroup) : Bool := w.phase ≠ .evicted

def State.kernOfLid (s : State) (lid : Nat) : Kernel := (s.launch? lid).elim Kernel.none (fun l => l.kern)

/-- The workgroups that hold resources of a core, of a quad. -/
def State.coreWgs (s : State) (core : Nat) : List Workgroup := (s.wgs.map (fun w => w.2)).filter (fun w => w.core = core && w.onCore)
def State.quadWgs (s : State) (quad : Nat) : List Workgroup := (s.wgs.map (fun w => w.2)).filter (fun w => w.core / 4 = quad && w.onQuad)

def sumOf (f : Kernel → Nat) (s : State) (ws : List Workgroup) : Nat := ws.foldl (fun n w => n + f (s.kernOfLid w.lid)) 0

/-- The crew slots of a core that belong to a workgroup, by partition and slot: a workgroup keeps its slots until it retires (R20). -/
def State.coreSlots (s : State) (core : Nat) : List (Nat × Nat) := (s.coreWgs core).flatMap (fun w => w.slots)

/-- A core supplies at once all that one more workgroup needs (R18). -/
def State.fits (s : State) (core : Nat) (k : Kernel) (crews : Nat) : Bool :=
  let ws := s.coreWgs core
  let q := s.quadWgs (core / 4)
  s.quadLive (core / 4) && !(s.reeve.retiring.contains (core / 4))
    && s.wgs.all (fun w => !(w.2.core = core && w.2.phase = .emergency))
    && decide ((s.coreSlots core).length + crews ≤ 64)
    && decide (ws.foldl (fun n w => n + (s.kernOfLid w.lid).poolB3) 0 + k.poolB3
        + granuleUnits (ws.foldl (fun n w => n + w.granules) 0 + k.vregs8 * crews) ≤ 64)
    && decide (sumOf Kernel.sslots s q + k.sslots ≤ 256) && decide (sumOf Kernel.acct s q + k.acct ≤ 32)
    && decide (sumOf Kernel.ptiles s q + k.ptiles ≤ 8)
    && decide (sumOf (fun k => ceilDiv k.sslots 4) s q + ceilDiv k.sslots 4 ≤ 64)

/-- A quad supplies at once what n more workgroups need (R18, R119). -/
def State.quadFits (s : State) (quad : Nat) (k : Kernel) (n : Nat) : Bool :=
  let q := s.quadWgs quad
  decide (sumOf Kernel.sslots s q + n * k.sslots ≤ 256) && decide (sumOf Kernel.acct s q + n * k.acct ≤ 32)
    && decide (sumOf Kernel.ptiles s q + n * k.ptiles ≤ 8)
    && decide (sumOf (fun k => ceilDiv k.sslots 4) s q + n * ceilDiv k.sslots 4 ≤ 64)

/-- The workgroups of a launch that distinct cores of a span, of those that `ok` names, can hold at once. -/
def State.spanRoom (s : State) (l : Launch) (ok : Nat → Bool) (span : Nat) : Nat :=
  (List.range 4).foldl (fun n i =>
    let q := 4 * span + i
    let cores := ((List.range 4).filter (fun c => ok (4 * q + c) && s.fits (4 * q + c) l.kern l.record.crews)).length
    n + ((List.range (cores + 1)).filter (s.quadFits q l.kern)).foldl max 0) 0

/-- The launch's next gang or workgroup can be placed on cores that `ok` names as things stand. -/
def State.roomOn (s : State) (l : Launch) (ok : Nat → Bool) : Bool :=
  if l.record.gang = 0 then (List.range Config.cores).any (fun c => ok c && s.fits c l.kern l.record.crews)
  else (List.range Config.spans).any (fun sp => decide (l.record.gang ≤ s.spanRoom l ok sp))
def State.hasRoom (s : State) (l : Launch) : Bool := s.roomOn l (fun _ => true)

/-- The crew slots a placement names are free and distinct (R17). -/
def State.slotsOk (s : State) (p : Place) (crews : Nat) : Bool :=
  p.slots.length = crews && p.slots.all (fun x => decide (x.1 < 4) && decide (x.2 < 16) && !((s.coreSlots p.core).contains x))
    && p.slots.eraseDups.length = crews

/-! ### Class rules (R366 to R369) -/

/-- Workgroups of a launch still to place. -/
def Launch.toPlace (l : Launch) : Bool := decide (l.nextWg < l.record.total)

/-- A D-class launch that comes before another (R366). -/
def Launch.before (a b : Launch) : Bool :=
  let d (l : Launch) : Nat := l.deadline.getD (2 ^ 64)
  decide (d a < d b) || (d a = d b && decide (a.queue < b.queue))

/-- The launch is of class D, has a workgroup to place, and nothing but room keeps it (R366). -/
def Launch.dReady (l : Launch) : Bool := l.record.classD && l.toPlace && l.deferred.isEmpty

/-- The launch is the next D-class launch to place: the one whose workgroup waits for room, or else the one with the earliest deadline (R366). -/
def State.nextD (s : State) (l : Launch) : Bool :=
  match s.dWaits with
  | some lid => lid = l.lid
  | none => s.launches.all (fun m => !(m.2.dReady && m.2.before l))

/-- The next D-class workgroup that finds no room waits for it, and until it is placed no other launch's is placed (R366). -/
def State.settleWait (s : State) : State :=
  if (s.dWaits.bind s.launch?).elim false Launch.dReady then s
  else
    let s := { s with dWaits := none }
    { s with dWaits := (s.launches.find? (fun m => m.2.dReady && s.nextD m.2 && !s.hasRoom m.2)).map (fun m => m.1) }

/-- A D-class placement can be made, and comes before every T-class one (R366). -/
def State.dFirst (s : State) : Bool :=
  s.launches.any (fun m => m.2.dReady && s.nextD m.2 && s.hasRoom m.2)

/-- T-class queues with a launch to place. -/
def State.tQueues (s : State) : List Nat :=
  ((s.launches.filter (fun l => !l.2.record.classD && l.2.toPlace && l.2.deferred.isEmpty)).map (fun l => l.2.queue)).eraseDups

/-- Deficits brought up to date: 0 for a queue with nothing to place, and a quantum for every other when none is above 0 (R367). -/
def State.refill : Nat → State → State
  | 0, s => s
  | fuel + 1, s =>
    let qs := s.tQueues
    if qs.isEmpty || qs.any (fun q => decide (0 < tget 0 s.deficits q)) then s
    else
      State.refill fuel { s with deficits := qs.foldl (fun t q =>
        let quantum : Int := max 1 (s.r32 (qBlk q + 0x34))
        tset t q (min (tget 0 t q + quantum) (4 * quantum))) s.deficits }

def State.settleDeficits (s : State) : State :=
  let qs := s.tQueues
  let s := { s with deficits := s.deficits.filter (fun e => qs.contains e.1) }
  let worst := s.deficits.foldl (fun n e => max n (-e.2).toNat) 0
  s.refill (worst + 1)

/-- Cores that hold T-class workgroups. -/
def State.tCores (s : State) : List Nat :=
  ((s.wgs.filter (fun w => w.2.onCore && (s.launch? w.2.lid).elim false (fun l => !l.record.classD))).map (fun w => w.2.core)).eraseDups

/-- The cores of a span that can take a member of a launch's gang. -/
def State.canTake (s : State) (l : Launch) (span : Nat) : List Nat :=
  ((List.range 16).map (fun c => 16 * span + c)).filter (fun c => s.fits c l.kern l.record.crews)

/-- Every core of a reserved span that can take a member joins the reservation, and stays in it (R369). -/
def State.settleReserved (s : State) : State :=
  { s with reserved := s.reserved.map (fun (r : Nat × Nat × Nat × List Nat) => match s.launch? r.2.1 with
      | some l => (r.1, r.2.1, r.2.2.1, r.2.2.2 ++ (s.canTake l r.1).filter (fun c => !r.2.2.2.contains c))
      | none => r) }

/-- The dispatcher's accounts, brought up to date as things stand (R366, R367, R369). -/
def State.settleDispatch (s : State) : State := s.settleDeficits.settleReserved.settleWait

/-- The reservation of the span keeps this placement off the core (R369). -/
def State.reservedOff (s : State) (core : Nat) (l : Launch) (gi : Option Nat) : Bool :=
  match tget? s.reserved (core / 16) with
  | none => false
  | some (lid, g, cores) => !(l.record.classD) && !(l.lid = lid && gi = some g) && cores.contains core

/-- T-class placements may use a core: it is not being freed or reserved for others (R366, R369). -/
def State.tCoreOk (s : State) (l : Launch) (core : Nat) : Bool :=
  !s.reservedOff core l (if l.record.gang = 0 then none else some (l.nextWg / l.record.gang)) && (tget? s.freeing core).isNone

/-- Cores that T-class workgroups may hold (R368). -/
def State.tLimit (s : State) : Nat := 4 * s.quadsLive - min (s.r32 0x00081000 % 256) (4 * s.quadsLive)

/-- The next workgroup or gang of a T-class launch finds cores that class rules leave it: those that hold T-class workgroups already, and as many
others as R368 allows. -/
def State.tRoom (s : State) (l : Launch) : Bool :=
  let ts := s.tCores
  let more := s.tLimit - ts.length
  let old (c : Nat) : Bool := s.tCoreOk l c && ts.contains c
  decide (ts.length ≤ s.tLimit) &&
    (if l.record.gang = 0 then s.roomOn l (fun c => s.tCoreOk l c && (decide (1 ≤ more) || ts.contains c))
     else (List.range Config.spans).any (fun sp =>
      decide (l.record.gang ≤ s.spanRoom l old sp + min more (s.spanRoom l (s.tCoreOk l) sp - s.spanRoom l old sp))))

/-- The T-class queue served next: from the last one served upward and round again, the first with a positive deficit whose next workgroup finds
room (R367). -/
def State.tTurn (s : State) : Option Nat :=
  let can (q : Nat) : Bool := decide (0 < tget 0 s.deficits q)
    && s.launches.any (fun l => l.2.queue = q && !l.2.record.classD && l.2.toPlace && l.2.deferred.isEmpty && s.tRoom l.2)
  ((List.range 64).map (fun i => (s.tNext + i) % 64)).find? can

/-- The placement of workgroups of a launch on these cores is permitted by class (R366 to R368). -/
def State.classOk (s : State) (l : Launch) (cores : List Nat) (gi : Option Nat) : Bool :=
  if l.record.classD then s.nextD l
  else
    !s.dFirst && decide (0 < tget 0 s.deficits l.queue) && s.tTurn.elim true (fun q => q = l.queue)
      && decide ((s.tCores ++ cores).eraseDups.length ≤ s.tLimit)
      && cores.all (fun c => !s.reservedOff c l gi && (tget? s.freeing c).isNone)

/-! ### Placement (R17, R19, R23) -/

/-- Start state of crew k of a workgroup, with the slot the placement gives it. -/
def newCrew (l : Launch) (g wgi k : Nat) (slot : Nat × Nat) (s2 s3 : Nat) : Crew :=
  { g := g, id := k, part := slot.1, idx := slot.2,
    threads := (List.range 32).map (fun i => (i, ({ lid := l.lid, wgi := wgi, crew := k, lane := i } : Thread))),
    stack := [.path l.kern.sentry 0xFFFFFFFF none 0 none], nextJoin := 0, runs := [],
    s := ([(0, BitVec.ofNat 64 wgi), (1, BitVec.ofNat 64 l.record.crews), (2, BitVec.ofNat 64 s2), (3, BitVec.ofNat 64 s3)] : Tbl W64),
    b := [(0, l.record.args)], v := [], p := [], guards := [], bins := [], pend := [], nextPid := 0, wait := .none, rotDue := false,
    stop := none, key := 0, ir := [], yielded := [], breakOnce := [] }

/-- The cursor of a stream register at its binding (R168). -/
def State.bindCursor (s : State) (l : Launch) (x : Nat) : XReg :=
  let tx := bitAt x 8
  let f := x % 256
  let seq :=
    if tx then (tget? s.tx f).elim 0 (fun t => t.frame)
    else
      let frames := (tget? s.rx f).elim [] (fun r => r.frames)
      let newest := (frames.getLast?).elim 0 (fun fr => fr.seq)
      match l.frame with
      | none => newest
      | some c =>
        let dist (fr : RxFrame) : Nat :=
          let lpt := clampTime (fr.ft + s.fOfs0 false f)
          max (lpt - c.pres) (c.pres - lpt)
        let near := frames.filter (fun fr => decide (2 * dist fr ≤ s.fPeriod false f))
        match near with
        | [] => newest
        | y :: ys => (ys.foldl (fun a b => if dist b < dist a then b else a) y).seq
  ⟨tx, f, seq, 0, 0, 0⟩

/-- The GEN of a crew slot counts (R378). -/
def State.bumpGen (s : State) (slot : Nat) : State := { s with gens := tset s.gens slot ((tget 0 s.gens slot + 1) % 65536) }

/-- Matrix storage as placement leaves it (R119). -/
def Matrix.empty : Matrix :=
  { slots := [], dens := [], metas := [], acc := [], cnt := [], ptP := [], ptEA := [], ptEB := [], ptRbad := [], ptCbad := [] }

/-- One workgroup becomes resident (R18, R23, R71). -/
def State.placeOne (s : State) (l : Launch) (wgi : Nat) (p : Place) : State :=
  let g := s.nextHandle
  let cids := (List.range l.record.crews).map (fun k => g + 1 + k)
  let xs := ((List.range 8).filter (fun k => bitAt (l.bind.xb.getD k 0) 15)).map (fun k => (k, s.bindCursor l (l.bind.xb.getD k 0)))
  let w : Workgroup :=
    { lid := l.lid, wgi := wgi, core := p.core, phase := .resident, block := none, fault := none, scratch := [], lines := [], bars := [],
      gregs := [], xregs := xs, mx := Matrix.empty, crews := cids, granules := l.kern.vregs8 * l.record.crews, resident := 0, order := s.nextOrder, heldSubs := [],
      slots := p.slots, staged := s.oracle }
  let s2 := l.batch.elim 0 (fun b => b.recs.length)
  let s3 := l.batch.elim 0 (fun b => b.node)
  let s := { s with wgs := tset s.wgs g w, nextHandle := g + 1 + l.record.crews, nextOrder := s.nextOrder + 1,
                    crews := (List.range l.record.crews).foldl (fun t k => tset t (g + 1 + k) { newCrew l g wgi k (p.slots.getD k (0, 0)) s2 s3 with lastIssue := s.cycle }) s.crews }
  let s := p.slots.foldl (fun s x => s.bumpGen (slotNo p.core x.1 x.2)) s
  s.samplerFlush p.core

/-- The records of a placed batch are copied to the record buffer, under the presence rule (R197, R64), after their pushes. -/
def State.copyRecords (s : State) (l : Launch) (g : Nat) : State :=
  match l.batch with
  | none => s
  | some b =>
    let n := 128 * b.rlines
    let at_ (va : VA) : Nat := (tget? s.pools b.pool).elim 0 (fun p => p.index va)
    ((List.range b.recs.length).zip b.recs).foldl (fun s e =>
      let dst := l.kern.scratchBytes + n * e.1
      let lines := locLines ((List.range n).map (fun i => Loc.scr g (dst + i)))
      let op : CopyOp :=
        { id := s.nextHandle, cid := g + 1, g := g, lid := l.lid, ctx := l.ctx, dsp := .scr, ssp := .glb,
          lanes := [{ lane := 0, thread := ⟨l.lid, 0, 0, 0⟩, src := e.2.toNat, dst := dst, landed := false, held := false,
                      place := { s.placeOf (engineOf 8 s.nextHandle) with
                        fin := .none, pre := l.start, op := some (s.nextHandle, 0) } }],
          len := some n, bin := 0, tag := none, guard := none, left := true, lines := lines, pos := ⟨l.kern.sentry, none⟩,
          recs := some (b.pool, at_ e.2), who := (s.crew? (g + 1)).elim ⟨0, 0, l.lid, 0⟩ s.whoOf }
      lines.foldl State.lineUp { s with copies := s.copies ++ [op], nextHandle := s.nextHandle + 1 }) s

/-- Slack has fallen below 0 before the first residency, and nothing has been done about it (R366, R43). A deadline of 2^64 - 1 counts as a number
here too (DESIGN CHOICE, notes/assumptions/116). -/
def State.slackGone (s : State) (l : Launch) : Bool :=
  l.record.classD && l.nextWg = 0 && !l.lateDone && l.deadline.elim false (fun d => decide ((d : Int) - (s.tnow : Int) - (l.est : Int) < 0))

/-- Such a launch is shed, or reported LATE once (R366, R51). -/
def State.actOnSlack (s : State) (lid : Nat) : State :=
  match s.launch? lid with
  | none => s
  | some l =>
    if !s.slackGone l then s
    else if l.record.shed then s.complete lid 2
    else (s.countField (qBlk l.queue + 0x38) 31 16).modLaunch lid (fun l => { l with lateDone := true })

/-- A gang or single workgroup becomes resident (R17 to R19, R23, R363), after slack has been looked at; the Places are the device's choice. -/
def State.placeNext (s0 : State) (lid : Nat) (places : List Place) : State :=
  let s1 := s0.actOnSlack lid
  match s1.launch? lid with
  | none => s1
  | some l =>
    let s := s1.settleDispatch
    let n := if l.record.gang = 0 then 1 else l.record.gang
    let gi := if l.record.gang = 0 then none else some (l.nextWg / l.record.gang)
    let cores := places.map (fun p => p.core)
    if !(l.toPlace && l.deferred.isEmpty && places.length = n && cores.eraseDups.length = n
        && cores.all (fun c => c / 16 = (cores.headD 0) / 16) && s.classOk l cores gi
        && places.all (fun p => s.fits p.core l.kern l.record.crews && s.slotsOk p l.record.crews)) then s
    else
      let quadOk := places.all (fun p =>
        let k := (places.filter (fun q => q.core / 4 = p.core / 4)).length
        s.quadFits (p.core / 4) l.kern k)
      if !quadOk then s
      else
        let g0 := s.nextHandle
        let s := ((List.range n).zip places).foldl (fun s e => s.placeOne l (l.nextWg + e.1) e.2) s
        let s := match gi with
          | some i => { s with gangs := tset s.gangs (gangKey lid i) ⟨[], [], [], [], []⟩,
                               reserved := s.reserved.filter (fun r => !(r.2.1 = lid && r.2.2.1 = i)) }
          | none => s
        let s := { s with freeing := s.freeing.filter (fun e => e.2 ≠ lid), dWaits := if s.dWaits = some lid then none else s.dWaits, tNext := if l.record.classD then s.tNext else l.queue }
        let s := s.modLaunch lid (fun l => { l with
          nextWg := l.nextWg + n
          tstart := if l.tstart = 0 then s.tnow else l.tstart
          gangWait := some s.tnow
          batch := l.batch.map (fun b => { b with placed := true }) })
        (s.copyRecords l g0).tryNodes

def execWorkgroupPlace (lid : Nat) (places : List Place) (s : State) : Res := fin (s.placeNext lid places)

/-- How long a gang waits before it reserves a span, in ns (R369, R373). -/
def State.gwait (s : State) : Nat := 1000 * max 1 (s.r32 (0x00081000 + 4) % 65536)

/-- A gang that has waited long enough reserves a span (R369). -/
def execGangReserve (lid : Nat) (s : State) : Res :=
  match s.launch? lid with
  | none => fin s
  | some l =>
    let size := l.record.gang
    let wait := s.gwait
    if size = 0 || !l.toPlace || !l.deferred.isEmpty || s.reserved.any (fun r => r.2.1 = lid) || !(l.gangWait.elim false (fun t => decide (t + wait ≤ s.tnow))) then
      fin s
    else
      let live (sp : Nat) : Nat := ((List.range 16).filter (fun c => s.quadLive ((16 * sp + c) / 4))).length
      let can := s.canTake l
      let spans := (List.range Config.spans).filter (fun sp => decide (size ≤ live sp))
      match spans with
      | [] => fin s
      | x :: xs =>
        let best := xs.foldl (fun a b => if (can a).length < (can b).length then b else a) x
        if (tget? s.reserved best).isSome then fin s
        else fin { s with reserved := tset s.reserved best (lid, l.nextWg / size, can best) }

/-! ### Takes and slack -/

def execLaunchTake (q : Nat) (s : State) : Res := fin (s.takeHead q)

/-- Slack has fallen below 0 before the first residency: the launch is shed, or reported LATE once (R366, R51). -/
def execLaunchSlackExpiry (lid : Nat) (s : State) : Res := fin (s.actOnSlack lid)

/-- The time-out of a node's oldest record, or a full batch that waited on SERIAL (R197). -/
def execNodeBatchTimeout (n : Nat) (s : State) : Res := fin (s.tryNode 64 n)

/-- The copy of a record to the record buffer lands, or meets a fault and is held (R197, R68); one that reads poisoned data writes nothing and is a
machine check on the workgroup's first crew (R384). -/
def State.landRecord (s : State) (op : CopyOp) (k : CopyLane) : State :=
  let n := op.len.getD 0
  match s.access op.ctx .copyRead k.src n with
  | .error f => s.holdCopy op k .copyRead f
  | .ok ps =>
    if s.touchesPoison ps then (s.copyEnd op (some k.lane) n).machineCheck op.cid op.pos 3 (op.who.slot / 64) 0
    else
      let t := s.takeSource op k.lane (fun _ => true)
      let got := ((t.copies.find? (fun c => c.id = op.id)).bind (fun c => c.lanes.find? (fun (x : CopyLane) => x.lane = k.lane))).elim [] CopyLane.reads
      let vals := (List.range n).map (fun i => (got.find? (fun y => y.1 = i)).elim 0 (fun y => t.gotten y.2.1 y.2.2))
      (t.enterWrites (writesAt { k.place with ins := s.oracle } Sync.plain
        (t.bytesWith op.ctx .scr k.dst (wordUnit k.dst n) ((List.range n).map (fun i => Loc.scr op.g (k.dst + i)))) vals)).copyEnd op (some k.lane) n

/-- A record's copy has landed: its pool record is free again (R197, R64). -/
def execRecordCopyLand (id : Nat) (s : State) : Res :=
  match s.copies.find? (fun c => c.id = id) with
  | none => fin s
  | some op =>
    match op.recs, op.lanes with
    | some r, k :: _ =>
      if k.held || !s.copyLive op then fin s
      else
        let s' := s.landRecord op k
        let reads := (s'.evs.filter (fun (e : Ev) => e.op = some (id, k.lane) && e.bytes.any (fun b => b.rf.isSome))).map (fun (e : Ev) => e.id)
        if s'.copies.any (fun c => c.id = id) then fin s' else fin ((s'.freeRec r.1 r.2 reads).tryNodes)
    | _, _ => fin s

/-! ### Queues (R356, R357, R372) -/

/-- The record at the head is no longer looked at: nothing waits on SERIAL or a gate (R371, R372). -/
def State.dropHead (s : State) (q : Nat) : State := { s.endGate q with heldHeads := s.heldHeads.filter (fun x => x ≠ q) }

/-- A host's write of a register has a place in the order of its accesses: those before it come before what it announces (R87). -/
def State.hostPoint (s : State) (r : Nat) : State := s.point (s.placeOf (.host r)) 1

/-- A doorbell value (R357, R358); what the host that rings has written before it comes before the launches it announces (R87). -/
def State.doorbell (s : State) (q v : Nat) : State :=
  if bitAt (s.r32 (qBlk q)) 29 then s
  else if (v + 2 ^ 32 - s.r32 (qBlk q + 0x2C)) % 2 ^ 32 ≤ s.qSize q then
    let rung := (((s.evs.filter (fun (e : Ev) => e.what = .point && e.thr.any Agent.isHost)).getLast?).map (fun (e : Ev) => e.id)).toList
    let s1 : State := { s.w32 (qBlk q + 0x28) v with bells := tset s.bells q (tget [] s.bells q ++ rung) }
    if v % 2 ^ 32 = s.r32 (qBlk q + 0x2C) then s1.dropHead q else s1
  else s.setField (qBlk q + 0x38) 1 1 1

/-- A write of DLD_QCTL. -/
def State.writeQctl (s : State) (q v : Nat) : State :=
  let old := s.r32 (qBlk q)
  if bitAt old 31 then (if bitAt v 31 then s else (s.setField (qBlk q) 31 31 0).dropHead q)
  else
    let fields := bits v 29 28 * 2 ^ 28 + bits v 21 16 * 2 ^ 16 + bits v 11 8 * 2 ^ 8
    if !bitAt v 31 then s.w32 (qBlk q) (fields + bits old 30 30 * 2 ^ 30)
    else
      let ok := decide (4 ≤ bits v 11 8) && decide (bits v 11 8 ≤ 12) && s.r32 (qBlk q + 0x08) % 64 = 0 && s.r32 (qBlk q + 0x18) % 32 = 0
      if ok then
        { ((s.w32 (qBlk q) (fields + 2 ^ 31)).w32 (qBlk q + 0x28) 0).w32 (qBlk q + 0x2C) 0 with deficits := tdel s.deficits q }
      else s.w32 (qBlk q) (fields + 2 ^ 30)

def execDoorbell (q v : Nat) (s : State) : Res := fin ((s.hostPoint 0).doorbell q v)
def execQueueEnable (q v : Nat) (s : State) : Res := if bitAt v 31 then fin (s.writeQctl q v) else fin s
def execQueueDisable (q v : Nat) (s : State) : Res := if bitAt v 31 then fin s else fin (s.writeQctl q v)
def execCrfaultClear (q : Nat) (s : State) : Res := fin (s.setField (qBlk q + 0x38) 2 2 0)

/-! ### Pools and nodes (R194, R374) -/

/-- A pool descriptor (R194). -/
def parsePool (ctx : Nat) (bs : List Byte) : Option Pool :=
  match container bs 0 with
  | some base =>
    let c := fld bs 12 4
    if base.toNat % 128 = 0 && decide (1 ≤ fld bs 10 1) && decide (fld bs 10 1 ≤ 32) && fld bs 11 1 = 0 && decide (32 ≤ c) && decide (c ≤ 2 ^ 20)
        && fld bs 16 16 = 0 then some ⟨ctx, base, fld bs 10 1, c, [], []⟩
    else none
  | none => none

/-- The CTL fields a write stores. -/
def ctlFields (v : Nat) (qid : Bool) : Nat := bits v 21 16 * 2 ^ 16 + (if qid then bits v 5 0 else 0)

/-- A write of DLD_PCTL. -/
def State.writePctl (s : State) (p v : Nat) : State :=
  let blk := poolBlk p
  let old := s.r32 blk
  if bitAt old 31 then
    if bitAt v 31 || s.nodes.any (fun n => n.2.pool = p) then s
    else { s.setField blk 31 31 0 with
           pools := tdel s.pools p
           copies := s.copies.map (fun (c : CopyOp) => { c with recs := c.recs.map (fun x => if x.1 = p then (16, x.2) else x) })
           launches := s.launches.map (fun (l : Nat × Launch) => (l.1, { l.2 with batch := l.2.batch.map (fun b => if b.pool = p then { b with pool := 16 } else b) })) }
  else if !bitAt v 31 then s.w32 blk (ctlFields v false + bits old 30 30 * 2 ^ 30)
  else
    match (s.dread (bits v 21 16) ((s.addr72 (blk + 0x08) (blk + 0x10)).toNat / 32 * 32) 32).bind (parsePool (bits v 21 16)) with
    | some x => { s.w32 blk (ctlFields v false + 2 ^ 31) with pools := tset s.pools p x }
    | none => s.w32 blk (ctlFields v false + 2 ^ 30)

def execPoolEnable (p v : Nat) (s : State) : Res := if bitAt v 31 then fin (s.writePctl p v) else fin s
def execPoolDisable (p v : Nat) (s : State) : Res := if bitAt v 31 then fin s else fin ((s.writePctl p v).tryNodes)

/-- A node descriptor (R194). -/
def parseNode (ctx qid : Nat) (bs : List Byte) : Option Node :=
  match container bs 0 with
  | some tmpl =>
    if tmpl.toNat % 64 = 0 && decide (1 ≤ fld bs 10 1) && decide (fld bs 10 1 ≤ 32) && decide (fld bs 11 1 ≤ 15) && fld bs 16 16 = 0 then
      some { ctx := ctx, qid := qid, tmpl := tmpl, batch := fld bs 10 1, pool := fld bs 11 1, timeout := fld bs 12 4, queue := [] }
    else none
  | none => none

/-- The node may be enabled (R194, R374). -/
def State.nodeOk (s : State) (n : Node) : Bool :=
  match s.template n with
  | none => false
  | some (r, _) =>
    let kern := if r.kdesc.toNat % 64 = 0 then (s.dread n.ctx r.kdesc.toNat 64).bind parseKernel else none
    (tget? s.pools n.pool).elim false (fun p => p.ctx = n.ctx && kern.elim false (fun k =>
        k.placeable r.crews && decide (n.batch * p.rlines * 128 ≤ k.bufferBytes)))
      && r.gang = 0 && bitAt (s.r32 (qBlk n.qid)) 31 && s.qCtx n.qid = n.ctx

/-- A write of DLD_NCTL. -/
def State.writeNctl (s : State) (n v : Nat) : State :=
  let blk := nodeBlk n
  let old := s.r32 blk
  if bitAt old 31 then
    if bitAt v 31 then s
    else
      let s := match tget? s.nodes n with
        | some nd => s.freeRecs nd.pool (nd.queue.map (fun (e : VA × Nat) => e.1))
        | none => s
      { (s.endGate (64 + n)).setField blk 31 31 0 with nodes := tdel s.nodes n }
  else if !bitAt v 31 then s.w32 blk (ctlFields v true + bits old 30 30 * 2 ^ 30)
  else
    match (s.dread (bits v 21 16) ((s.addr72 (blk + 0x08) (blk + 0x10)).toNat / 32 * 32) 32).bind (parseNode (bits v 21 16) (bits v 5 0)) with
    | some x => if s.nodeOk x then { s.w32 blk (ctlFields v true + 2 ^ 31) with nodes := tset s.nodes n x } else s.w32 blk (ctlFields v true + 2 ^ 30)
    | none => s.w32 blk (ctlFields v true + 2 ^ 30)

def execNodeEnable (n v : Nat) (s : State) : Res := if bitAt v 31 then fin (s.writeNctl n v) else fin s
def execNodeDisable (n v : Nat) (s : State) : Res := if bitAt v 31 then fin s else fin (s.writeNctl n v)

/-! ### Hardware work queues (R375) -/

/-- A write of DLD_HWQCTL: enabling or re-enabling discards entries, targets and poison; clearing EN leaves POISON to be read. -/
def State.writeHwqctl (s : State) (q v : Nat) : State :=
  let blk := hwqBlk q
  let old := s.r32 blk
  if bitAt v 31 then
    let ctx := if bitAt old 31 then bits old 21 16 else bits v 21 16
    { s.w32 blk (2 ^ 31 + ctx * 2 ^ 16) with hwqs := tset s.hwqs q { ctx := ctx, entries := [], targets := [], poison := false } }
  else if bitAt old 31 then
    { s.w32 blk (bits old 21 16 * 2 ^ 16) with hwqs := tmod s.hwqs q (fun h => { h with entries := [], targets := [], on := false }) }
  else s.w32 blk (bits v 21 16 * 2 ^ 16)

def execHwqEnable (q v : Nat) (s : State) : Res := if bitAt v 31 then fin (s.writeHwqctl q v) else fin s
def execHwqDisable (q v : Nat) (s : State) : Res := if bitAt v 31 then fin s else fin (s.writeHwqctl q v)

end Sys2Proof.Machine
end

