-- ==== Sys2Proof/Machine/Records.lean ====
section
/-! DEFINITION. Record pools, node queues and hardware work queues as lanes use them (10 R195, R196; 11 R209; 16 R321 to R323). -/

namespace Sys2Proof.Machine

/-- The r-th free index, given the used ones in ascending order. -/
def nthFree (used : List Nat) (r : Nat) : Nat := used.foldl (fun i k => if k ≤ i then i + 1 else i) r

/-- n records taken from a pool; which free ones is the device's choice (R321). The indices, in the order taken. -/
def takeRecs (o lid : Nat) : Nat → Pool → List Nat → Pool × List Nat
  | 0, p, out => (p, out)
  | n + 1, p, out =>
    let free := p.count - p.busy.length
    if free = 0 then (p, out)
    else
      let i := nthFree (p.busy.map (fun e => e.1)) (Config.free o 13 n % free)
      takeRecs o lid n { p with busy := tset p.busy i (.alloc lid) } (out ++ [i])

/-- Low 64 bits of a record's address (R195). -/
def Pool.addr (p : Pool) (i : Nat) : Nat := (p.base.toNat + 128 * p.rlines * i) % 2 ^ 64

/-- The pool is bound to the crew's context (R321). -/
def State.poolOk (s : State) (c : Crew) (n : Nat) : Bool := (tget? s.pools n).elim false (fun p => p.ctx = s.ctxOf c)

/-- RALLOC: an acquire, at DEV scope over GLB and REC, of the return of each record to the free list (R195, R321). -/
def rallocForm (nb : Bool) (f : LF) (s : State) : Res :=
  let n := f.sub % 16
  runL s f (fun s c => [(regsOk s c [rPair f.vd], Trap.illegal), (s.poolOk c n, Trap.illegal)]) (fun s c r act =>
    match tget? s.pools n with
    | none => .trap Trap.illegal
    | some p =>
      let lanes := lanesOf act
      if lanes.isEmpty then lDone s c
      else if c.tableFull .l then lStall s c
      else if !nb && decide (p.count - p.busy.length < lanes.length) then .wait (s.park s.focus c .dry)
      else
        let got := takeRecs s.oracle (s.lidOf c) lanes.length p []
        let served := lanes.zip got.2
        let addr (l : Nat) : Nat := match served.find? (fun e => e.1 = l) with
          | some e => p.addr e.2
          | none => 0
        let ps := if nb then predDest act (bits f.low 22 20) (fun l => served.any (fun e => e.1 = l)) else []
        let s1 := (s.operate (s.place c act .l r.since) ⟨true, false, 3, 17⟩ (got.2.flatMap (tget [] p.back))).1
        longDone { s1 with pools := tset s1.pools n got.1 } c act (laneDest act 2 f.vd addr) ps false)

def execRalloc (f : LF) (s : State) : Res := rallocForm false f s
def execRallocNb (f : LF) (s : State) : Res := rallocForm true f s

/-- Distance of a 64-bit record address from the pool's base, and the whole address it stands for. -/
def Pool.fromBase (p : Pool) (a : Nat) : Nat := (a + 2 ^ 64 - p.base.toNat % 2 ^ 64) % 2 ^ 64
def Pool.va (p : Pool) (a : Nat) : VA := BitVec.ofNat 72 (p.base.toNat + p.fromBase a)

/-- The record at an address is allocated from the pool and not yet pushed (R322). -/
def Pool.pushable (p : Pool) (a : Nat) : Bool :=
  let i := p.index (p.va a)
  p.fromBase a % (128 * p.rlines) = 0 && decide (i < p.count)
    && (match tget? p.busy i with
      | some (.alloc _) => true
      | _ => false)

/-- RPUSH (R196, R322). -/
def execRpush (f : LF) (s : State) : Res :=
  let n := f.sub % 256
  runL s f (fun s c => [(regsOk s c [rPair f.va], Trap.illegal), ((tget? s.nodes n).elim false (fun x => x.ctx = s.ctxOf c), Trap.illegal)])
    (fun s c r act =>
      match tget? s.nodes n with
      | none => .trap Trap.illegal
      | some nd =>
        match tget? s.pools nd.pool with
        | none => .trap Trap.illegal
        | some p =>
          let va (l : Nat) : Nat := opV s c 2 f.va l
          let lanes := lanesOf act
          let bad := lanes.filter (fun l => !(p.pushable (va l) && lanes.all (fun m => m = l || va m ≠ va l)))
          match bad with
          | l :: _ => .trap (Trap.perm .store (va l) (maskOf (fun m => bad.contains m)))
          | [] =>
            let p' := { p with busy := lanes.foldl (fun t l => tset t (p.index (p.va (va l))) RecState.pushed) p.busy }
            let nd' := { nd with queue := nd.queue ++ lanes.map (fun l => (p.va (va l), s.tnow)) }
            let q := s.operate (s.place c act .l r.since) ⟨false, true, 3, 17⟩ []
            let s' := { q.1 with pools := tset s.pools nd.pool p', nodes := tset s.nodes n nd', bells := tset s.bells (64 + n) (tget [] s.bells (64 + n) ++ q.2) }
            .done (((s'.setCrew s'.focus c).tryNode 64 n)))

/-- The queue is enabled for a context (R209, R375). -/
def State.queueFor (s : State) (q ctx : Nat) : Option HwQueue := (tget? s.hwqs q).bind (fun h => if h.on && h.ctx = ctx then some h else none)

/-- How a queue stands to a crew that waits for an entry of it, where that ends the wait (R209, R375). -/
def State.queueFate (s : State) (q ctx : Nat) : Option QFate :=
  match s.queueFor q ctx with
  | none => some .gone
  | some h => if !h.entries.isEmpty then none else if h.poison then some .poisoned else if h.targets.isEmpty then some .ended else none

/-- Crews parked on an empty hardware work queue take note of how their wait ends, at that moment (R209, R375). -/
def State.settleQueues (s : State) : State :=
  { s with crews := s.crews.map (fun (c : Nat × Crew) => match c.2.wait with
      | .queue q none => (c.1, { c.2 with wait := .queue q (s.queueFate q (s.ctxOf c.2)) })
      | _ => c) }

/-- The fate that a parked QPOP has met. -/
def Crew.fate (c : Crew) : Option QFate :=
  match c.wait with
  | .queue _ f => f
  | _ => none

/-- QPOP (R209, R323, R375): the oldest entry, what a past wait has ended with, or a wait. The pop acquires what the push released (R98). -/
def execQpop (f : LF) (s : State) : Res :=
  let q := f.sub % 64
  let pe := bits f.low 22 20
  let ended (s : State) (c : Crew) (act : W32) : Eff := longDone s c act (laneDest act 2 f.vd (fun _ => 0)) (predDest act pe (fun _ => true)) false
  let poisoned : Eff := .trap ⟨11, 0, 0, 0, [(64, 1, 0), (65, 1, q)]⟩
  runL s f (fun s c => [(regsOk s c [rPair f.vd], Trap.illegal),
      (match c.fate with
        | some .gone => false
        | some _ => true
        | none => (s.queueFor q (s.ctxOf c)).isSome, Trap.illegal)])
    (fun s c r act =>
      if act = 0 then lDone s c
      else if c.tableFull .l then lStall s c
      else match c.fate, s.queueFor q (s.ctxOf c) with
        | some .ended, _ => ended s c act
        | some .poisoned, _ => poisoned
        | _, none => .trap Trap.illegal
        | _, some h =>
          match h.entries with
          | e :: rest =>
            let s1 := (s.operate (s.place c act .l r.since) ⟨true, false, 3, 17⟩ (h.pushes.take 1)).1
            longDone { s1 with hwqs := tset s.hwqs q { h with entries := rest, pushes := h.pushes.drop 1 } } c act (laneDest act 2 f.vd (fun _ => e.toNat))
              (predDest act pe (fun _ => false)) false
          | [] =>
            if h.poison then poisoned
            else if h.targets.isEmpty then ended s c act
            else .wait (s.park s.focus c (.queue q none)))

end Sys2Proof.Machine
end

