-- ==== Sys2Proof/Machine/Evict.lean ====
section
/-! DEFINITION. Eviction and restore (22 R388 to R392; 07 R149; 10 R195; 25 R428): victims, saves and their faults, the emergency area,
restores. -/

namespace Sys2Proof.Machine

/-! ### Victims (R388) -/

/-- Deadline of a launch for the order of victims: one with none is the latest. A T-class record's own DEADLINE is ignored (R361), so that its
launch has its frame's. -/
def State.dueOf (s : State) (lid : Nat) : Nat :=
  ((s.launch? lid).bind (fun l => if l.record.classD then l.deadline else l.frame.map (fun f => f.deadline))).getD (2 ^ 64)

/-- Every live crew of the workgroup is parked on RALLOC (R195). -/
def State.dryWg (s : State) (w : Workgroup) : Bool :=
  let live := (w.crews.filterMap s.crew?).filter (fun c => !c.threads.isEmpty)
  !live.isEmpty && live.all (fun c => c.wait = .dry)

/-- Threads of a launch on a core are displaced, or a fired round is about to displace them (R149). -/
def State.displacing (s : State) (lid core : Nat) (here : List Workgroup) : Bool :=
  here.any (fun w => w.crews.any (fun cid => (s.crew? cid).elim false s.displaced))
    || s.rounds.any (fun r => r.fired && r.coreScope && r.set = lid && r.core = core)

/-- Workgroups that leave and return with this one: its gang, and its launch on its core while threads are displaced (R388, R149). -/
def State.unitStep (s : State) (g : Nat) : List Nat :=
  match s.wg? g with
  | none => []
  | some w =>
    let size := s.gangSize w.lid
    let mates := s.wgs.filter (fun x => x.2.lid = w.lid)
    let gang := if size = 0 then [] else (mates.filter (fun x => x.2.wgi / size = w.wgi / size)).map (fun x => x.1)
    let here := mates.filter (fun x => x.2.core = w.core && x.2.onCore)
    let core := if s.displacing w.lid w.core (here.map (fun x => x.2)) then here.map (fun x => x.1) else []
    (g :: (gang ++ core)).eraseDups

/-- The whole unit of a workgroup: each round takes in at least one more, or nothing. -/
def State.unitOf (s : State) (g : Nat) : List Nat := (List.range s.wgs.length).foldl (fun gs _ => (gs.flatMap s.unitStep).eraseDups) [g]

/-- Save blocks of a context in use. -/
def State.blocksOf (s : State) (ctx : Nat) : List Nat :=
  s.wgs.filterMap (fun w => if (s.launch? w.2.lid).elim false (fun l => l.ctx = ctx) then w.2.block else none)

/-- The lowest free save block of a context (R390). -/
def State.freeBlock (s : State) (ctx : Nat) : Option Nat :=
  (List.range (bits (s.r32 (mmuBlk ctx + 0x30)) 31 16)).find? (fun k => !(s.blocksOf ctx).contains k)

/-- A partition is stopped for a context: none of the context's workgroups is a victim meanwhile (R410). -/
def State.stoppedCtx (s : State) (ctx : Nat) : Bool := s.dbg.any (fun d => d.causes.any (fun c => c.2 = ctx))

/-- One workgroup starts to leave: it takes the lowest free block; none when it cannot be a victim. -/
def State.stopWg (s : State) (g order : Nat) : Option State :=
  match s.wg? g with
  | none => none
  | some w =>
    match s.launch? w.lid with
    | none => none
    | some l =>
      match s.freeBlock l.ctx with
      | none => none
      | some k =>
        if w.phase ≠ .resident || s.stoppedCtx l.ctx then none
        else some (s.setWg g { w with phase := .stopping, block := some k, order := order })

/-- A whole unit starts to leave, or none of it. -/
def State.stopUnit (s : State) (gs : List Nat) : Option State :=
  (gs.foldl (fun (o : Option State) g => o.bind (fun t => t.stopWg g s.nextOrder)) (some s)).map (fun (t : State) => { t with nextOrder := s.nextOrder + 1 })

/-- Workgroup a is chosen before b: T-class first, then the latest deadline, then the youngest. -/
def State.victimBefore (s : State) (a b : Nat × Workgroup) : Bool :=
  let d (x : Nat × Workgroup) : Bool := (s.launch? x.2.lid).elim false (fun l => l.record.classD)
  if d a ≠ d b then d b
  else if s.dueOf a.2.lid ≠ s.dueOf b.2.lid then decide (s.dueOf b.2.lid < s.dueOf a.2.lid)
  else decide (b.2.order < a.2.order)

def State.insertVictim (s : State) (x : Nat × Workgroup) : List (Nat × Workgroup) → List (Nat × Workgroup)
  | [] => [x]
  | y :: t => if s.victimBefore x y then x :: y :: t else y :: s.insertVictim x t

/-- The resident workgroups of a core that a condition lets go, in the order of R388. -/
def State.candidates (s : State) (core : Nat) (ok : Workgroup → Bool) : List Nat :=
  ((s.wgs.filter (fun w => w.2.core = core && w.2.phase = .resident && ok w.2)).foldr s.insertVictim []).map (fun w => w.1)

/-- The state with leaving workgroups gone from their core and quad, as the count of R18 will find it. -/
def State.without (s : State) (gs : List Nat) : State := { s with wgs := s.wgs.map (fun (w : Nat × Workgroup) => if gs.contains w.1 then (w.1, { w.2 with phase := .evicted }) else w) }

/-- Victims are taken in order until the need is met: the state with them stopping, and who they are. A unit that cannot go is passed over. -/
def chooseVictims (enough : State → List Nat → Bool) : List Nat → State → List Nat → Option (State × List Nat)
  | [], s, vs => if enough s vs then some (s, vs) else none
  | g :: rest, s, vs =>
    if enough s vs then some (s, vs)
    else if vs.contains g then chooseVictims enough rest s vs
    else
      match s.stopUnit (s.unitOf g) with
      | some t => chooseVictims enough rest t (vs ++ s.unitOf g)
      | none => chooseVictims enough rest s vs

/-- Enough has gone from a core for the launch: the core fits one more workgroup, and for a gang the span holds one more (R388). -/
def State.madeRoom (s t : State) (core : Nat) (l : Launch) : Bool :=
  t.fits core l.kern l.record.crews && (l.record.gang = 0 || decide (s.spanRoom l (fun _ => true) (core / 16) < t.spanRoom l (fun _ => true) (core / 16)))

/-- The victims of an eviction: all of a retiring quad's core, or those that make room for a launch (R388, R195, R428). -/
def State.victims (s : State) (core lid : Nat) : Option (State × List Nat) :=
  if s.reeve.retiring.contains (core / 4) then
    let cs := s.candidates core (fun _ => true)
    match chooseVictims (fun _ _ => false) cs s [] with
    | some x => some x
    | none => some (cs.foldl (fun (a : State × List Nat) g =>
        if a.2.contains g then a else match a.1.stopUnit (a.1.unitOf g) with
          | some t => (t, a.2 ++ a.1.unitOf g)
          | none => a) (s, []))
  else
    match s.launch? lid with
    | none => none
    | some l =>
      let leaving := s.wgs.any (fun w => (w.2.phase = .stopping || w.2.phase = .saving) && (tget? s.freeing w.2.core).elim false (fun x => x = lid))
      let may (w : Workgroup) : Bool :=
        s.dryWg w || (l.record.classD && ((s.launch? w.lid).elim false (fun m => !m.record.classD || decide (s.dueOf lid < s.dueOf m.lid))))
      let classes := if l.record.classD then s.nextD l
        else decide (0 < tget 0 s.settleDeficits.deficits l.queue) && (tget? s.freeing core).isNone && !s.reservedOff core l none
      if !(l.toPlace && l.deferred.isEmpty && !s.hasRoom l && !leaving && classes && (tget? s.freeing core).elim true (fun x => x = lid)) then none
      else
        (chooseVictims (fun t vs => s.madeRoom (t.without vs) core l) (s.candidates core may) s []).filter (fun x => !x.2.isEmpty)

/-- A crew leaves the unfired round in which it has arrived: it issues its instruction again when it is restored (R149). -/
def State.leaveRounds (s : State) (gs : List Nat) : State :=
  let open_ := (s.rounds.filter (fun r => !r.fired)).map (fun r => r.id)
  let mine (c : Crew) : Bool := gs.contains c.g && open_.any (fun r => c.wait = .regroup r)
  let out := (s.crews.filter (fun c => mine c.2)).map (fun c => c.1)
  { s with
    rounds := (s.rounds.map (fun (r : Round) => if r.fired then r else { r with arrived := r.arrived.filter (fun a => !out.contains a.cid) })).filter
      (fun r => r.fired || !r.arrived.isEmpty)
    crews := s.crews.map (fun (c : Nat × Crew) => if mine c.2 then (c.1, { c.2 with wait := .none }) else c) }

/-- The dispatcher evicts workgroups from one core. -/
def execEviction (core lid : Nat) (victims : List Nat) (s : State) : Res :=
  match s.victims core lid with
  | none => fin s
  | some (t, vs) =>
    if vs ≠ victims || vs.isEmpty then fin s
    else
      let t1 := t.leaveRounds vs
      fin (if (s.launch? lid).elim false (fun l => l.record.classD) && !s.reeve.retiring.contains (core / 4) then { t1 with freeing := tset t1.freeing core lid } else t1)

/-! ### Saves (R389, R390, R392) -/

/-- The waits of a victim are over: its pending writes have returned, its granted commands and their reruns are done, the rounds in which its slots
take part have committed. A COLL that has left its head goes on without the workgroup (R327, R388). -/
def State.quiet (s : State) (g : Nat) (w : Workgroup) : Bool :=
  w.crews.all (fun cid => (s.crew? cid).elim true (fun c => c.pend.all (fun p => p.returned || s.cmds.any (fun k => k.cid = cid && k.pid = some p.id))))
    && !s.cmds.any (fun k => k.g = g && k.engine ≠ .collective && (k.stage ≠ 0 || k.rerun))
    && !s.rounds.any (fun r => r.fired && r.slots.any w.crews.contains)

/-- The address of a workgroup's save block. -/
def State.blockAddr (s : State) (w : Workgroup) : Nat :=
  let ctx := s.ctxOfLid w.lid
  (s.r64 (mmuBlk ctx + 0x28) / 2 ^ 22 * 2 ^ 22 + 2 ^ 64 * (s.r32 (mmuBlk ctx + 0x30) % 256) + w.block.getD 0 * 2 ^ 22) % 2 ^ 72

/-- The pages of a save block that can be written: number and physical address. -/
def State.blockPages (s : State) (w : Workgroup) : List (Nat × Nat) :=
  (List.range 64).filterMap (fun i => match s.access (s.ctxOfLid w.lid) .save ((s.blockAddr w + 65536 * i) % 2 ^ 72) 65536 with
    | .ok ((pa, _) :: _) => some (i, pa)
    | _ => none)

/-- What the device leaves in byte k of a save block at an instant: its own affair. -/
def blockByte (inst k : Nat) : Byte := BitVec.ofNat 8 (Config.free inst 23 k)

/-- The save has been written: what its block holds is the device's own, the resources are free, the eviction counts, and its crews have left their
regroup sets (R389, R421, R422, R140). -/
def State.evicted (s : State) (g : Nat) (w : Workgroup) : State :=
  let ctx := s.ctxOfLid w.lid
  let s1 := (s.blockPages w).foldl (fun t p => t.pwrite p.2 ((List.range 65536).map (fun i => blockByte s.oracle (65536 * p.1 + i)))) s
  let s2 := (s1.setWg g { w with phase := .evicted, fault := none, saved := some (s.oracle, (s.blockPages w).map (fun p => p.1)) }).count ctx 13 1
  State.finishRetiring <| State.fireRounds { s2 with npre := tset s2.npre ctx (tget 0 s2.npre ctx + 1), emergQueue := s2.emergQueue.filter (fun x => x ≠ g) }

/-- The victim may be saved: it has stopped and its waits are over, or its save has begun. -/
def State.saving (s : State) (g : Nat) (w : Workgroup) : Bool := (w.phase = .stopping && s.quiet g w) || w.phase = .saving

def execSaveComplete (g : Nat) (s : State) : Res :=
  match s.wg? g with
  | none => fin s
  | some w => if s.saving g w && w.fault.isNone && !(s.blockPages w).isEmpty then fin (s.evicted g w) else fin s

/-- The class 40 record of a save or restore that met a fault, and the context's policy (R381): it waits, the launch is killed, or the partition of
the record's slot stops with it. -/
def State.saveRecord (s : State) (g : Nat) (w : Workgroup) (f : AccFault) : State :=
  let ctx := s.ctxOfLid w.lid
  let rec_ (waits : Bool) : TrapRec :=
    s.recOf ctx 40 0 (slotNo w.core 0 0) 0 0 w.lid w.wgi 0 ⟨0, none⟩ f.addr [(64, 1, 8), (65, 1, f.level)] none (some g) none waits
  let cid := (w.crews.head?).getD s.nextHandle
  match s.policy ctx 40 with
  | .wait => s.pushRec (rec_ true)
  | .kill => (s.pushRec (rec_ false)).killLaunch w.lid
  | .debug => s.partitionStop w.core 0 [(cid, ctx)] [⟨cid, none, rec_ true⟩]

/-- The address lies in the workgroup's save block. -/
def State.inBlock (s : State) (w : Workgroup) (va : Nat) : Bool := decide ((va + 2 ^ 72 - s.blockAddr w) % 2 ^ 72 < 2 ^ 22)

/-- A save write faults: the core part goes to the emergency area, or the victim waits its turn. -/
def execSaveFault (g va : Nat) (s : State) : Res :=
  match s.wg? g with
  | none => fin s
  | some w =>
    if !((s.saving g w || w.phase = .emergency) && w.fault.isNone && s.inBlock w va) then fin s
    else
      match s.access (s.ctxOfLid w.lid) .save va 1 with
      | .ok _ => fin s
      | .error f =>
        let s1 := s.saveRecord g w f
        if (s1.wg? g).isNone then fin s1
        else if w.phase = .emergency then fin (s1.setWg g { w with fault := some va })
        else
          let s2 := s1.setWg g { w with phase := .saving, fault := some va }
          fin (State.fireRounds <| State.serveEmerg { s2 with emergQueue := if s2.emergQueue.contains g then s2.emergQueue else s2.emergQueue ++ [g] })

/-- A served fault lets the state in the emergency area be copied to its block: area and core are free. -/
def execEmergencyCopyDone (g : Nat) (s : State) : Res :=
  match s.wg? g with
  | none => fin s
  | some w =>
    if w.phase = .emergency && w.fault.isNone && !(s.blockPages w).isEmpty then
      let t : State := s.evicted g w
      fin (State.serveEmerg { t with emerg := none })
    else fin s

/-! ### Restores (R389, R390, R149) -/

/-- The class rules let an evicted workgroup of the launch come back on the core. -/
def State.restoreOk (s : State) (l : Launch) (core : Nat) : Bool :=
  if l.record.classD then s.nextD l
  else
    !s.dFirst && decide ((s.tCores ++ [core]).eraseDups.length ≤ s.tLimit)
      && !s.reservedOff core l none && (tget? s.freeing core).isNone

/-- One workgroup starts to return, as one of a unit: it takes as many slots as it had, every slot's GEN counts, its crews and entries belong to the
new core. Its entries return whole, also where the table has no room for them; it then holds more than 64 and RT_USED shows 64 (DESIGN CHOICE,
notes/assumptions/120: R134 does not say). -/
def State.restoreOne (s : State) (order g : Nat) (p : Place) : Option State :=
  match s.wg? g with
  | none => none
  | some w =>
    match s.launch? w.lid with
    | none => none
    | some l =>
      if !(w.phase = .evicted && w.fault.isNone && s.fits p.core l.kern w.slots.length && s.slotsOk p w.slots.length && s.restoreOk l p.core) then none
      else
        let s1 := s.setWg g { w with phase := .restoring, core := p.core, order := order, slots := p.slots }
        let s2 := w.crews.foldl (fun (t : State) cid => t.modCrew cid (fun c =>
          { c with part := (p.slots.getD c.id (0, 0)).1, idx := (p.slots.getD c.id (0, 0)).2, lastIssue := s.cycle })) s1
        let s3 := p.slots.foldl (fun (t : State) x => t.bumpGen (slotNo p.core x.1 x.2)) s2
        some { s3 with cmds := s3.cmds.map (fun (k : Cmd) => if k.g = g then { k with unit := engineUnit k.engine p.core } else k) }

/-- An evicted workgroup, gang or CORE-scope unit is placed again, whole: the workgroups of a launch that left one core with displaced threads come
back on one core, the members of a gang on distinct cores of one span (R388, R149, R19). -/
def execWorkgroupRestore (ps : List Place) (gs : List Nat) (s : State) : Res :=
  let order := (gs.head?).bind (fun g => (s.wg? g).map (fun w => w.order))
  let unit := (s.wgs.filter (fun w => w.2.phase = .evicted && some w.2.order = order)).map (fun w => w.1)
  let gang := ((gs.head?).bind s.wg?).elim 0 (fun w => s.gangSize w.lid)
  let ws := (gs.zip ps).filterMap (fun x => (s.wg? x.1).map (fun w => (w, x.2.core)))
  let mates (a : Workgroup) : List Workgroup := (ws.map (fun x => x.1)).filter (fun x => x.lid = a.lid && x.core = a.core)
  let together := ws.all (fun a => ws.all (fun b => a.1.lid ≠ b.1.lid || a.1.core ≠ b.1.core || !s.displacing a.1.lid a.1.core (mates a.1) || a.2 = b.2))
  let gangs := ws.all (fun a => ws.all (fun b => gang = 0 || a.1.wgi / gang ≠ b.1.wgi / gang || (a.2 / 16 = b.2 / 16 && (a.1.wgi = b.1.wgi || a.2 ≠ b.2))))
  let shape := together && gangs
  if gs.isEmpty || !(gs.length = unit.length && unit.all gs.contains && ps.length = gs.length && shape) then fin s
  else
    match (gs.zip ps).foldl (fun (o : Option State) e => o.bind (fun t => t.restoreOne s.nextOrder e.1 e.2)) (some s) with
    | some t => fin { t with nextOrder := s.nextOrder + 1 }
    | none => fin s

/-- Copies of the workgroup with a scratch or gang destination are reissued whole: their sources are read anew (R388). -/
def State.reissueCopies (s : State) (g : Nat) : State :=
  { s with copies := s.copies.map (fun (op : CopyOp) =>
      if op.g ≠ g || op.dsp = .glb || !op.left then op
      else { op with lanes := op.lanes.map (fun (k : CopyLane) => { k with reads := [], got := [] }) }) }

/-- The subtractions held for a workgroup's barriers, and its gang's once all of it is back, are applied (R389). -/
def State.applyHeld (s : State) (g : Nat) (w : Workgroup) : State :=
  let s1 := s.modWg g (fun x => { x with heldSubs := [] })
  let s2 := w.heldSubs.foldl (fun t h => t.subBarrier (.wg g h.1) h.2) s1
  let size := s.gangSize w.lid
  if size = 0 then s2
  else
    let key := gangKey w.lid (w.wgi / size)
    let held := (tget? s2.gangs key).elim [] (fun x => x.heldSubs)
    held.foldl (fun t h => t.subBarrier (.gang w.lid (w.wgi / size) h.1) h.2) { s2 with gangs := tmod s2.gangs key (fun x => { x with heldSubs := [] }) }

/-- Software has written a page of the save block since the save (R389). -/
def State.blockSpoilt (s : State) (w : Workgroup) : Bool :=
  w.saved.elim false (fun x => (s.blockPages w).any (fun p => x.2.contains p.1
    && (List.range 65536).any (fun i => s.rd (p.2 + i) ≠ blockByte x.1 (65536 * p.1 + i))))

/-- A register file of free values. -/
def spoilt (o tag n w : Nat) : Tbl (BitVec w) :=
  (List.range n).filterMap (fun i => let x := BitVec.ofNat w (Config.free o tag i); if x = 0 then none else some (i, x))

/-- What becomes of a workgroup whose save block software has written: its crews hold any register values, and take any trap or are killed, or go on
(R389; notes/assumptions/68). -/
def State.spoil (s : State) (w : Workgroup) : State :=
  let fate := Config.free s.oracle 45 0 % 3
  if fate = 0 then s.killLaunch w.lid
  else
    let s1 := w.crews.foldl (fun (t : State) cid => t.modCrew cid (fun c =>
      { c with s := spoilt (s.oracle + cid) 46 64 64, b := spoilt (s.oracle + cid) 47 16 72, p := spoilt (s.oracle + cid) 48 7 32,
               v := spoilt (s.oracle + cid) 49 (32 * (s.kernOf c).vregs) 32 })) s
    if fate = 1 then s1
    else w.crews.foldl (fun (t : State) cid =>
      t.takeTrap cid .s 4 ⟨1 + Config.free s.oracle 45 (1 + cid) % 14, 0, 0, 0, []⟩) s1

/-- Watches whose counter has reached its threshold, now or while the workgroup was switched out, resolve (R261). -/
def State.wakeWatches (s : State) (cid : Nat) : State :=
  match s.guardSets.find? (fun x => x.1 = cid) with
  | none => s
  | some x =>
    let t := x.2.2.foldl (fun (t : State) e => match e.2 with
      | .watch addr thr _ _ met =>
        let out := met.elim false (fun m => m.1 = 0)
        (match t.watchRead ((s.wg? x.2.1).elim 0 (fun w => s.ctxOfLid w.lid)) cid addr.toNat with
          | .ok (u, v, trig) => if thr ≤ v then u.setGuard cid e.1 .yes trig else if out then t.setGuard cid e.1 .yes (s.trig cid e.1) else t
          | .error _ => if out then t.setGuard cid e.1 .yes (s.trig cid e.1) else t)
      | _ => t) s
    t.resolve cid

/-- The workgroups that are coming back with this one: all of a unit start to leave, and to return, under one number. -/
def State.returning (s : State) (w : Workgroup) : List (Nat × Workgroup) := s.wgs.filter (fun x => x.2.phase = .restoring && x.2.order = w.order)

/-- Every page that the save has written can be read. -/
def State.blockReadable (s : State) (w : Workgroup) : Bool :=
  w.saved.elim true (fun x => x.2.all (fun i => match s.access (s.ctxOfLid w.lid) .engine ((s.blockAddr w + 65536 * i) % 2 ^ 72) 65536 with
    | .ok _ => true
    | .error _ => false))

/-- The restore is done, of a whole unit at once: the blocks are free, and the held subtractions apply before any crew issues (R388, R389). -/
def execRestoreComplete (g : Nat) (s : State) : Res :=
  match s.wg? g with
  | none => fin s
  | some w =>
    let unit := s.returning w
    if w.phase ≠ .restoring || !unit.all (fun x => s.blockReadable x.2) then fin s
    else
      let s1 := unit.foldl (fun t x => (t.setWg x.1 { x.2 with phase := .resident, block := none, saved := none }).samplerFlush x.2.core) s
      let s2 := unit.foldl (fun t x => (t.reissueCopies x.1).applyHeld x.1 x.2) s1
      let s3 := unit.foldl (fun t x => ((t.guardSets.filter (fun y => y.2.1 = x.1)).map (fun y => y.1)).foldl State.wakeWatches t) s2
      fin ((unit.filter (fun x => s.blockSpoilt x.2)).foldl (fun t x => t.spoil x.2) s3.fireRounds.openAll)

/-- A restore read faults: the workgroup stays saved until the fault is served, and its unit with it. -/
def execRestoreFault (g va : Nat) (s : State) : Res :=
  match s.wg? g with
  | none => fin s
  | some w =>
    if !(w.phase = .restoring && s.inBlock w va) then fin s
    else
      match s.access (s.ctxOfLid w.lid) .engine va 1 with
      | .ok _ => fin s
      | .error f =>
        let s1 := (s.returning w).foldl (fun (t : State) x => t.setWg x.1 { x.2 with phase := .evicted }) s
        fin (((s1.setWg g { w with phase := .evicted, fault := some va }).fireRounds.finishRetiring).saveRecord g w f)

end Sys2Proof.Machine
end

