-- ==== Sys2Proof/Machine/Gpx.lean ====
section
/-! DEFINITION. Collectives: COLL, the peer transport, targets and hardware work queues (11 R198 to R210; 17 R330, R336; 23 R402). -/

namespace Sys2Proof.Machine

/-! ### COLL at issue (R203, R336) -/

def collForm (wr : Bool) (f : LF) (s : State) : Res :=
  let lbin := bitAt f.low 21
  let n := if wr then 5 else 3
  runL s f (fun s c => [(decide (f.va + n ≤ (s.kernOf c).vregs), Trap.illegal)]) (fun s c r act =>
    if act = 0 then lDone s c
    else
      let len : Option Nat := if !wr then some 128 else if lbin then none else some ((lrunS s.oracle r (bits f.low 27 22)).toNat % 2 ^ 32)
      if len.elim false (fun x => x = 0 || decide (4096 < x)) then .trap { Trap.illegal with lanes := act }
      else
        let src (l : Nat) : Nat := ea (lrunB r (bits f.low 31 28)) (sgn 32 (c.vRd s.oracle (f.va + 1) l).toNat)
        let bad := (lanesOf act).filterMap (fun l => match len with
          | none => none
          | some x => match s.access (s.ctxOf c) .engine (src l) x with
            | .error e => some (l, e)
            | .ok _ => none)
        match bad with
        | (_, e) :: _ => .trap (Trap.access .engine e (maskOf (fun l => bad.any (fun b => b.1 = l))))
        | [] =>
          if s.engineFull .collective (s.coreOf c) then lStall s c
          else
            let srcs := (lanesOf act).filterMap (fun l => (tget? c.threads l).map (fun t =>
              (l, t, (List.range n).map (fun i => c.vRd s.oracle (f.va + i) l), src l)))
            let id := s.nextHandle
            let s' := { s with batches := s.batches ++ srcs.map (fun (x : Nat × Thread × List W32 × Nat) =>
              ({ thread := x.2.1, batch := none, op := id, lane := x.1, coll := true } : BatchItem)) }
            .done (s'.post c r .collective (.coll wr srcs len (bits f.low 25 22)) act false [] (guardField f)))

def execCollAdd (f : LF) (s : State) : Res := collForm false f s
def execCollWr (f : LF) (s : State) : Res := collForm true f s

/-! ### The peer table (R198, R402) -/

/-- The local context of an entry in force, the context it sends to, its payload size and local port. -/
def Pair.ctx (p : Pair) : Nat := bits p.ctl 37 32
def Pair.dctx (p : Pair) : Nat := bits p.ctl 31 16
def Pair.pay (p : Pair) : Nat := if bits p.ctl 47 40 = 0 then 8960 else 64 * bits p.ctl 47 40
def Pair.lport (p : Pair) : Nat := bits p.ctl 15 12

def State.modPair (s : State) (e : Nat) (f : Pair → Pair) : State := { s with pairs := tmod s.pairs e f }

/-- The pair of an entry in use (R202, R402). -/
def State.pair? (s : State) (e : Nat) : Option Pair := (tget? s.pairs e).bind (fun p => if p.valid then some p else none)

/-- The packets of a pair that may be on the wire: the oldest 64 (R200). -/
def Pair.window (p : Pair) : List GpxPacket := p.unacked.take 64

/-! ### Packets on the wire (R199, R201) -/

/-- The 16-byte header. -/
def gpxHeader (p : Pair) (kind len seq : Nat) (busy : Bool) : List Byte :=
  leBytes 1 1 ++ leBytes 1 kind ++ leBytes 2 len ++ leBytes 4 seq ++ leBytes 4 p.expSeq ++ leBytes 1 (if busy then 1 else 0) ++ leBytes 1 0 ++ leBytes 2 p.dctx

/-- Bytes of a record in a DATA payload. -/
def recSize (r : GpxRecord) : Nat := 16 + ceilDiv r.data.length 8 * 8

def recBytes (r : GpxRecord) : List Byte :=
  leBytes 1 (if r.wr then 1 else 0) ++ leBytes 1 (if r.last then 1 else 0) ++ leBytes 2 r.data.length ++ leBytes 4 r.ht ++ leBytes 8 r.daddr ++ r.data
    ++ List.replicate (recSize r - 16 - r.data.length) 0

def arriveBytes (m : ArriveMsg) : List Byte := leBytes 2 m.group ++ leBytes 6 0 ++ leBytes 8 m.frame ++ leBytes 8 m.pres
def decideBytes (d : DecideMsg) : List Byte :=
  leBytes 2 d.group ++ leBytes 1 d.decision ++ leBytes 1 d.index ++ leBytes 4 0 ++ leBytes 8 d.frame ++ leBytes 8 d.pres ++ leBytes 8 d.bitmap

/-- A DATA or ARRIVE packet as it is sent now. -/
def packetBytes (p : Pair) (k : GpxPacket) : List Byte :=
  match k.arrive with
  | some m => gpxHeader p 2 24 k.seq false ++ arriveBytes m
  | none => let bs := k.recs.flatMap recBytes; gpxHeader p 0 bs.length k.seq false ++ bs

/-- Where a pair's packets go. The UDP port of their source is not stated: a free number (notes/assumptions/102). -/
def Pair.dest (p : Pair) (e : Nat) : Dest := ⟨p.lport, p.addr, p.udp, Config.free 0 44 e % 65536⟩

/-- Packets leave by the pair's local port; while it is not up they are discarded and counted (R400). -/
def State.sendBytes (s : State) (e : Nat) (p : Pair) (ks : List (List Byte)) : State :=
  if s.portUp p.lport then { s with out := s.out ++ ks.map (fun bs => Out.gpx e (p.dest e) bs) }
  else if ks.isEmpty then s
  else s.w32 (portBlk p.lport + 0x20) (min (s.r32 (portBlk p.lport + 0x20) + ks.length) (2 ^ 32 - 1))

/-- DATA and ARRIVE packets of a pair leave, with ACKN as it now stands. -/
def State.sendPackets (s : State) (e : Nat) (ks : List GpxPacket) : State :=
  match s.pair? e with
  | none => s
  | some p => s.sendBytes e p (ks.map (packetBytes p))

/-- New packets join a pair's queue, each with the next sequence number. -/
def State.enqueue (s : State) (e : Nat) (ks : List GpxPacket) : State :=
  match s.pair? e with
  | none => s
  | some p =>
    let ks' := ((List.range ks.length).zip ks).map (fun x => { x.2 with seq := (p.sndSeq + x.1) % 2 ^ 32 })
    let room := 64 - min 64 p.unacked.length
    let s := s.modPair e (fun p => { p with sndSeq := (p.sndSeq + ks.length) % 2 ^ 32, unacked := p.unacked ++ ks',
                                            lastProgress := if p.unacked.isEmpty then s.tnow else p.lastProgress })
    s.sendPackets e (ks'.take room)

/-- The header and payload of a packet, if it is of the kind, its LEN agrees with its payload and kind, and its DCTX is the local context of the
pair's entry; every other packet is discarded (R199, R201). -/
def Pair.accepts (p : Pair) (kind : Nat) (bs : List Byte) : Option (GpxHeader × List Byte) :=
  let at_ (i n : Nat) : Nat := leNat ((bs.drop i).take n)
  let h : GpxHeader := { ver := at_ 0 1, kind := at_ 1 1, len := at_ 2 2, seq := at_ 4 4, ackn := at_ 8 4, busy := bitAt (at_ 12 1) 0, dctx := at_ 14 2 }
  let lenOk := match kind with
    | 0 => h.len ≠ 0
    | 1 => h.len = 0
    | 2 => h.len = 24
    | _ => h.len = 32
  if decide (16 ≤ bs.length) && h.ver = 1 && h.kind = kind && h.len = bs.length - 16 && lenOk && h.dctx = p.ctx then some (h, bs.drop 16) else none

/-- The records of a DATA payload, if it holds whole records as R201 lays them out. -/
def parseRecs : Nat → List Byte → Option (List GpxRecord)
  | 0, _ => none
  | fuel + 1, bs =>
    if bs.isEmpty then some []
    else
      let at_ (i n : Nat) : Nat := leNat ((bs.drop i).take n)
      let n := at_ 2 2
      let size := 16 + ceilDiv n 8 * 8
      let wr := at_ 0 1 = 1
      let last := bitAt (at_ 1 1) 0
      if decide (size ≤ bs.length) && decide (at_ 0 1 < 2) && (if wr then decide (n ≤ 4096) && (n ≠ 0 || last) else n = 128 && last) then
        (parseRecs fuel (bs.drop size)).map (fun rs => ({ wr := wr, last := last, ht := at_ 4 4, daddr := at_ 8 8, data := (bs.drop 16).take n } : GpxRecord) :: rs)
      else none

def parseArrive (bs : List Byte) : ArriveMsg :=
  ⟨leNat (bs.take 2), leNat ((bs.drop 8).take 8), leNat ((bs.drop 16).take 8)⟩
def parseDecide (bs : List Byte) : DecideMsg :=
  ⟨leNat (bs.take 2), leNat ((bs.drop 2).take 1), leNat ((bs.drop 3).take 1), leNat ((bs.drop 8).take 8), leNat ((bs.drop 16).take 8), leNat ((bs.drop 24).take 8)⟩

/-! ### Sending (R201, R203, R204, R330) -/

/-- A WR contribution cut at 128-byte source boundaries into parts of at most `most` data bytes; an ADD travels whole. -/
def cutWr (most : Nat) : Nat → Nat → GpxRecord → List GpxRecord
  | 0, _, r => [r]
  | fuel + 1, src, r =>
    if !r.wr || decide (r.data.length ≤ most) then [r]
    else
      let n := (src + most) / 128 * 128 - src
      if n = 0 || (src + most) / 128 * 128 ≤ src then [r]
      else { r with last := false, data := r.data.take n } :: cutWr most fuel (src + n) { r with daddr := r.daddr + n, data := r.data.drop n }

/-- Records packed in order into payloads of at most `pay` bytes. -/
def packRecs (pay : Nat) (rs : List GpxRecord) : List (List GpxRecord) :=
  let r := rs.foldl (fun (a : List (List GpxRecord) × List GpxRecord × Nat) x =>
    if a.2.1.isEmpty || decide (a.2.2 + recSize x ≤ pay) then (a.1, a.2.1 ++ [x], a.2.2 + recSize x)
    else (a.1 ++ [a.2.1], [x], recSize x)) ([], [], 0)
  if r.2.1.isEmpty then r.1 else r.1 ++ [r.2.1]

/-- The contribution of a lane as a record. -/
def laneRec (wr : Bool) (regs : List W32) (data : List Byte) : GpxRecord :=
  let v (i : Nat) : Nat := (regs.getD i 0).toNat
  if wr then { wr := true, last := true, ht := v 4 % 2 ^ 18, daddr := v 2 + 2 ^ 32 * v 3, data := data }
  else { wr := false, last := true, ht := v 2 % 2 ^ 25, daddr := 0, data := data }

/-- An entry takes a context's contributions: bound to it, and its pair up (R198, R202). -/
def State.entryOk (s : State) (e ctx : Nat) : Bool := (s.pair? e).elim false (fun p => p.ctx = ctx && !p.down)

/-- An undelivered contribution is reported (R204). -/
def State.undelivered (s : State) (ctx cid : Nat) (who : Who) (pos : Pos) (e len : Nat) : State :=
  s.deferRec ctx 34 cid who pos 0 0 [(64, 1, e), (68, 4, len)]

/-- A source of a COLL: lane, thread, operand registers, address. -/
abbrev CollSrc := Nat × Thread × List W32 × Nat

/-- The n bytes of a lane's source, read as a copy reads them (R96, R98, R204). -/
def State.collBytes (s : State) (k : Cmd) (x : CollSrc) (n : Nat) : State × List Byte :=
  let r := s.readRanges (k.placeOf s x.1) k.ctx true [(x.2.2.2, n)]
  (r.1, r.2.flatten.flatMap r.1.returned)

/-- A COLL that has left the head with its length is grouped by peer entry, packed and sent; what cannot be delivered is reported (R204, R330). -/
def State.sendColl (s : State) (k : Cmd) (wr : Bool) (srcs : List CollSrc) (n0 : Nat) : State :=
  let n := if n0 ≤ 4096 then n0 else 0
  match srcs.findSome? (fun x => match s.access k.ctx .engine x.2.2.2 n with
    | .error f => some f
    | .ok _ => none) with
  | some f => s.holdCmd k f
  | none =>
    let entry (x : CollSrc) : Nat := (x.2.2.1.getD 0 0).toNat % 256
    let poison := s.touchesPoison (s.rangePieces k.ctx (srcs.map (fun x => (x.2.2.2, n))))
    let s := if 4096 < n0 then s.deferRec k.ctx 35 k.cid k.who k.pos k.act.toNat 0 [(64, 1, (srcs.head?).elim 0 entry), (68, 4, n0)] else s
    let bad := srcs.filter (fun x => !s.entryOk (entry x) k.ctx)
    let good := if poison then [] else srcs.filter (fun x => s.entryOk (entry x) k.ctx)
    let s' := bad.foldl (fun s x => s.undelivered k.ctx k.cid k.who k.pos (entry x) n) s
    let (s', got) := good.foldl (fun (p : State × List (CollSrc × List Byte)) x =>
      let r := p.1.collBytes k x n
      (r.1, p.2 ++ [(x, r.2)])) (s', [])
    let s' := (good.map entry).eraseDups.foldl (fun t e =>
      let pay := (s.pair? e).elim 8960 Pair.pay
      let recs := (got.filter (fun x => entry x.1 = e)).flatMap (fun x => cutWr ((pay - 16) / 8 * 8) 64 x.1.2.2.2 (laneRec wr x.1.2.2.1 x.2))
      t.enqueue e ((packRecs pay recs).map (fun rs => { seq := 0, arrive := none, recs := rs, op := some k.id, cid := k.cid, pos := k.pos, who := k.who }))) s'
    let s' := s'.dropCmd k
    if poison then s'.machineCheck k.cid k.pos 3 (k.who.slot / 64) 0 else s'

/-- The COLL may be sent: it has left the head, and then goes on without its workgroup (R327), or stands there unguarded. -/
def State.collReady (s : State) (k : Cmd) : Bool :=
  k.engine = .collective && !k.held && (k.stage = 1 || s.cmdLive k && k.guard.isNone && s.isHead k)

/-- The collective engine serves the COLLs of a core in issue order (R324). -/
def execCollSend (cid : Nat) (s : State) : Res :=
  match s.cmds.find? (fun k => k.cid = cid && s.collReady k) with
  | none => fin s
  | some k =>
    if s.cmds.any (fun x => s.collReady x && x.unit = k.unit && (decide (x.posted < k.posted) || x.posted = k.posted && decide (x.id < k.id))) then fin s
    else
      let s1 := if k.stage = 1 then s else s.leaveHead k
      match s1.cmds.find? (fun x => x.id = k.id) with
      | some k1 => match k1.op with
        | .coll wr srcs len _ => fin (s1.sendColl k1 wr srcs (len.getD 0))
        | _ => fin s
      | none => fin s

/-! ### Receiving (R199 to R202, R206 to R208) -/

/-- An acknowledgement: packets below ACKN are done, and the window moves (R200). -/
def State.acked (s : State) (e : Nat) (h : GpxHeader) : State :=
  match s.pair? e with
  | none => s
  | some p =>
    match p.unacked with
    | [] => s
    | k :: _ =>
      let n := (h.ackn + 2 ^ 32 - k.seq) % 2 ^ 32
      if n ≤ min 64 p.unacked.length && n ≠ 0 then
        let s := s.modPair e (fun p => { p with unacked := p.unacked.drop n, resends := 0, lastProgress := s.tnow })
        let s := s.sendPackets e (((p.unacked.drop n).take 64).drop (64 - n))
        (s.wgs.map (fun w => w.1)).foldl State.tryRetireWg s
      else if h.busy then s.modPair e (fun p => { p with resends := 0 })
      else s

/-- An ACK packet goes back. -/
def State.sendAck (s : State) (e : Nat) (busy : Bool) : State :=
  match s.pair? e with
  | none => s
  | some p => s.sendBytes e p [gpxHeader p 1 0 0 busy]

/-- The bound target of a handle or tag in a context. -/
def State.targetOf (s : State) (ctx ht : Nat) : Option Target :=
  (tget? s.hwqs (bits ht 5 0)).bind (fun q => if q.ctx = ctx then q.targets.find? (fun t => t.tile = bits ht 17 6) else none)

/-- A contribution can be applied now: its owner is resident and its bytes can be written. -/
def State.canApply (s : State) (ctx : Nat) (r : GpxRecord) : Bool :=
  (s.targetOf ctx r.ht).elim true (fun t => (s.wg? t.g).elim true (fun w => w.phase = .resident))
    && (!r.wr || (s.targetOf ctx r.ht).isNone || (match s.access ctx .copyWrite r.daddr r.data.length with
      | .ok _ => true
      | .error _ => false))

/-- The target counts a contribution, and completes at EXPECT: its push is a release by the engine that has written its contributions (R98, R206,
R208). -/
def State.countTarget (s : State) (ctx ht : Nat) : State :=
  match s.targetOf ctx ht with
  | none => (s.countField (pealBlk + 0x1C) 31 16).poisonQueue ctx (bits ht 5 0)
  | some t =>
    if t.expect ≤ t.count + 1 then
      let p := s.operate (s.placeOf (engineOf 5 (bits ht 17 0))) ⟨false, true, 3, 17⟩ []
      { p.1 with hwqs := tmod p.1.hwqs (bits ht 5 0) (fun q =>
          { q with entries := q.entries ++ [BitVec.ofNat 64 (t.tile + t.expect * 2 ^ 12)], pushes := q.pushes ++ p.2,
                   targets := q.targets.filter (fun x => x.tile ≠ t.tile) }) }
    else
      { s with hwqs := tmod s.hwqs (bits ht 5 0) (fun q =>
          { q with targets := q.targets.map (fun (x : Target) => if x.tile = t.tile then { x with count := x.count + 1 } else x) }) }

/-- Row and columns of an ADD added into a bound tile (R206, R207). -/
def addRow (m : Matrix) (t : Target) (acc ht : Nat) (xs : List Nat) : Matrix :=
  if t.skip && xs.any Fmt.f32.isNan then m
  else
    let row := bits ht 22 18
    let cb := bits ht 24 23
    let key (j : Nat) : Nat := 4096 * acc + 128 * row + 32 * cb + j
    { m with
      acc := tsets m.acc ((List.range 32).map (fun j =>
        (key j, BitVec.ofNat 32 (rne32 ((Fmt.f32.dec (tget 0 m.acc (key j)).toNat).add .rne (Fmt.f32.dec (xs.getD j 0)))))))
      cnt := tset m.cnt (128 * acc + 4 * row + cb) (min 255 (tget 0 m.cnt (128 * acc + 4 * row + cb) + 1)) }

/-- One record of a DATA packet is applied; one for a target that is not bound is discarded (R206). -/
def State.applyRec (s : State) (ctx : Nat) (r : GpxRecord) : State :=
  if r.wr then
    let s1 := if (s.targetOf ctx r.ht).isNone then s
      else match s.access ctx .copyWrite r.daddr r.data.length with
        | .ok ps => s.engineWrite (s.placeOf (engineOf 5 (bits r.ht 17 0))) Sync.plain ctx r.daddr false ps r.data
        | .error _ => s
    if r.last then s1.countTarget ctx r.ht else s1
  else
    let s := match s.targetOf ctx r.ht with
      | some t => match t.acc with
        | some a => s.modMx t.g (fun m => addRow m t a r.ht ((List.range 32).map (fun j => leNat ((r.data.drop (4 * j)).take 4))))
        | none => s
      | none => s
    s.countTarget ctx r.ht

/-- A DATA packet (R200, R201): one with records that R201 does not lay out so is discarded as one whose LEN disagrees with its KIND is
(notes/assumptions/102). -/
def execGpxData (e : Nat) (header payload : List Byte) (s : State) : Res :=
  match s.pair? e with
  | none => fin s
  | some p =>
    if !s.portUp p.lport || p.down then fin s
    else match p.accepts 0 (header ++ payload) with
      | none => fin s
      | some (h, bs) => match parseRecs (bs.length + 1) bs with
        | none => fin s
        | some recs =>
          let s1 := s.acked e h
          if h.seq ≠ p.expSeq then fin (s1.sendAck e false)
          else if !recs.all (s1.canApply p.ctx) then fin (s1.sendAck e true)
          else fin (((recs.foldl (fun t r => t.applyRec p.ctx r) s1).modPair e (fun p => { p with expSeq := (p.expSeq + 1) % 2 ^ 32 })).sendAck e false)

def execGpxAck (e : Nat) (packet : List Byte) (s : State) : Res :=
  match s.pair? e with
  | none => fin s
  | some p =>
    if !s.portUp p.lport then fin s
    else match p.accepts 1 packet with
      | none => fin s
      | some (h, _) => fin (s.acked e h)

/-! ### Recovery (R200, R202) -/

/-- The contributions of packets that will not be acknowledged are reported (R202, R204). -/
def State.giveUp (s : State) (e : Nat) (p : Pair) : State :=
  p.unacked.foldl (fun s k => (k.recs.filter (fun r => r.last)).foldl (fun s r => s.undelivered p.ctx k.cid k.who k.pos e r.data.length) s) s

/-- A pair goes down: nothing more is sent, its contributions are reported, the queues of its context are poisoned. -/
def State.pairDown (s : State) (e : Nat) : State :=
  match s.pair? e with
  | none => s
  | some p =>
    let s := ((s.modPair e (fun p => { p with down := true, unacked := [] })).giveUp e p).poisonCtx p.ctx
    (s.wgs.map (fun w => w.1)).foldl State.tryRetireWg s

/-- When a pair resends: 50 µs after its last progress (R200). -/
def Pair.resendAt (p : Pair) : Option Nat := if p.unacked.isEmpty || p.down || !p.valid then none else some (p.lastProgress + 50000)

/-- 50 µs without progress: go-back-N from the oldest unacknowledged packet, or the pair is down after 256 resends. -/
def execGpxResendTimeout (e : Nat) (s : State) : Res :=
  match s.pair? e with
  | none => fin s
  | some p =>
    if p.resendAt.elim true (fun t => decide (s.tnow < t)) then fin s
    else if 256 ≤ p.resends then fin (s.pairDown e)
    else fin ((s.modPair e (fun p => { p with resends := p.resends + 1, lastProgress := s.tnow })).sendPackets e p.window)

/-- The stored address of a peer entry, as a 128-bit number, first byte most significant (R402). -/
def State.storedAddr (s : State) (base : Nat) : Nat := beNat (leBytes 8 (s.r64 base) ++ leBytes 8 (s.r64 (base + 8)))

/-- A write of a peer entry's fields: V from 0 to 1 starts the pair afresh with the stored values; V to 0 takes it out of use, down or not as it is
until then (R202, R402). The packets of the earlier life are not resent; their contributions are undelivered. -/
def State.writePeer (s : State) (e v : Nat) : State :=
  let v := bits v 63 63 * 2 ^ 63 + bits v 47 40 * 2 ^ 40 + bits v 37 0
  let s := s.w64 (peerBlk e + 0x10) v
  match s.pair? e, bitAt v 63 with
  | none, true =>
    { s with pairs := tset s.pairs e { sndSeq := 0, expSeq := 0, unacked := [], resends := 0, down := false, lastProgress := s.tnow, ctl := v, valid := true,
                                       addr := s.storedAddr (peerBlk e), udp := s.r32 (peerBlk e + 0x18) % 65536 } }
  | some p, false =>
    let s := (s.giveUp e p).modPair e (fun p => { p with valid := false, unacked := [] })
    (s.wgs.map (fun w => w.1)).foldl State.tryRetireWg s
  | _, _ => s

def execPeerRevalidate (e v : Nat) (s : State) : Res := fin (s.writePeer e v)

end Sys2Proof.Machine
end

