-- ==== Sys2Proof/Machine/Peal.lean ====
section
/-! DEFINITION. Peal genlock: arming, the PEAL instruction, arrivals, decisions and frame starts (11 R211 to R219; 14 R258; 02 R48; 23 R403). -/

namespace Sys2Proof.Machine

/-! ### Configuration (R211, R219) -/

def State.pealCfg (s : State) : Nat := s.r32 pealBlk
def State.pealOn (s : State) : Bool := bitAt s.pealCfg 31
def State.pealGroup (s : State) : Nat := s.pealCfg % 65536
def guardOf (cfg : Nat) : Nat := if bits cfg 23 16 = 0 then 1000000 else bits cfg 23 16 * 100000
def State.pealGuard (s : State) : Nat := guardOf s.pealCfg
def State.pealMember (s : State) (m : Nat) : Nat := s.r32 (pealBlk + 0x100 + 4 * m)

/-- The members of a configuration word's list, by number. -/
def State.pealMembers (s : State) (cfg : Nat) : List Nat := (List.range (bits cfg 29 24 + 1)).map s.pealMember

/-- A member's GPX address: the local port's, or the one in force of a peer entry (R211, R402). -/
def State.memberAddr (s : State) (w : Nat) : Nat :=
  if bitAt w 8 then s.storedAddr (portBlk (bits w 12 9) + 0x10) else (s.pair? (w % 256)).elim 0 (fun p => p.addr)

/-- The list obeys R211. -/
def State.pealOk (s : State) (cfg : Nat) : Bool :=
  let ms := s.pealMembers cfg
  let as := ms.map s.memberAddr
  (ms.filter (fun w => bitAt w 8)).length = 1 && ms.all (fun w => w / 2 ^ 13 = 0 && (bitAt w 8 || (s.pair? (w % 256)).isSome))
    && (as.zip (as.drop 1)).all (fun x => decide (x.1 < x.2))

/-- Number of the SELF member; the tenor is member 0. -/
def State.pealSelf (s : State) : Nat := (s.pealMembers s.pealCfg).findIdx (fun w => bitAt w 8)
def State.isTenor (s : State) : Bool := s.pealOn && s.pealSelf = 0

/-- A write of PEAL_CFG. -/
def State.writePealCfg (s : State) (v : Nat) : State :=
  if s.pealOn then (if bitAt v 31 then s else s.setField pealBlk 31 31 0)
  else
    let fields := bits v 29 0
    if !bitAt v 31 then s.w32 pealBlk fields
    else if s.pealOk v then (s.w32 pealBlk (fields + 2 ^ 31)).setField (pealBlk + 0x30) 31 31 0
    else (s.w32 pealBlk fields).setField (pealBlk + 0x30) 31 31 1

def execPealEnable (v : Nat) (s : State) : Res := fin (s.writePealCfg v)

/-! ### Arming (R212) -/

def State.setArmed (s : State) (a : Armed) : State := { s with peal := s.peal.map (fun x => if x.frameNo = a.frameNo then a else x) }

/-- Arrivals held for a frame that has now been armed on the tenor: those delivered by the close count, if TNOW has not passed the PRES they carry
(R214). -/
def State.takeEarly (s : State) (frame pres : Nat) : State :=
  let mine := s.earlyArrivals.filter (fun x => x.2.1.frame = frame && decide (s.tnow ≤ x.2.1.pres) && decide (x.2.2 + s.pealGuard ≤ pres))
  let bit (e : Nat) : Nat := ((List.range 64).filter (fun m =>
    decide (m ≤ bits s.pealCfg 29 24) && !bitAt (s.pealMember m) 8 && s.pealMember m % 256 = e)).foldl (fun a m => a + 2 ^ m) 0
  { s with earlyArrivals := s.earlyArrivals.filter (fun x => x.2.1.frame ≠ frame),
           peal := s.peal.map (fun (a : Armed) => if a.frameNo = frame then { a with arrivals := mine.foldl (fun n x => n ||| bit x.1) a.arrivals } else a) }

/-- A frame object is armed, or its arming refused (R212). -/
def State.arm (s : State) (ctx : Nat) (obj : VA) : State :=
  let refuse : State := s.setField (pealBlk + 0x30) 30 30 1
  match (s.frameRead ctx obj.toNat).bind (parseFrame obj) with
  | none => refuse
  | some (f, _) =>
    if !s.pealOn || f.pealGrp ≠ s.pealGroup || f.pres ≤ s.tnow + s.pealGuard / 4 then refuse
    else if s.peal.any (fun a => a.frameNo = f.frameNo) then s
    else if 8 ≤ s.peal.length then refuse
    else
      let a : Armed := { frameNo := f.frameNo, pres := f.pres, subst := f.subst, obj := obj, ctx := ctx, buffer := none, arrivedSelf := false,
                         arrivals := 0, decided := none, sends := 0, decision := none }
      ({ s with peal := s.peal ++ [a] }).takeEarly f.frameNo f.pres

/-- PEAL_ARM: bits [63:6] of the address, with PEAL_ARMX (R219). The context whose page tables it goes through is not stated
(DESIGN CHOICE, notes/assumptions/14): context 0. -/
def State.pealArmWrite (s : State) (v : Nat) : State :=
  s.arm 0 (BitVec.ofNat 72 (v / 64 % 2 ^ 58 * 64 + s.r32 (pealBlk + 0x28) % 256 * 2 ^ 64))

def execPealArm (v : Nat) (s : State) : Res := fin (s.pealArmWrite v)

/-- STATE of a frame object is written: releases of one agent, the first of them after the release of its PEAL (R48, R213); a write that its pages
refuse writes nothing. -/
def State.writeState (s : State) (a : Armed) (v : Nat) (pre : List Nat) : State :=
  match s.access a.ctx .ring ((a.obj.toNat + 25) % 2 ^ 72) 1 with
  | .ok ps => s.engineWrite { s.placeOf (engineOf 3 0) with pre := pre } ⟨false, true, 4, 3⟩ a.ctx ((a.obj.toNat + 25) % 2 ^ 72) false ps [BitVec.ofNat 8 v]
  | .error _ => s

/-! ### PEAL (R213, R258) -/

/-- ARRIVE goes to the tenor. -/
def State.sendArrive (s : State) (a : Armed) : State :=
  let e := s.pealMember 0 % 256
  if (s.pair? e).elim true (fun p => p.down) then s
  else s.enqueue e [{ seq := 0, arrive := some ⟨s.pealGroup, a.frameNo, a.pres⟩, recs := [], op := none, cid := 0, pos := ⟨0, none⟩ }]

/-- The card's first PEAL for its frame; READY comes after its release. -/
def State.peal1 (s : State) (a : Armed) (buffer : Nat) (pre : List Nat) : State :=
  let early := decide (s.tnow + s.pealGuard < a.pres) && a.decided.isNone
  let a' := { a with buffer := some buffer, arrivedSelf := true, arrivals := if s.isTenor && early then a.arrivals ||| 1 else a.arrivals }
  let s := (s.setArmed a').writeState a' 2 pre
  if s.isTenor then s else s.sendArrive a'

def execPeal (a : SA) (s : State) : Res :=
  runS s a.w true 4 (fun s c =>
    [(((s.launchOf c).bind (fun l => l.frame)).elim false (fun f => s.pealOn && f.pealGrp = s.pealGroup), Trap.illegal)]) (fun s c =>
    match (s.launchOf c).bind (fun l => l.frame) with
    | none => .trap Trap.illegal
    | some f =>
      let pres := (s.peal.find? (fun x => x.frameNo = f.frameNo)).elim f.pres (fun x => x.pres)
      if pres ≤ s.tnow + s.pealGuard / 4 then sDone ((s.fence c c.active .s (tget 0 s.joins s.focus) 1 4 3 false).countField (pealBlk + 0x18) 15 0) c 4
      else
        let n := s.evs.length
        let s := s.fence c c.active .s (tget 0 s.joins s.focus) 1 4 3 false
        let fences := (List.range (s.evs.length - n)).map (fun i => n + i)
        let s1 := if s.peal.any (fun x => x.frameNo = f.frameNo) then s else s.arm (s.ctxOf c) f.obj
        match s1.peal.find? (fun x => x.frameNo = f.frameNo) with
        | none => sDone s1 c 4
        | some x => sDone (if x.buffer.isSome then s1 else s1.peal1 x (c.sRd s.oracle a.sa).toNat fences) c 4)

/-! ### Arrivals and decisions (R214, R216) -/

/-- An ARRIVE of the pair's next sequence number is delivered. -/
def State.deliverArrive (s : State) (e : Nat) (m : ArriveMsg) : State :=
  if !s.isTenor || m.group ≠ s.pealGroup then s
  else match s.peal.find? (fun a => a.frameNo = m.frame) with
    | none => if m.pres < s.tnow then s else { s with earlyArrivals := s.earlyArrivals ++ [(e, m, s.tnow)] }
    | some a => if a.decided.isSome then s else ({ s with earlyArrivals := s.earlyArrivals ++ [(e, m, s.tnow)] }).takeEarly m.frame a.pres

def execArrive (e : Nat) (header payload : List Byte) (s : State) : Res :=
  match s.pair? e with
  | none => fin s
  | some p =>
    if !s.portUp p.lport || p.down then fin s
    else match p.accepts 2 (header ++ payload) with
    | none => fin s
    | some (h, bs) =>
      let s := { s with earlyArrivals := s.earlyArrivals.filter (fun x => decide (s.tnow ≤ x.2.1.pres)) }
      let s1 := s.acked e h
      if h.seq ≠ p.expSeq then fin (s1.sendAck e false)
      else fin (((s1.deliverArrive e (parseArrive bs)).modPair e (fun p => { p with expSeq := (p.expSeq + 1) % 2 ^ 32 })).sendAck e false)

/-- DECIDE to every other member, down or not (R202, R216). -/
def State.sendDecide (s : State) (a : Armed) (index : Nat) : State :=
  match a.decided with
  | none => s
  | some (d, bm) =>
    let msg : DecideMsg := { group := s.pealGroup, decision := d, index := index, frame := a.frameNo, pres := a.pres, bitmap := if d = 2 then bm else 0 }
    (s.pealMembers s.pealCfg).foldl (fun s w =>
      if bitAt w 8 then s
      else match s.pair? (w % 256) with
        | none => s
        | some p => s.sendBytes (w % 256) p [gpxHeader p 3 32 0 false ++ decideBytes msg]) s

/-- The tenor closes the collection at PRES - guard, decides and sends the first DECIDE (R214, R216). -/
def execPealCollectionClose (frame : Nat) (s : State) : Res :=
  match s.peal.find? (fun a => a.frameNo = frame) with
  | none => fin s
  | some a =>
    if !s.isTenor || a.decided.isSome || s.tnow + s.pealGuard < a.pres then fin s
    else
      let n := bits s.pealCfg 29 24 + 1
      let all := (List.range n).all (fun m => bitAt a.arrivals m)
      let d := if all then 0 else if a.subst = 1 then 2 else 1
      let own := if s.tnow + s.pealGuard / 4 < a.pres then some (d, a.arrivals) else none
      let a' := { a with decided := some (d, a.arrivals), sends := 1, decision := own }
      fin ((s.setArmed a').sendDecide a' 0)

/-- The later sends of a decision, every guard/8 (R216). -/
def execPealDecideResend (frame : Nat) (s : State) : Res :=
  match s.peal.find? (fun a => a.frameNo = frame) with
  | none => fin s
  | some a =>
    if a.decided.isNone || 5 ≤ a.sends || s.tnow + s.pealGuard < a.pres + a.sends * (s.pealGuard / 8) then fin s
    else fin ((s.setArmed { a with sends := a.sends + 1 }).sendDecide a a.sends)

/-- A member keeps the first copy that comes in time (R216); a DECIDE that does not come from this card's member 0, or of another group, is
discarded (R432). -/
def execDecideMsg (e : Nat) (header payload : List Byte) (s : State) : Res :=
  match (s.pair? e).bind (fun p => if s.portUp p.lport then p.accepts 3 (header ++ payload) else none) with
  | none => fin s
  | some (_, bs) =>
    let d := parseDecide bs
    if !s.pealOn || d.group ≠ s.pealGroup || bitAt (s.pealMember 0) 8 || s.pealMember 0 % 256 ≠ e then fin s
    else match s.peal.find? (fun a => a.frameNo = d.frame) with
      | none => fin s
      | some a =>
        if a.decision.isSome || a.pres ≤ s.tnow + s.pealGuard / 4 then fin s
        else fin (s.setArmed { a with decision := some (d.decision, d.bitmap) })

/-! ### Frame start (R215, R217, R403) -/

/-- The wall output starts to send the image PEAL_SHOWN names. -/
def State.wallStart (s : State) (start : Nat) : State :=
  let f := bits (s.r32 0x0028) 7 0
  if !bitAt (s.r32 0x0028) 31 then s
  else { s with tx := tmod s.tx f (fun (x : TxFlow) =>
    { x with row := 0, ftx := some (clampTime ((start : Int) + s.fOfs0 true f)), image := some (s.r64 (pealBlk + 0x10)), sent := [] }) }

def execPealFrameStart (frame : Nat) (s : State) : Res :=
  match s.peal.find? (fun a => a.frameNo = frame) with
  | none => fin s
  | some a =>
    if s.tnow < a.pres || a.pres = 2 ^ 64 - 1 then fin s
    else
      let show_ (s : State) : State := (match a.buffer with
        | some b => s.w64 (pealBlk + 0x10) b
        | none => s).writeState a 3 []
      let s1 := match a.decision with
        | none => (s.countField (pealBlk + 0x18) 31 16).writeState a 4 []
        | some (0, _) => show_ s
        | some (2, bm) => if bitAt bm s.pealSelf && a.arrivedSelf then show_ s else (s.w64 (pealBlk + 0x10) (s.r64 (pealBlk + 8))).writeState a 4 []
        | some (_, _) => s.writeState a 4 []
      let s2 := if s.lock = 2 then s1 else s1.countField (pealBlk + 0x1C) 15 0
      fin (({ s2 with peal := s2.peal.filter (fun x => x.frameNo ≠ frame) }).wallStart a.pres)

/-- A write of HIF_WALL (R403, R404). -/
def State.writeWall (s : State) (v : Nat) : State := s.w32 0x0028 (bits v 31 31 * 2 ^ 31 + bits v 7 0)
def execWallEnable (v : Nat) (s : State) : Res := fin (s.writeWall v)

end Sys2Proof.Machine
end

