-- ==== Sys2Proof/Machine/Transcend.lean ====
section
/-! DEFINITION. Transcendentals, VFRC, VRND and VLDEXP (15 R289 to R291). An approximated result is one of those its bound permits,
fixed by the operand's bits (R275, Config.approx). -/

namespace Sys2Proof.Machine

/-- A positive fraction as r * 2^k with r in [1, 2), r in fixed point rounded down, and whether r is exactly 1. -/
def normFrac (n d : Nat) : Nat × Int × Bool :=
  let k := log2Frac n d
  let u := scaleFrac n d (k - fpBits)
  (u.1, k, u.1 = fpOne && u.2.1 = 0)

/-- A fixed-point value with its slack. -/
def ivOf (x : Int) : Iv := (x - fpSlack, x + fpSlack)

/-- A value known exactly. -/
def exact (fm : Fmt) (sat : Bool) (x : Ex) : Nat := round x fm .rne sat

/-- 1 / a (R289). -/
def rcpVal (fm : Fmt) (sat : Bool) (ty x : Nat) (a : Ex) : Nat :=
  match a with
  | .num s n d =>
    if n = 0 then exact fm sat (.inf s)
    else
      let z := normFrac n d
      if z.2.2 && (fm ≠ .f32 || decide (1 - (fm.bias : Int) ≤ log2Frac d n)) then exact fm sat (.num s d n)
      else
        let y : Int := ((fpOne * fpOne / z.1 : Nat) : Int)
        let iv : Iv := ivOf y
        approxIn fm sat 0 ty x (if s then (-iv.2, -iv.1) else iv) (-z.2.1) 1 none
  | .inf s => exact fm sat (.num s 0 1)
  | .nan => fm.canonNan

/-- 1 / sqrt(a): exact at a = 4^k. -/
def rsqVal (fm : Fmt) (sat : Bool) (ty x : Nat) (a : Ex) : Nat :=
  match a with
  | .num s n d =>
    if n = 0 then exact fm sat (.inf s)
    else if s then fm.canonNan
    else
      let z := normFrac n d
      let par := (z.2.1 % 2).toNat
      let k := (z.2.1 - par) / 2
      if z.2.2 && par = 0 then exact fm sat (Ex.ofME false 1 (-k))
      else
        let root := isqrt (z.1 * 2 ^ par * fpOne)
        approxIn fm sat 1 ty x (ivOf ((fpOne * fpOne / root : Nat) : Int)) (-k) 2 none
  | .inf s => if s then fm.canonNan else exact fm sat (.num false 0 1)
  | .nan => fm.canonNan

/-- sqrt(a), correctly rounded by RND. -/
def sqrtVal (fm : Fmt) (mode : RMode) (sat : Bool) (x : Nat) : Nat :=
  match fm.dec x with
  | .num s n _ => if n = 0 then fm.signed s 0 else if s then fm.canonNan
    else round (sqrtEx (fm.me (fm.mag x)).1 (fm.me (fm.mag x)).2) fm mode sat
  | .inf s => if s then fm.canonNan else round (.inf false) fm mode sat
  | .nan => fm.canonNan

/-- 2^a: exact at integers; beyond 4096 in magnitude the result is far outside every format. -/
def exp2Val (fm : Fmt) (sat : Bool) (ty x : Nat) (a : Ex) : Nat :=
  match a with
  | .num s n d =>
    let fl : Int := let q : Int := ((n / d : Nat) : Int); if s then (if n % d = 0 then -q else -q - 1) else q
    let e : Int := if fl < -4096 then -4096 else if 4096 < fl then 4096 else fl
    if n % d = 0 then exact fm sat (Ex.ofME false 1 e)
    else
      let frac := if s then d - n % d else n % d
      let w := Nat.log2 d
      let y := exp2Frac w frac (2 * fpOne) fpOne
      approxIn fm sat 2 ty x (ivOf (y : Int)) e 2 none
  | .inf s => exact fm sat (if s then .num false 0 1 else .inf false)
  | .nan => fm.canonNan

/-- log2 a: exact at powers of two. -/
def log2Val (fm : Fmt) (sat : Bool) (ty x : Nat) (a : Ex) : Nat :=
  match a with
  | .num s n d =>
    if n = 0 then exact fm sat (.inf true)
    else if s then fm.canonNan
    else
      let z := normFrac n d
      if z.2.2 then exact fm sat (Ex.ofInt z.2.1)
      else
        let y : Int := z.2.1 * fpOne + ((log2Digits 128 z.1 0 * 2 ^ (fpBits - 128) : Nat) : Int)
        let sl : Int := 2 ^ (fpBits - 120)
        let inside : Bool := z.2.1 = -1 || z.2.1 = 0
        approxIn fm sat 3 ty x (y - sl, y + sl) 0 (if inside then 0 else 2) (if inside then some 22 else none)
  | .inf s => if s then fm.canonNan else exact fm sat (.inf false)
  | .nan => fm.canonNan

/-- sin and cos of radians: within 2^-21 up to 2^15, beyond it any value in [-1, 1]. -/
def radVal (cosine : Bool) (fm : Fmt) (sat : Bool) (ty x : Nat) (a : Ex) : Nat :=
  match a with
  | .num s n d =>
    if n = 0 then (if cosine then exact fm sat (Ex.ofInt 1) else fm.signed s 0)
    else if 2 ^ 15 * d < n then
      pickOrd fm sat (if cosine then 5 else 4) ty x (-1 - ((fm.magOf .rne false 1 1 : Nat) : Int)) ((fm.magOf .rne false 1 1 : Nat) : Int)
    else
      let v := fpOf false n d
      let t := v % (2 * fpPi)
      let y := if cosine then fpCos t else if s then -(fpSin t) else fpSin t
      approxIn fm sat (if cosine then 5 else 4) ty x (ivOf y) 0 0 (some 21)
  | .inf _ => fm.canonNan
  | .nan => fm.canonNan

/-- sin and cos of pi * a (R289, R290). -/
def piVal (cosine : Bool) (fm : Fmt) (sat : Bool) (ty x : Nat) (a : Ex) : Nat :=
  match a with
  | .num s n d =>
    let whole := n / d
    let r := n % d
    if r = 0 then
      (if cosine then exact fm sat (Ex.ofInt (if whole % 2 = 0 then 1 else -1)) else fm.signed s 0)
    else if 2 * r = d then
      (if cosine then 0
       else exact fm sat (Ex.ofInt (if (whole % 2 = 0) = (s = false) then 1 else -1)))
    else
      let t := fpOf false (whole % 2 * d + r) d * fpPi / fpOne
      let y := if cosine then fpCos t else if s then -(fpSin t) else fpSin t
      approxIn fm sat (if cosine then 7 else 6) ty x (ivOf y) 0 2 (some 23)
  | .inf _ => fm.canonNan
  | .nan => fm.canonNan

/-- tanh a, which lies strictly between -1 and 1. -/
def tanhVal (fm : Fmt) (sat : Bool) (ty x : Nat) (a : Ex) : Nat :=
  match a with
  | .num s n d =>
    if n = 0 then fm.signed s 0
    else
      let E : Int := if 400 * d < n then 0 else fpExpNeg (2 * fpOf false n d)
      let y := (fpOne - E) * fpOne / (fpOne + E)
      let iv : Iv := ((ivOf y).1, min (ivOf y).2 (fpOne - 1))
      approxIn fm sat 8 ty x (if s then (-iv.2, -iv.1) else iv) 0 2 none
  | .inf s => exact fm sat (Ex.ofInt (if s then -1 else 1))
  | .nan => fm.canonNan

/-- A transcendental form (R289): long-latency, element by element; NA acts. -/
def transForm (s : State) (f : LF) (types : List Nat) (op : Fmt → Bool → Nat → Nat → Nat) : Res :=
  ewForm s f types true true false false true (fun f k a _ _ => match k with
    | .flt fm => op fm f.sat f.ty a
    | .int _ _ => 0)

def tT : List Nat := [2] ++ tFP
def execVrcp (f : LF) (s : State) : Res := transForm s f tT (fun fm sat ty a => rcpVal fm sat ty a (fm.dec a))
def execVrsq (f : LF) (s : State) : Res := transForm s f tT (fun fm sat ty a => rsqVal fm sat ty a (fm.dec a))
def execVsqrt (f : LF) (s : State) : Res := transForm s f (tT ++ [7]) (fun fm sat _ a => sqrtVal fm (RMode.of f.rnd) sat a)
def execVexp2 (f : LF) (s : State) : Res := transForm s f tT (fun fm sat ty a => exp2Val fm sat ty a (fm.dec a))
def execVlog2 (f : LF) (s : State) : Res := transForm s f tT (fun fm sat ty a => log2Val fm sat ty a (fm.dec a))
def execVsin (v : TrigVar) (f : LF) (s : State) : Res :=
  transForm s f tT (fun fm sat ty a => match v with
    | .rad => radVal false fm sat ty a (fm.dec a)
    | .pi => piVal false fm sat ty a (fm.dec a))
def execVcos (v : TrigVar) (f : LF) (s : State) : Res :=
  transForm s f tT (fun fm sat ty a => match v with
    | .rad => radVal true fm sat ty a (fm.dec a)
    | .pi => piVal true fm sat ty a (fm.dec a))
def execVtanh (f : LF) (s : State) : Res := transForm s f tT (fun fm sat ty a => tanhVal fm sat ty a (fm.dec a))

/-! ### Rounding forms (R291) -/

/-- a - floor(a), rounded down. -/
def frcVal (fm : Fmt) (sat : Bool) (x : Nat) : Nat :=
  match fm.dec x with
  | .num s n d =>
    let r := n % d
    round (.num false (if s && r ≠ 0 then d - r else r) d) fm .rd sat
  | _ => fm.canonNan

/-- a rounded to an integral value, with the sign of a. -/
def rndVal (fm : Fmt) (mode : RMode) (x : Nat) : Nat :=
  match fm.dec x with
  | .num s n d => round (.num s (roundUnit mode s (n / d) (n % d) d) 1) fm .rz false
  | .inf s => fm.signed s (fm.maxMag + 1)
  | .nan => fm.canonNan

def execVfrc (f : LF) (s : State) : Res :=
  ewForm s f (tF ++ tFP) true false false false false (fun f k a _ _ => match k with
    | .flt fm => frcVal fm f.sat a
    | .int _ _ => 0)
def execVrnd (f : LF) (s : State) : Res :=
  ewForm s f (tF ++ tFP) true false false false false (fun f k a _ _ => match k with
    | .flt fm => rndVal fm (RMode.of f.rnd) a
    | .int _ _ => 0)

/-- a * 2^b (R291): b is one 32-bit value, or signed 16-bit element i of a packed type. -/
def ldexpEx (a : Ex) (b : Int) : Ex :=
  match a with
  | .num s n d =>
    let c : Int := if b < -8192 then -8192 else if 8192 < b then 8192 else b
    if 0 ≤ c then .num s (n * 2 ^ c.toNat) d else .num s n (d * 2 ^ (-c).toNat)
  | x => x
def execVldexp (f : LF) (s : State) : Res :=
  laneFixed s f ((tF ++ tFP).contains f.ty && bOk f) ([rT f.ty f.vd, rT f.ty f.va] ++ rB f r1) (tyRegs f.ty) (fun s c r l =>
    let k := tyKind f.ty
    let on := ftzOn s c f.ty
    let a := opV s c (tyRegs f.ty) f.va l
    let b := opB s c r f 1 false l
    packElems k.w (tyCount f.ty) (fun i => match k with
      | .flt fm => ftz on fm (round (ldexpEx (fm.dec (ftz on fm (elemAt k.w a i)))
          (if tyCount f.ty = 1 then sgn 32 b else sgn 16 (elemAt 16 b i))) fm (RMode.of f.rnd) f.sat)
      | .int _ _ => 0))

end Sys2Proof.Machine
end

