-- ==== Sys2Proof/Machine/Radiance.lean ====
section
/-! DEFINITION. The radiance cache and Kiln (08 R151 to R162; 17 R339): queries, samples, Adam steps, switches, binding and write-back. -/

namespace Sys2Proof.Machine

/-! ### The network (R151, R154) -/

/-- Places of the parameters in the order of R151. -/
def w1At (j i : Nat) : Nat := 32 * j + i
def b1At (j : Nat) : Nat := 2048 + j
def w2At (j i : Nat) : Nat := 2112 + 64 * j + i
def b2At (j : Nat) : Nat := 6208 + j
def w3At (j i : Nat) : Nat := 6272 + 64 * j + i
def b3At (j : Nat) : Nat := 6528 + j
/-- Parameters of the network. -/
def netSize : Nat := 6532

/-- y if y > 0, else +0. -/
def relu (fm : Fmt) (y : Nat) : Nat := if fm.isNan y || fm.neg y || fm.mag y = 0 then 0 else y

/-- One layer's pre-activations in FP32: the bias at index 0, then the exact products in order. -/
def layer (n : Nat) (bias : Nat → Ex) (w : Nat → Nat → Ex) (x : List Ex) : List Nat :=
  (List.range n).map (fun j => sumAsc (bias j :: ((List.range x.length).zip x).map (fun e => (w j e.1).mul e.2)) .f32 .rne false)

/-- A query on FP16 weights: y[0], y[1], y[2] (R154). -/
def queryNet (w : Nat → Nat) (x : List Nat) : List Nat :=
  let d (k : Nat) : Ex := Fmt.f16.dec (w k)
  let half (y : Nat) : Ex := Fmt.f16.dec (relu .f16 (round (Fmt.f32.dec y) .f16 .rne false))
  let h1 := (layer 64 (fun j => d (b1At j)) (fun j i => d (w1At j i)) (x.map Fmt.f16.dec)).map half
  let h2 := (layer 64 (fun j => d (b2At j)) (fun j i => d (w2At j i)) h1).map half
  ((layer 4 (fun j => d (b3At j)) (fun j i => d (w3At j i)) h2).map (relu .f32)).take 3

/-! ### RCQ at issue (R339) -/

/-- The captured version of a slot by a crew's launch. -/
def State.capturedOf (s : State) (c : Crew) (slot : Nat) : Option Nat := (s.launchOf c).bind (fun l => tget? l.versions slot)

def rcqForm (train : Bool) (f : LF) (s : State) : Res :=
  let slot := f.sub % 4
  let blocks : List RBlk := [⟨f.va, 16, false⟩, ⟨f.vd, 3, false⟩] ++ (if train then [⟨f.vc, 4, false⟩] else [])
  runL s f (fun s c => [(regsOk s c blocks, Trap.illegal)]) (fun s c r act =>
    if act = 0 then lDone s c
    else if (s.capturedOf c slot).isNone then .trap { Trap.illegal with lanes := act }
    else if s.engineFull .radiance (engineUnit .radiance (s.coreOf c)) || c.tableFull .l then lStall s c
    else
      let block (reg n : Nat) : List (Nat × List W32) := (lanesOf act).map (fun l => (l, (List.range n).map (fun i => c.vRd s.oracle (reg + i) l)))
      let op : CmdOp := .rcq slot ((s.capturedOf c slot).getD 0) f.vd (block f.va 16) (if train then some (block f.vc 4) else none)
      .done (s.post c r .radiance op act true (destBlock f.vd 3 act (fun _ _ => 0)) (guardField f)))

def execRcq (f : LF) (s : State) : Res := rcqForm false f s
def execRcqTrain (f : LF) (s : State) : Res := rcqForm true f s

/-! ### The unit of a quad (R155, R156) -/

/-- Cycles a query occupies the unit. -/
def rcqCycles (act : W32) : Nat := ceilDiv (6400 * (lanesOf act).length) 1024

/-- Queries that the unit of a quad evaluates. -/
def State.querying (s : State) (quad : Nat) : List Cmd := s.cmds.filter (fun k => k.engine = .radiance && k.unit = quad && k.stage = 1)

/-- The unit takes the next query in the order of R129. -/
def execRcqGrant (quad : Nat) (s : State) : Res :=
  if (s.querying quad).any (fun k => decide (s.cycle < k.started + rcqCycles k.act)) then fin s
  else match s.arbiter (s.ageLimit quad) (s.eligible .radiance quad) with
    | none => fin s
    | some k => fin (s.setCmd { k with stage := 1, started := s.cycle })

/-- The 32 features of a lane's registers (R339). -/
def features (regs : List W32) : List Nat := regs.flatMap (fun w => [w.toNat % 65536, w.toNat / 65536])

/-- The 80 bytes of a sample (R156). -/
def sampleBytes (feats : List W32) (extra : List W32) (quad : Nat) : List Byte :=
  feats.flatMap (fun w => leBytes 4 w.toNat) ++ (extra.take 3).flatMap (fun w => leBytes 4 w.toNat) ++ leBytes 2 (extra.getD 3 0).toNat
    ++ leBytes 1 quad ++ leBytes 1 1

/-- Address of a sample's place. -/
def Rco.place (r : Rco) (i : Nat) : Nat := (r.ring.toNat + 80 * (i % r.rcap)) % 2 ^ 72

/-- Samples in the ring. -/
def Rco.held (r : Rco) : Nat := (r.put + 2 ^ 32 - r.get) % 2 ^ 32

/-- The radiance caches and Kiln write bytes for a slot, as one agent: a thread that has acquired nothing of them may read, for each byte, what was
there before (R84, R156). -/
def State.devWrite (s : State) (slot ctx : Nat) (a : Acc) (y : Sync) (va : Nat) (bs : List Byte) : Except AccFault State :=
  match s.access ctx a va bs.length with
  | .error f => .error f
  | .ok ps => .ok (s.engineWrite (s.placeOf (engineOf 4 slot)) y ctx va false ps bs)

/-- One lane's sample is claimed and written, or dropped (R156); the fault of a failed write is returned. -/
def State.writeSample (s : State) (slot : Nat) (bytes : List Byte) : State × Option AccFault :=
  match tget? s.rcos slot with
  | none => (s, none)
  | some r =>
    let drop (r : Rco) : Rco := { r with drops := (r.drops + 1) % 2 ^ 32 }
    if r.held = r.rcap then ({ s with rcos := tset s.rcos slot (drop r) }, none)
    else
      let claimed := { r with put := (r.put + 1) % 2 ^ 32, faulted := r.faulted.filter (fun i => i ≠ r.put) }
      match s.devWrite slot r.ctx .store Sync.plain (r.place r.put) bytes with
      | .ok s1 => ({ s1 with rcos := tset s1.rcos slot claimed }, none)
      | .error f => ({ s with rcos := tset s.rcos slot (drop { claimed with faulted := claimed.faulted ++ [r.put] }) }, some f)

/-- Samples of a training query, lane by lane; the faults make one deferred record. -/
def State.writeSamples (s : State) (k : Cmd) (slot : Nat) (feats extra : List (Nat × List W32)) : State :=
  let r := feats.foldl (fun (a : State × List (Nat × AccFault)) e =>
    let x := ((extra.find? (fun y => y.1 = e.1)).elim [] (fun y => y.2))
    match a.1.writeSample slot (sampleBytes e.2 x k.unit) with
    | (s', none) => (s', a.2)
    | (s', some f) => (s', a.2 ++ [(e.1, f)])) (s, [])
  match lowestFault (r.2.map (fun x => x.2)) with
  | none => r.1
  | some f => r.1.deferRec k.ctx 36 k.cid k.who k.pos (maskOf (fun l => r.2.any (fun x => x.1 = l))).toNat f.addr [(64, 1, slot)]

/-- The oldest query of a quad ends: its results return, and a training query's samples are written. -/
def execRcqComplete (quad : Nat) (s : State) : Res :=
  match s.querying quad with
  | [] => fin s
  | k :: _ =>
    if s.cycle < k.started + rcqCycles k.act then fin s
    else
      match k.op with
      | .rcq slot ver vd feats train =>
        let w : Tbl (BitVec 16) := (tget? s.rcos slot).elim [] (fun r => if ver = 0 then r.verA else r.verB)
        let y := feats.map (fun e => (e.1, queryNet (fun i => (tget 0 w i).toNat) (features e.2)))
        let vs := destBlock vd 3 k.act (fun i l => BitVec.ofNat 32 (((y.find? (fun e => e.1 = l)).elim [] (fun e => e.2)).getD i 0))
        let s1 := match train with
          | some extra => s.writeSamples k slot feats extra
          | none => s
        fin (((s1.countFor k.cid k.ctx 11 (lanesOf k.act).length).returnPend k.cid k.pid vs).dropCmd k)
      | _ => fin s

/-! ### Kiln's step (R157, R158) -/

/-- A sample as Kiln reads it. -/
structure Sample where
  x : List Nat
  target : List Nat
  weight : Nat
deriving DecidableEq, Repr

def parseSample (bs : List Byte) : Sample :=
  { x := (List.range 32).map (fun i => fld bs (2 * i) 2), target := (List.range 3).map (fun i => fld bs (64 + 4 * i) 4), weight := fld bs 76 2 }

/-- Rejected: something is NaN or infinite, or the weight is negative. A weight of -0 counts as 0, not as negative (DESIGN CHOICE,
notes/assumptions/100). -/
def Sample.rejected (p : Sample) : Bool :=
  (p.weight :: p.x).any (fun y => Fmt.f16.isNan y || Fmt.f16.isInf y) || p.target.any (fun y => Fmt.f32.isNan y || Fmt.f32.isInf y)
    || (Fmt.f16.neg p.weight && Fmt.f16.mag p.weight ≠ 0)

/-- FP32 arithmetic with one rounding. -/
def mul32 (a b : Nat) : Nat := rne32 ((Fmt.f32.dec a).mul (Fmt.f32.dec b))
def add32 (a b : Nat) : Nat := rne32 ((Fmt.f32.dec a).add .rne (Fmt.f32.dec b))
def sub32 (a b : Nat) : Nat := rne32 ((Fmt.f32.dec a).sub .rne (Fmt.f32.dec b))
def div32 (a b : Nat) : Nat := rne32 ((Fmt.f32.dec a).div (Fmt.f32.dec b))

/-- The gradient of every parameter from one sample, by parameter number. -/
def sampleGrad (w : Nat → Nat) (p : Sample) : Nat → Nat :=
  let d (k : Nat) : Ex := Fmt.f32.dec (w k)
  let x := p.x.map Fmt.f16.dec
  let z1 := layer 64 (fun j => d (b1At j)) (fun j i => d (w1At j i)) x
  let h1 := z1.map (relu .f32)
  let z2 := layer 64 (fun j => d (b2At j)) (fun j i => d (w2At j i)) (h1.map Fmt.f32.dec)
  let h2 := z2.map (relu .f32)
  let pred := (layer 4 (fun j => d (b3At j)) (fun j i => d (w3At j i)) (h2.map Fmt.f32.dec)).map (relu .f32)
  let hundredth : Ex := .num false 1 100
  let gOut := (List.range 4).map (fun c =>
    if c = 3 then 0
    else
      let dc := sub32 (pred.getD c 0) (p.target.getD c 0)
      let q := rne32 ((Fmt.f32.dec (mul32 (pred.getD c 0) (pred.getD c 0))).add .rne (Fmt.f32.dec (rne32 hundredth)))
      let num := rne32 (((Ex.ofInt 2).mul (Fmt.f16.dec p.weight)).mul (Fmt.f32.dec dc))
      rne32 ((Fmt.f32.dec (div32 num q)).div (Ex.ofInt 256)))
  let back (n m : Nat) (wt : Nat → Nat → Ex) (g z : List Nat) : List Nat := (List.range n).map (fun i =>
    if relu .f32 (z.getD i 0) = 0 then 0
    else sumAsc ((List.range m).map (fun j => (wt j i).mul (Fmt.f32.dec (g.getD j 0)))) .f32 .rne false)
  let g2 := back 64 4 (fun j i => d (w3At j i)) gOut z2
  let g1 := back 64 64 (fun j i => d (w2At j i)) g2 z1
  fun k =>
    if k < 2048 then rne32 ((Fmt.f32.dec (g1.getD (k / 32) 0)).mul (x.getD (k % 32) (.num false 0 1)))
    else if k < 2112 then g1.getD (k - 2048) 0
    else if k < 6208 then mul32 (g2.getD ((k - 2112) / 64) 0) (h1.getD ((k - 2112) % 64) 0)
    else if k < 6272 then g2.getD (k - 6208) 0
    else if k < 6528 then mul32 (gOut.getD ((k - 6272) / 64) 0) (h2.getD ((k - 6272) % 64) 0)
    else gOut.getD (k - 6528) 0

/-- One Adam step on a batch; none stands for a place that adds +0. -/
def Rco.adam (r : Rco) (batch : List (Option Sample)) : Rco :=
  let grads := batch.map (fun p => p.map (fun x => sampleGrad (fun k => (tget 0 r.theta k).toNat) x))
  let g (k : Nat) : Nat := sumAsc (grads.map (fun f => f.elim (Ex.num false 0 1) (fun h => Fmt.f32.dec (h k)))) .f32 .rne false
  let p1 := mul32 r.p1.toNat r.beta1.toNat
  let p2 := mul32 r.p2.toNat r.beta2.toNat
  let one := rne32 (Ex.ofInt 1)
  let b1 := r.beta1.toNat
  let b2 := r.beta2.toNat
  let new := (List.range netSize).map (fun k =>
    let gk := g k
    let m := add32 (mul32 b1 (tget 0 r.m k).toNat) (mul32 (sub32 one b1) gk)
    let v := add32 (mul32 b2 (tget 0 r.v k).toNat) (mul32 (sub32 one b2) (mul32 gk gk))
    let mh := div32 m (sub32 one p1)
    let vh := div32 v (sub32 one p2)
    let den := add32 (sqrtVal .f32 .rne false vh) r.eps.toNat
    (k, m, v, sub32 (tget 0 r.theta k).toNat (mul32 r.lr.toNat (div32 mh den))))
  { r with
    m := new.map (fun e => (e.1, BitVec.ofNat 32 e.2.1))
    v := new.map (fun e => (e.1, BitVec.ofNat 32 e.2.2.1))
    theta := new.map (fun e => (e.1, BitVec.ofNat 32 e.2.2.2))
    p1 := BitVec.ofNat 32 p1
    p2 := BitVec.ofNat 32 p2
    step := (r.step + 1) % 2 ^ 32
    steps := r.steps + 1 }

/-- Kiln takes no step or switch while its microcode is updated (25 R430). -/
def State.kilnFree (s : State) : Bool := !s.reeve.kilnBusy

/-- The 80 bytes of a sample as Kiln reads them: where software has written there since the unit did, each 8-byte field is the old value or the
new one (R153, R49). -/
def State.sampleRead (s : State) (r : Rco) (i : Nat) : Option (List Byte) :=
  match s.access r.ctx .engine (r.place i) 80 with
  | .error _ => none
  | .ok ps =>
    let keys := paList ps
    let key (j : Nat) : Nat := keys.getD j 0
    let since (w : Nat) : List Nat := ((List.range 8).flatMap (fun j =>
      (s.order (key (8 * w + j))).reverse.takeWhile (fun e => !(s.ev e).thr.all Agent.isEngine))).eraseDups
    let word (w : Nat) (b : Nat → Byte) : List Byte := (List.range 8).map (fun j => b (key (8 * w + j)))
    some ((List.range 10).flatMap (fun w =>
      choose s.oracle 43 (16 * i + w) (word w s.rd) (word w s.rd :: (since w).map (fun e => word w (fun k => s.asOf k e)))))

/-- Kiln may step the slot (R158, R161, R162). -/
def State.kilnMay (s : State) (r : Rco) : Bool :=
  !(r.budget = 0 || r.due || r.wbOwed || r.ubOwed || bitAt (s.r32 0x00141000) 31 || !s.kilnFree || decide (r.held < 256) || decide (r.budget ≤ r.steps))

/-- The 256 places of a slot's next step: a sample each, or none where the write faulted; nothing where Kiln cannot read them all. -/
def State.kilnBatch (s : State) (r : Rco) : Option (List (Option Sample)) :=
  let read := (List.range 256).map (fun i => let at_ := (r.get + i) % 2 ^ 32
    if r.faulted.contains at_ then some none else (s.sampleRead r at_).map (fun bs => some (parseSample bs)))
  if read.any Option.isNone then none else some (read.map (fun x => x.join))

/-- The slot whose turn it is: the first that may take a step, from the one after the last that did (R158). -/
def State.kilnTurn (s : State) : Option Nat :=
  ((List.range 4).map (fun i => (s.kilnNext + i) % 4)).find? (fun n => (tget? s.rcos n).elim false (fun r => s.kilnMay r && (s.kilnBatch r).isSome))

/-- Kiln takes one step of a slot, in its turn. -/
def execKilnStep (slot : Nat) (s : State) : Res :=
  match tget? s.rcos slot with
  | none => fin s
  | some r =>
    if s.kilnTurn ≠ some slot then fin s
    else match s.kilnBatch r with
      | none => fin s
      | some places =>
        let at_ (i : Nat) : Nat := (r.get + i) % 2 ^ 32
        let skipped := (places.filter (fun p => p.elim false Sample.rejected)).length
        let batch := places.map (fun p => p.filter (fun x => !x.rejected && Fmt.f16.mag x.weight ≠ 0))
        let r1 := r.adam batch
        fin { s with kilnNext := (slot + 1) % 4, rcos := tset s.rcos slot { r1 with
          get := (r.get + 256) % 2 ^ 32
          skips := (r.skips + skipped) % 2 ^ 32
          faulted := r.faulted.filter (fun i => !((List.range 256).map at_).contains i) } }

/-! ### Write-back (R153) -/

/-- The ranges that a write-back writes. -/
def Rco.writeBackRanges (r : Rco) : List (Nat × List Byte) :=
  let tbl (t : Tbl W32) : List Byte := (List.range netSize).flatMap (fun k => leBytes 4 (tget 0 t k).toNat)
  let d (o : Nat) : Nat := (r.desc.toNat + o) % 2 ^ 72
  [(d 44, leBytes 4 r.put ++ leBytes 4 r.get ++ leBytes 4 r.drops ++ leBytes 4 r.step), (d 76, leBytes 4 r.p1.toNat ++ leBytes 4 r.p2.toNat),
   (d 88, leBytes 4 r.skips), (r.wbase.toNat, tbl r.theta), (r.m1base.toNat, tbl r.m), (r.m2base.toNat, tbl r.v)]

/-- A write-back is made whole, the descriptor last, each of its writes a release at SYS scope (R153), or fails; a failure is reported, but for a
retry's. -/
def State.writeBack (s : State) (slot : Nat) (retry : Bool) : State × Bool :=
  match tget? s.rcos slot with
  | none => (s, true)
  | some r =>
    let res := (r.writeBackRanges.drop 3 ++ r.writeBackRanges.take 3).foldl (fun a e => match a with
      | .error f => .error f
      | .ok t => State.devWrite t slot r.ctx .save ⟨false, true, 4, 1⟩ e.1 e.2) (Except.ok (ε := AccFault) s)
    match res with
    | .ok t => (t, true)
    | .error f =>
      if retry then (s, false)
      else (s.report r.ctx 40 0 0 0 slot 0xFFFFFFFF 0 0 ⟨0, none⟩ f.addr [(64, 1, 8), (65, 1, f.level)] none none none false, false)

/-- The write-back of a switch; once it is made FLUSH applies, and until then it is owed (R161). -/
def State.switchBack (s : State) (slot : Nat) (retry : Bool) : State :=
  match s.writeBack slot retry with
  | (t, true) => { t with rcos := tmod t.rcos slot (fun (x : Rco) =>
      let y : Rco := { x with wbOwed := false }
      if x.flush then { y with get := y.put, faulted := [] } else y) }
  | (t, false) => { t with rcos := tmod t.rcos slot (fun (x : Rco) => { x with wbOwed := true }) }

/-! ### Switches (R160, R161) -/

/-- Some launch holds a version of a slot. -/
def State.holds (s : State) (slot : Nat) (ver : Option Nat) : Bool :=
  s.launches.any (fun l => (tget? l.2.versions slot).elim false (fun v => ver.elim true (fun x => x = v)))

/-- The version that is not the newest. -/
def Rco.idle (r : Rco) : Nat := if r.newestB then 0 else 1

/-- At its time a switch is served: stepping stops, and a switch that must wait is counted once. -/
def execKilnSwitchDue (slot : Nat) (s : State) : Res :=
  match tget? s.rcos slot with
  | none => fin s
  | some r =>
    match r.pending with
    | none => fin s
    | some (t, _) =>
      if !s.reached (wakeTime t) then fin s
      else
        let waits := s.holds slot (some r.idle)
        let s1 := { s with rcos := tset s.rcos slot { r with due := true, heldCounted := r.heldCounted || waits } }
        fin (if waits && !r.heldCounted then s1.countField (rcuBlk slot + 0x18) 31 16 else s1)

/-- Master weights rounded to FP16 (R153, R161). -/
def halfWeights (theta : Tbl W32) : Tbl (BitVec 16) :=
  (List.range netSize).map (fun k => (k, BitVec.ofNat 16 (round (Fmt.f32.dec (tget 0 theta k).toNat) .f16 .rne false)))

/-- Launches whose capture of the slot waited for this switch capture it now (R160). -/
def State.captureDeferred (s : State) (slot : Nat) (r : Rco) : State :=
  { s with launches := s.launches.map (fun (e : Nat × Launch) =>
      if e.2.deferred.contains slot && e.2.ctx = r.ctx then
        let d := e.2.deferred.filter (fun x => x ≠ slot)
        (e.1, { e.2 with
          deferred := d
          versions := if r.unbinding then e.2.versions else tset e.2.versions slot (r.capture (e.2.frame.map (fun f => f.frameNo)))
          gangWait := if d.isEmpty then some s.tnow else e.2.gangWait })
      else e) }

/-- Steps 3 to 5 of a switch, once nothing holds the idle version. -/
def execKilnSwitchWrite (slot : Nat) (s : State) : Res :=
  match tget? s.rcos slot with
  | none => fin s
  | some r =>
    match r.pending with
    | none => fin s
    | some (_, frame) =>
      if !r.due || !s.kilnFree then fin s
      else if s.holds slot (some r.idle) then
        fin (if r.heldCounted then s else { s with rcos := tset s.rcos slot { r with heldCounted := true } }.countField (rcuBlk slot + 0x18) 31 16)
      else
        let half := halfWeights r.theta
        let r1 : Rco := { r with pending := none, due := false, heldCounted := false, steps := 0, newestB := !r.newestB }
        let r2 : Rco := if r.newestB then { r1 with verA := half, sfnA := some frame } else { r1 with verB := half, sfnB := some frame }
        let s1 := { s with rcos := tset s.rcos slot r2 }.captureDeferred slot r2
        fin (s1.switchBack slot false)

/-! ### Binding (R152, R153, R162) -/

/-- The descriptor, if no "must" of R152 is broken: an RCO without its arrays. -/
def parseRco (ctx : Nat) (desc : VA) (bs : List Byte) : Option Rco :=
  match container bs 0, container bs 10, container bs 20, container bs 30 with
  | some wb, some m1, some m2, some ring =>
    let cap := fld bs 40 4
    let w (i : Nat) : W32 := BitVec.ofNat 32 (fld bs i 4)
    if wb.toNat % 64 = 0 && m1.toNat % 64 = 0 && m2.toNat % 64 = 0 && ring.toNat % 128 = 0 && decide (256 ≤ cap) && decide (cap ≤ 2 ^ 24)
        && 2 ^ Nat.log2 cap = cap && decide (fld bs 86 1 < 2) && fld bs 87 1 = 0 && fld bs 92 36 = 0 then
      some { ctx := ctx, desc := desc, wbase := wb, m1base := m1, m2base := m2, ring := ring, rcap := cap, put := fld bs 44 4, get := fld bs 48 4,
             drops := fld bs 52 4, step := fld bs 56 4, skips := fld bs 88 4, p1 := w 76, p2 := w 80, lr := w 60, beta1 := w 64, beta2 := w 68,
             eps := w 72, budget := fld bs 84 2, flush := bitAt (fld bs 86 1) 0, theta := [], m := [], v := [], verA := [], verB := [],
             sfnA := some 0, sfnB := none, newestB := false, pending := none, heldCounted := false, due := false, steps := 0, wbOwed := false,
             unbinding := false, faulted := [] }
    else none
  | _, _, _, _ => none

/-- An array of FP32 parameters read from memory. -/
def State.readParams (s : State) (ctx : Nat) (base : VA) : Option (Tbl W32) :=
  (s.dread ctx base.toNat (4 * netSize)).map (fun bs => (List.range netSize).map (fun k => (k, BitVec.ofNat 32 (fld bs (4 * k) 4))))

/-- What binding a slot gives, if it succeeds. -/
def State.bindable (s : State) (ctx : Nat) (desc : VA) : Option Rco :=
  match (s.dread ctx desc.toNat 128).bind (parseRco ctx desc) with
  | none => none
  | some r =>
    match s.readParams ctx r.wbase, s.readParams ctx r.m1base, s.readParams ctx r.m2base, s.access ctx .engine r.ring.toNat (80 * r.rcap) with
    | some th, some m, some v, .ok _ => some { r with theta := th, m := m, v := v, verA := halfWeights th, verB := halfWeights th }
    | _, _, _, _ => none

/-- A bind, unbind or switch of the slot is in progress. -/
def State.rcuBusy (s : State) (slot : Nat) : Bool := (tget? s.rcos slot).elim false (fun r => r.due || r.wbOwed || r.unbinding)

/-- A write of RCU_CTL. BIND and UNBIND read 0 from the write on, an unbind that waits shows in BUSY (DESIGN CHOICE, notes/assumptions/99). -/
def State.writeRcuCtl (s : State) (slot v : Nat) : State :=
  let blk := rcuBlk slot
  let bound := (tget? s.rcos slot).isSome
  let busy := s.rcuBusy slot
  let s1 := if bound || busy then s else s.setField (blk + 0x10) 21 16 (bits v 21 16)
  if busy || (bitAt v 31 && bitAt v 30) then s1
  else if bitAt v 31 then
    let desc := BitVec.ofNat 72 ((s1.addr72 blk (blk + 8)).toNat / 128 * 128)
    match if bound then none else s1.bindable (bits (s1.r32 (blk + 0x10)) 21 16) desc with
    | some r => { s1.setField (blk + 0x10) 1 1 0 with rcos := tset s1.rcos slot r }
    | none => s1.setField (blk + 0x10) 1 1 1
  else if bitAt v 30 then { s1 with rcos := tmod s1.rcos slot (fun (r : Rco) => { r with unbinding := true }) }
  else s1

def execBindRco (slot v : Nat) (s : State) : Res := if bitAt v 31 && decide (slot < 4) then fin (s.writeRcuCtl slot v) else fin s
def execUnbindRco (slot v : Nat) (s : State) : Res := if bitAt v 30 && decide (slot < 4) then fin (s.writeRcuCtl slot v) else fin s

/-- An unbind completes: no launch holds a version, a switch's write-back is done (R153, R161), and its own has been made. A switch that is still
scheduled, or due and not begun, does not keep it: it is dropped (DESIGN CHOICE, notes/assumptions/122). -/
def State.unbind (s : State) (slot : Nat) : State :=
  match tget? s.rcos slot with
  | none => s
  | some r =>
    if !r.unbinding || s.holds slot none || r.wbOwed then s
    else match s.writeBack slot r.ubOwed with
      | (s1, false) => { s1 with rcos := tmod s1.rcos slot (fun (x : Rco) => { x with ubOwed := true }) }
      | (s1, true) => { s1.captureDeferred slot r with rcos := tdel s1.rcos slot }

def execUnbindComplete (slot : Nat) (s : State) : Res := fin (s.unbind slot)

/-- A write-back that has faulted is tried again: a switch's, then an unbind's (R153). -/
def execRcuWritebackRetry (slot : Nat) (s : State) : Res :=
  match tget? s.rcos slot with
  | none => fin s
  | some r => fin (if r.wbOwed then s.switchBack slot true else if r.ubOwed then s.unbind slot else s)

/-- A write of KILN_CTL. -/
def State.writeKiln (s : State) (v : Nat) : State := s.setField 0x00141000 31 31 (bits v 31 31)
def execPauseKiln (v : Nat) (s : State) : Res := fin (s.writeKiln v)

end Sys2Proof.Machine
end

