-- ==== Sys2Proof/Machine/Clock.lean ====
section
/-! DEFINITION. The passing of time (02 R40 to R43; 01 R38; 07 R140; 21 R367; 23 R399; 24 R421). -/

namespace Sys2Proof.Machine

/-- Running barrier clocks advance. -/
def tickBars (ns : Nat) (bars : Tbl Barrier) : Tbl Barrier :=
  bars.map (fun (b : Nat × Barrier) => (b.1, { b.2 with clock := b.2.clock.map (fun t => t + ns) }))

/-- The crew is resident and counts (R421). -/
def State.counting (s : State) (c : Crew) : Bool :=
  (s.wg? c.g).elim false (fun w => w.phase = .resident) && !s.partStopped (s.coreOf c) c.part

/-- Crew-cycles and core-cycles of the counters (R421). -/
def State.countCycles (s : State) (n : Nat) : State :=
  let cs := (s.crews.map (fun c => c.2)).filter s.counting
  let cores := (cs.map (fun c => (s.ctxOf c, s.coreOf c))).eraseDups
  let s := cores.foldl (fun s x => s.count x.1 1 n) s
  cs.foldl (fun s c =>
    let s := if c.stop.isNone && (c.keen .s || c.keen .l) then s.count (s.ctxOf c) 4 (if c.lastIssue = s.cycle then n - 1 else n) else s
    match c.wait with
    | .marker _ => s.count (s.ctxOf c) 5 n
    | _ => s) s

/-- The cycles of a round count: it has fired, or the workgroup of some arrived crew is resident (R140, R148). -/
def State.roundRuns (s : State) (r : Round) : Bool :=
  r.fired || r.arrived.any (fun a => (s.crew? a.cid).elim false (fun c => (s.wg? c.g).elim false (fun w => w.phase = .resident || w.phase = .stopping)))

/-- What slewing takes from or adds to an advance of presentation time, in 2^-16 ns: at most 1,000 ppm of it, towards the master, and no more than the
offset that is left; how much is the device's choice (R41, R399). -/
def State.slew (s : State) (advance : Nat) : Nat :=
  if !bitAt (s.r32 ptpcBlk) 31 then 0
  else Config.free s.oracle 50 0 % (min (advance / 1000) (65536 * s.ptp.offset.natAbs - s.ptp.slewed) + 1)

/-- An advance of presentation time by the local clock, with its slewing. -/
def State.passSlewed (s : State) (ns frac : Nat) : Nat :=
  let advance := 65536 * ns + frac
  if 0 ≤ s.ptp.offset then advance + s.slew advance else advance - s.slew advance

/-- Presentation time advances by ns nanoseconds and frac / 2^16, and the device's clock by some cycles. Every clock that counts either
advances with it. -/
def State.passTime (s : State) (ns frac cycles : Nat) : State :=
  let sum := s.tfrac + frac
  let ns' := ns + sum / 65536
  let live := (s.wgs.filter (fun w => s.clockRuns w.1)).map (fun w => w.1)
  let runs (key : Nat) : Bool := (s.barWgs (.gang (key / 2 ^ 32) (key % 2 ^ 32) 0)).all (fun g => live.contains g)
  let s1 := (s.countCycles cycles)
  let s2 : State := if s1.started then { s1 with tnow := min (s1.tnow + ns') (2 ^ 64 - 1), tfrac := sum % 65536 } else s1
  let p : Ptp := { s2.ptp with sinceSync := s2.ptp.sinceSync + ns', inHoldover := if s2.lock = 3 then s2.ptp.inHoldover + ns' else s2.ptp.inHoldover,
                               inStep := s2.ptp.inStep + ns' }
  { s2 with
    cycle := s2.cycle + cycles
    reeve := { s2.reeve with clock := s2.reeve.clock + ns' }
    ptp := p
    wgs := s2.wgs.map (fun (w : Nat × Workgroup) => (w.1, { w.2 with
      bars := if live.contains w.1 then tickBars ns' w.2.bars else w.2.bars
      resident := if w.2.phase = .resident || w.2.phase = .stopping then w.2.resident + cycles else w.2.resident }))
    gangs := s2.gangs.map (fun (x : Nat × Gang) => (x.1, { x.2 with bars := if runs x.1 then tickBars ns' x.2.bars else x.2.bars }))
    rounds := s2.rounds.map (fun (r : Round) => if s2.roundRuns r then { r with elapsed := r.elapsed + cycles } else r) }

end Sys2Proof.Machine
end

