-- ==== Sys2Proof/Machine/Shake.lean ====
section
/-! DEFINITION. SHAKE256 with 64 bytes of output (25 R429, R431): the sponge over Keccak-f[1600] that FIPS 202 fixes, of which the manual gives the name and
the length of the output. -/

namespace Sys2Proof.Machine

/-- The constants of the 24 rounds. -/
def keccakRounds : List W64 :=
  [0x0000000000000001, 0x0000000000008082, 0x800000000000808A, 0x8000000080008000, 0x000000000000808B, 0x0000000080000001, 0x8000000080008081,
   0x8000000000008009, 0x000000000000008A, 0x0000000000000088, 0x0000000080008009, 0x000000008000000A] ++
  [0x000000008000808B, 0x800000000000008B, 0x8000000000008089, 0x8000000000008003, 0x8000000000008002, 0x8000000000000080, 0x000000000000800A,
   0x800000008000000A, 0x8000000080008081, 0x8000000000008080, 0x0000000080000001, 0x8000000080008008]

/-- How far each lane turns, lane (x, y) at 5 y + x. -/
def keccakTurns : List Nat := [0, 1, 62, 28, 27] ++ [36, 44, 6, 55, 20] ++ [3, 10, 43, 25, 39] ++ [41, 45, 15, 21, 8] ++ [18, 2, 61, 56, 14]

/-- One round on the 25 lanes. -/
def keccakRound (a : List W64) (rc : W64) : List W64 :=
  let lane (a : List W64) (x y : Nat) : W64 := a.getD (5 * (y % 5) + x % 5) 0
  let column := (List.range 5).map (fun x => (List.range 5).foldl (fun z y => z ^^^ lane a x y) 0)
  let mixed := (List.range 25).map (fun i => a.getD i 0 ^^^ column.getD ((i + 4) % 5) 0 ^^^ (column.getD ((i + 1) % 5) 0).rotateLeft 1)
  let turned := (List.range 25).map (fun i => (mixed.getD i 0).rotateLeft (keccakTurns.getD i 0))
  let placed := (List.range 25).map (fun i => lane turned (i % 5 + 3 * (i / 5)) (i % 5))
  let out := (List.range 25).map (fun i => lane placed i (i / 5) ^^^ (~~~(lane placed (i + 1) (i / 5)) &&& lane placed (i + 2) (i / 5)))
  match out with
  | z :: rest => (z ^^^ rc) :: rest
  | [] => []

/-- Keccak-f[1600]. -/
def keccakF (a : List W64) : List W64 := keccakRounds.foldl keccakRound a

/-- A message's blocks of 136 bytes, padded as an extendable output is. -/
def shakePad (data : List Byte) : List Byte :=
  let n := 136 - data.length % 136
  data ++ (if n = 1 then [0x9F] else 0x1F :: List.replicate (n - 2) 0 ++ [0x80])

def shake256 (data : List Byte) : List Byte :=
  let msg := shakePad data
  let absorb (a : List W64) (k : Nat) : List W64 :=
    keccakF ((List.range 25).map (fun i => a.getD i 0 ^^^ (if i < 17 then BitVec.ofNat 64 (leNat ((msg.drop (136 * k + 8 * i)).take 8)) else 0)))
  (((List.range (msg.length / 136)).foldl absorb (List.replicate 25 0)).take 8).flatMap (fun w => leBytes 8 w.toNat)

end Sys2Proof.Machine
end

