-- ==== Sys2Proof/Machine/Boot.lean ====
section
/-! DEFINITION. Bring-up, the PTP clock unit and the Ethernet ports (23 R397 to R400, R404, R405; 02 R41; 25 R425, R426). -/

namespace Sys2Proof.Machine

/-! ### HIF_BOOT (R397, R404) -/

/-- HIF_BOOT.STATE changes, which raises vector 0; the time spent in the step begins anew. -/
def State.setBoot (s : State) (v : Nat) : State :=
  if s.bootState = v then s else State.interrupt { s.setField 0x000C 31 28 v with ptp := { s.ptp with inStep := 0 } } 0

/-- FAIL_STEP of HIF_BOOT. -/
def State.failStep (s : State) : Nat := bits (s.r32 0x000C) 27 25

/-- A step fails for good. -/
def State.failBoot (s : State) (step info : Nat) : State :=
  (((s.setField 0x000C 27 25 step).w32 0x0008 (info % 2 ^ 24)).setBoot 15).logEvent .bringup step

/-! ### Ports (R400, R404) -/

/-- STATE of a port. -/
def State.portState (s : State) (p : Nat) : Nat := bits (s.r32 (portBlk p)) 1 0

/-- STATE of a present port changes, which raises vector 130. -/
def State.setPort (s : State) (p v : Nat) : State := if s.portState p = v then s else (s.setField (portBlk p) 1 0 v).interrupt 130

/-- A present port with EN set trains. -/
def State.trainPort (s : State) (p : Nat) : State := if s.portPresent p && bitAt (s.r32 (portBlk p)) 31 then s.setPort p 1 else s

/-- A write of a port's EN and AN: EN and AN are stored, clearing EN sets STATE to 0, and the write trains a port whose EN it sets. -/
def State.writePort (s : State) (p v : Nat) : State :=
  let s1 := s.setField (portBlk p) 31 30 (bits v 31 30)
  if !s1.portPresent p then s1 else if bitAt v 31 then s1.trainPort p else s1.setPort p 0

def execPortTrain (p v : Nat) (s : State) : Res := if bitAt v 31 then fin (s.writePort p v) else fin s
def execPortDisable (p v : Nat) (s : State) : Res := if bitAt v 31 then fin s else fin (s.writePort p v)

/-- Training ends; a failure in step 4 of bring-up goes to the event log (R397). -/
def execPortTrainDone (p : Nat) (up : Bool) (s : State) : Res :=
  if s.portPresent p && s.portState p = 1 then
    let s1 := s.setPort p (if up then 2 else 3)
    fin (if !up && s.bootState = 4 then s1.logEvent .bringup p else s1)
  else fin s

/-- Every port trains; those of the old layout that are gone read STATE 0. -/
def State.retrain (s : State) : State :=
  (List.range 16).foldl (fun t p => if t.portPresent p then t.trainPort p else t.setField (portBlk p) 1 0 0) s

/-- A flow names a port that is absent. -/
def State.flowGone (s : State) (tx : Bool) (f : Nat) : Bool :=
  !s.portPresent (bits (s.fCtl tx f) 51 48) || (bitAt (s.fCtl tx f) 61 && !s.portPresent (bits (s.fCtl tx f) 55 52))

/-- A write of HIF_ETHMODE (R400). -/
def State.writeEthmode (s : State) (v : Nat) : State :=
  if v % 4 = 3 || v % 4 = bits (s.r32 0x0020) 1 0 then s
  else
    let s1 := s.w32 0x0020 (v % 4)
    let s2 := (s1.rx.map (fun r => r.1)).foldl (fun t f => if t.flowGone false f then t.disableFlow false f 0 else t) s1
    let s3 := (s2.tx.map (fun r => r.1)).foldl (fun t f => if t.flowGone true f then t.disableFlow true f 0 else t) s2
    s3.retrain

def execEthmodeSet (v : Nat) (s : State) : Res := fin (s.writeEthmode v)

/-! ### The PTP clock unit (R398, R399, R405) -/

def State.ptpOn (s : State) : Bool := bitAt (s.r32 ptpcBlk) 31

/-- LOCK changes, which raises vector 129; the count of good Syncs and the time in holdover begin again. -/
def State.setLock (s : State) (v : Nat) : State :=
  if s.lock = v then s
  else State.interrupt { s.setField (ptpcBlk + 8) 1 0 v with ptp := { s.ptp with good := 0, inHoldover := 0 } } 129

/-- READY: without a Sync so far, presentation time starts from Reeve's clock, and the clock unit is free-running (R398). -/
def State.enterReady (s : State) : State :=
  let s1 : State := if s.started then s else { s with started := true, tnow := s.reeveTime, tfrac := 0 }
  (if s.started then s1 else s1.setLock 0).setBoot 6

/-- LOCK becomes 2, which ends step 5 of bring-up (R397). -/
def State.lockUp (s : State) : State :=
  let s1 := s.setLock 2
  if s1.bootState = 5 then s1.enterReady else s1

/-- The unit takes PTP messages of its domain on its ports. -/
def State.ptpHears (s : State) (port domain : Nat) : Bool :=
  s.ptpOn && s.portUp port && bitAt (bits (s.r32 ptpcBlk) 15 0) port && bits (s.r32 ptpcBlk) 23 16 = domain

/-- A Sync: the first of step 5 starts the count; later ones measure the offset, which LOCK follows. -/
def execPtpSync (m : PtpMsg) (s : State) : Res :=
  if !s.ptpHears m.port m.domain then fin s
  else
    let s0 : State := { s with ptp := { s.ptp with sinceSync := 0, slewed := 0 } }
    let s1 : State := if s0.started then s0 else if s0.bootState = 5 then { s0 with started := true, tnow := m.masterTime % 2 ^ 64, tfrac := 0 } else s0
    if !s1.started then fin s1
    else
      let off : Int := (m.masterTime : Int) - (s1.tnow : Int)
      let good := if off.natAbs ≤ 100 then s1.ptp.good + 1 else 0
      let s2 : State := { s1.w32 (ptpcBlk + 12) (satInt 32 true off) with ptp := { s1.ptp with good := good, offset := off } }
      let s3 := if 1000000 < off then s2.setField (ptpcBlk + 8) 2 2 1 else s2
      if (s3.lock = 1 || s3.lock = 3) && decide (16 ≤ good) then fin s3.lockUp
      else if s3.lock = 2 && decide (1000 < off.natAbs) then fin (s3.setLock 3)
      else fin s3

/-- An Announce from a master starts acquiring. -/
def execPtpAnnounce (port domain : Nat) (s : State) : Res :=
  if s.ptpHears port domain && s.lock = 0 then fin (s.setLock 1) else fin s

/-- No Sync for 3 s. -/
def execPtpSyncLoss (s : State) : Res :=
  if s.lock = 2 && decide (3000000000 ≤ s.ptp.sinceSync) then fin (s.setLock 3) else fin s

/-- HOLD seconds in holdover. -/
def execHoldoverExpiry (s : State) : Res :=
  if s.lock = 3 && decide (s.r32 (ptpcBlk + 0x18) % 65536 * 1000000000 ≤ s.ptp.inHoldover) then fin (s.setLock 0) else fin s

/-- A write of PTPC_CTL. -/
def State.writePtpc (s : State) (v : Nat) : State :=
  let s1 := s.w32 ptpcBlk (bits v 31 30 * 2 ^ 30 + bits v 23 0)
  if bitAt v 31 then s1 else s1.setLock 0

def execPtpcDisable (s : State) : Res := fin (s.writePtpc (setBits (s.r32 ptpcBlk) 31 31 0))

/-- A 64-bit write of PTPC_STEP: presentation time jumps, and every clock that counts it counts the step as elapsed (R41, R405). -/
def State.ptpStep (s : State) (v : Nat) : State :=
  if v = 0 then s
  else if 2 ^ 63 ≤ v || 2 ^ 64 - 2 < s.tnow + v then s.setField (ptpcBlk + 8) 3 3 1
  else (s.setField (ptpcBlk + 8) 2 2 0).passTime v 0 0

def execPtpcStep (v : Nat) (s : State) : Res := fin (s.ptpStep v)

/-! ### Bring-up (R397, R398) -/

/-- The network links train. -/
def State.enterNet (s : State) : State := (List.range 16).foldl State.trainPort (s.setBoot 4)

/-- Every enabled port of the layout has been trained. -/
def State.portsDone (s : State) : Bool :=
  (List.range 16).all (fun p => !s.portPresent p || !bitAt (s.r32 (portBlk p)) 31 || s.portState p = 2 || s.portState p = 3)

/-- An image is loaded, or an update accepted: M is extended by its digest (R431). -/
def State.extend (s : State) (digest : List Byte) : State := { s with reeve := { s.reeve with meas := shake256 (s.reeve.meas ++ digest) } }

/-- The digest of the image in Reeve's flash: that of the last update accepted for Reeve, else of the image the card came with (R430, R431). -/
def State.imageDigest (s : State) : List Byte := (s.reeve.image.map (fun i => i.1)).getD ((List.range 64).map Config.reeveDigest)

/-- The link of step 3: below full width or speed DEGRADED is set; without a link the host sees nothing until it is up. Either is logged. -/
def State.linkResult (s : State) (r : StepResult) : State :=
  match r with
  | .ok => { s with noLink := false }
  | .degraded => ({ s with noLink := false }.setField 0x000C 24 24 1).logEvent .bringup 3
  | .failed _ => { s with noLink := true }.logEvent .bringup 3

/-- The current step of bring-up ends; step 3 without a link goes on, and step 5 ends by its lock or its time-out alone. -/
def execBringupStepEnd (r : StepResult) (s : State) : Res :=
  match s.bootState, r with
  | 1, .failed info => fin (s.failBoot 1 info)
  | 1, _ => fin ((s.extend s.imageDigest).setBoot 2)
  | 2, .failed info => fin (s.failBoot 2 info)
  | 2, _ => fin ((s.w64 0x0010 Config.usableBytes).setBoot 3)
  | 3, .failed info => fin (s.linkResult (.failed info))
  | 3, r => fin (s.linkResult r).enterNet
  | 4, _ => if s.portsDone then fin (s.setBoot 5) else fin s
  | 15, r => if s.failStep = 1 || s.failStep = 2 then fin (s.linkResult r) else fin s
  | _, _ => fin s

/-- 10 s of step 5 without lock. -/
def execPtplockTimeout (s : State) : Res :=
  if s.bootState = 5 && s.lock ≠ 2 && decide (10000000000 ≤ s.ptp.inStep) then fin ((s.setField 0x000C 23 23 1).enterReady.logEvent .bringup 5) else fin s

/-- Power-on or reset: what Reeve keeps in flash stays, everything else is as after reset. -/
def execPowerOnReset (s : State) : Res :=
  fin { State.reset with
    oracle := s.oracle
    agenda := s.agenda
    out := s.out
    reeve := { Reeve.reset with log := s.reeve.log, spares := s.reeve.spares.filter (fun x => !x.testing), retiredFlash := s.reeve.retiredFlash,
                                slicesFlash := s.reeve.slicesFlash, retired := s.reeve.retiredFlash, svn := s.reeve.svn, clock := s.reeve.clock,
                                image := s.reeve.image } }

end Sys2Proof.Machine
end

