-- ==== Sys2Proof/Machine/Reeve.lean ====
section
/-! DEFINITION. Reeve: sensors, errors in on-die arrays, retirement, signed updates, attestation, the event log (25 R425 to R433; 22 R384). -/

namespace Sys2Proof.Machine

/-! ### Sensors (R425) -/

/-- Offset of a sensor's register. -/
def sensOff (n : Nat) : Nat := reeveBlk + 0x100 + 4 * n

/-- One sensor's reading and level; a change of level is logged. -/
def State.sensor (s : State) (n reading level : Nat) : State :=
  let old := bits (s.r32 (sensOff n)) 17 16
  let s1 := s.w32 (sensOff n) (reading % 65536 + level % 4 * 65536)
  if old = level % 4 then s1 else s1.logEvent .level n

/-- Reeve reads its 64 sensors. Level 2 lowers the clock, which changes timing only, until every sensor has been at level 0 for 1 s, or 1,000 intervals of
its readings (notes/assumptions/80); level 3 kills every launch and fails the device until reset. -/
def execSensorSample (readings levels : List Nat) (s : State) : Res :=
  let s1 := (List.range 64).foldl (fun t n => t.sensor n (readings.getD n 0) (levels.getD n 0)) s
  let hot := levels.any (fun l => decide (2 ≤ l % 4))
  let cool := if levels.any (fun l => l % 4 ≠ 0) then 0 else s1.reeve.cool + 1
  let s2 : State := { s1 with reeve := { s1.reeve with throttled := hot || (s1.reeve.throttled && decide (cool ≤ 1000)), cool := cool } }
  if (levels.take 64).any (fun l => l % 4 = 3) then fin (((s2.setField 0x000C 27 25 7).setBoot 15).killAll) else fin s2

/-! ### Errors in on-die arrays (R427, R384) -/

/-- An error in an on-die array: the test of its row, and for one in a crew's registers or pool that cannot be corrected a machine check. -/
def execArrayError (e : ArrayErr) (s : State) : Res :=
  let a := arrayNo e.kind e.unit
  let busy := s.reeve.spares.any (fun x => x.array = a && x.testing) && !s.reeve.spares.any (fun x => x.array = a && x.row = e.row && x.testing)
  let s1 : State := if decide (spareRows ≤ e.row) && busy then { s with reeve := { s.reeve with queuedErrs := s.reeve.queuedErrs ++ [(a, e.row)] } }
    else s.testRow a e.row
  match e.crew, e.kind, e.corrected with
  | some cid, .regFile, false => fin (s1.machineCheck cid ((s1.crew? cid).elim ⟨0, none⟩ Crew.sPos) 0 e.unit e.row)
  | some cid, .pool, false => fin (s1.machineCheck cid ((s1.crew? cid).elim ⟨0, none⟩ Crew.sPos) 1 e.unit e.row)
  | _, _, _ => fin s1

/-- March C− ends: the row is transient and its spare free again, or lasting and the spare stays. Errors queued for the array are tested next. -/
def execRowTestDone (a row : Nat) (lasting : Bool) (s : State) : Res :=
  if s.reeve.spares.any (fun x => x.array = a && x.row = row && x.testing) then fin (s.endTest a row lasting) else fin s

/-! ### The mailbox (R433) -/

/-- A command: the executed one is held as number 0 with its status. -/
def State.cmdStatus (s : State) (st : Nat) : State := { s with reeve := { s.reeve with busyCmd := some (0, st) } }

/-- A write of REEVE_MBOX. -/
def State.writeMbox (s : State) (v : Nat) : State :=
  if bitAt (s.r32 reeveBlk) 31 then s
  else
    let s1 := (s.setField reeveBlk 27 24 (bits v 27 24)).setField reeveBlk 15 8 (bits v 15 8)
    if !bitAt v 31 then s1
    else
      let cmd := bits v 27 24
      { s1.setField reeveBlk 31 31 1 with
        reeve := { s1.reeve with busyCmd := some (if decide (1 ≤ cmd) && decide (cmd ≤ 4) then (cmd, bits v 15 8) else (0, 3)) } }

/-- The argument of the command of a number, if it waits to be carried out. -/
def State.cmdArg (s : State) (cmd : Nat) : Option Nat := s.reeve.busyCmd.bind (fun c => if c.1 = cmd then some c.2 else none)

/-- The command is done: GO reads 0. -/
def execReeveCommandDone (s : State) : Res :=
  match s.reeve.busyCmd with
  | some (0, st) =>
    let s1 := (s.setField reeveBlk 31 31 0).setField reeveBlk 7 0 st
    fin { s1 with reeve := { s1.reeve with busyCmd := none } }
  | _ => fin s

/-- REEVE_BUF and REEVE_LEN, and whether n bytes from an offset of the buffer are memory. -/
def State.reeveBuf (s : State) : Nat := bits (s.r64 (reeveBlk + 8)) 51 6 * 64
def State.reeveLen (s : State) : Nat := s.r32 (reeveBlk + 0x10)
def State.bufOk (s : State) (off n : Nat) : Bool := bitAt s.reeveBuf 51 || decide (s.reeveBuf + off + n ≤ s.memSize)

/-! ### Updates (R429, R430) -/

/-- Lengths of an image's header and signature. -/
def hdrLen : Nat := 96
def sigLen : Nat := 1280

/-- Every byte of the header that has no name is 0, and the rest says what the image is. -/
def hdrOk (h : List Byte) (len : Nat) : Bool :=
  leNat (h.take 4) = 0x46574C47 && decide (leNat ((h.drop 4).take 1) ≤ 2) && leNat ((h.drop 6).take 2) = 0 && leNat ((h.drop 80).take 16) = 0
    && decide (hdrLen + sigLen + leNat ((h.drop 12).take 4) ≤ len)

/-- The effect of an accepted update: Reeve's image goes to flash and is loaded at the next reset, a port trains anew, Kiln's microcode waits for it to be
idle. -/
def State.applyUpdate (s : State) (target port : Nat) (digest payload : List Byte) : State :=
  if target = 1 then (if s.portState port = 2 then s.setPort port 1 else s)
  else if target = 2 then { s with reeve := { s.reeve with kilnUpdate := true } }
  else { s with reeve := { s.reeve with image := some (digest, payload) } }

/-- UPDATE verifies an image and applies it. -/
def State.update (s : State) : State :=
  if !s.bufOk 0 s.reeveLen then s.cmdStatus 4
  else
    let img := s.pread s.reeveBuf s.reeveLen
    let h := img.take hdrLen
    let n := leNat ((h.drop 12).take 4)
    let digest := (h.drop 16).take 64
    let payload := (img.drop (hdrLen + sigLen)).take n
    let target := leNat ((h.drop 4).take 1)
    let port := leNat ((h.drop 5).take 1)
    let svn := leNat ((h.drop 8).take 4)
    if !Config.falconOk h ((img.drop hdrLen).take sigLen) || shake256 payload ≠ digest then s.cmdStatus 1
    else if svn < tget 0 s.reeve.svn target then s.cmdStatus 2
    else if !hdrOk h s.reeveLen || (target = 1 && !s.portPresent port) then s.cmdStatus 3
    else
      let s1 : State := { s with reeve := { s.reeve with svn := tset s.reeve.svn target svn } }
      (((s1.extend digest).applyUpdate target port digest payload).logEvent .update (if target = 1 then port else s.noSource)).cmdStatus 0

def execUpdateCmd (s : State) : Res := if (s.cmdArg 1).isSome then fin s.update else fin s

/-- KILN_CTL.IDLE: no step or switch is in progress; a switch whose write-back is retried is (R153, R161). -/
def State.kilnIdle (s : State) : Bool := s.rcos.all (fun r => !(r.2.due || r.2.wbOwed))

/-- New microcode goes in once Kiln is idle. -/
def execKilnUpdateApply (s : State) : Res :=
  if s.reeve.kilnUpdate && s.kilnIdle then fin { s with reeve := { s.reeve with kilnUpdate := false, kilnBusy := true } } else fin s

/-- The update ends; a switch that fell due meanwhile can be served. -/
def execKilnUpdateDone (s : State) : Res := fin { s with reeve := { s.reeve with kilnBusy := false } }

/-! ### RETIRE, QUOTE, LOGREAD (R426, R428, R431) -/

def execRetireCmd (s : State) : Res :=
  match s.cmdArg 2 with
  | none => fin s
  | some q =>
    if !s.quadLive q || s.reeve.retiring.contains q || decide (s.quadsLive - s.reeve.retiring.length ≤ 1) then fin (s.cmdStatus 3)
    else fin ((s.retireQuad q false).cmdStatus 0)

/-- The taint mask: bit c is DBG_CTL.TAINT of context c. -/
def State.taints (s : State) : Nat := (List.range 64).foldl (fun a c => if bitAt (s.r32 (dbgBlk c)) 30 then a + 2 ^ c else a) 0

/-- The report, with its signature; numbers without a stated size have 4 bytes (notes/assumptions/35). -/
def State.report431 (s : State) (nonce : List Byte) : List Byte :=
  let body := nonce ++ s.reeve.meas ++ (List.range 3).flatMap (fun t => leBytes 4 (tget 0 s.reeve.svn t)) ++ leBytes 4 s.quadsLive ++ leBytes 8 s.taints
    ++ leBytes 8 s.tnow
  body ++ Config.falconSign body

def execQuoteCmd (s : State) : Res :=
  if (s.cmdArg 3).isNone then fin s
  else
    let r := s.report431 (s.pread s.reeveBuf 32)
    if s.bufOk 0 (32 + r.length) then fin ((s.pwrite (s.reeveBuf + 32) r).cmdStatus 0) else fin (s.cmdStatus 4)

/-- The 32 bytes of a log record. -/
def LogRec.bytes (r : LogRec) : List Byte := leBytes 8 r.time ++ leBytes 4 r.num ++ leBytes 2 r.code ++ leBytes 2 r.source ++ leBytes 16 r.detail

/-- LOGREAD copies the records that exist from a number on, REEVE_LEN[15:0] bytes of them (notes/assumptions/35). -/
def execLogreadCmd (s : State) : Res :=
  match s.cmdArg 4 with
  | none => fin s
  | some page =>
    let n := s.reeveLen % 65536 / 32
    let start := page * 65536 + s.reeveLen / 65536
    if !s.bufOk 0 (32 * n) then fin (s.cmdStatus 4)
    else
      fin (State.cmdStatus ((List.range n).foldl (fun t i =>
        match t.reeve.log.find? (fun r => r.num = start + i) with
        | some r => t.pwrite (t.reeveBuf + 32 * i) r.bytes
        | none => t) s) 0)

end Sys2Proof.Machine
end

