-- ==== Sys2Proof/Machine/CrewEvents.lean ====
section
/-! DEFINITION. Events of crews: retirement, barrier time-outs, the end of TWAIT, returning pending writes, reads of watched counters (01 R20,
R38; 02 R43, R45; 14 R257, R262; 18 R345; 22 R379, R384). -/

namespace Sys2Proof.Machine

/-- A crew retires (R20, R138). -/
def execCrewRetire (cid : Nat) (s : State) : Res :=
  match s.crew? cid with
  | none => fin s
  | some c => if s.canRetire cid c then fin (s.retireCrew cid) else fin s

/-- The time of a TWAIT has been reached (R43, R45). -/
def execTwaitWake (cid : Nat) (s : State) : Res :=
  match s.crew? cid with
  | none => fin s
  | some c =>
    match c.wait with
    | .twait t => if s.reached t then fin (s.setCrew cid { c with wait := .none }) else fin s
    | _ => fin s

/-- What a pending write delivers as it returns: a load looks at its bytes again (R88, R309). -/
def State.delivered (s : State) (p : Pending) : State × Pending :=
  p.late.foldl (fun (q : State × Pending) l =>
    let t := l.reads.foldl State.lookAgain q.1
    let p := q.2
    let bs := l.reads.flatMap t.returned
    let x := leNat bs
    let w := 8 * bs.length
    (t, if l.regs = 0 then { p with ss := p.ss.map (fun e => if e.1 = l.dst then (e.1, if l.sext then BitVec.ofInt 64 (sgn w x) else BitVec.ofNat 64 x) else e) }
    else
      let y := if l.sext then wrap (32 * l.regs) (sgn w x) else x
      { p with vs := p.vs.map (fun e => if e.1 % 32 = l.dst % 32 && decide (l.dst / 32 ≤ e.1 / 32) && decide (e.1 / 32 < l.dst / 32 + l.regs)
          then (e.1, BitVec.ofNat 32 (y / 2 ^ (32 * (e.1 / 32 - l.dst / 32)))) else e) })) (s, p)

/-- A returned S write is one that runs queued while it was out may read (R344, R345). -/
def LRun.hear (p : Pending) (r : LRun) : LRun := if r.sPend.contains p.id then { r with sAlt := r.sAlt ++ p.ss } else r

/-- The crew may hold nothing more: it retires at once (R20). -/
def State.retireIfDone (s : State) (cid : Nat) : State :=
  match s.crew? cid with
  | some c => if s.canRetire cid c then s.retireCrew cid else s
  | none => s

/-- A pending write returns; one that carries poison is not written and stops the crew (R384). One that returns while its crew is stopped is held,
and the dump lists it so (R412). -/
def execPendingWriteReturn (cid pid : Nat) (s : State) : Res :=
  match s.crew? cid with
  | none => fin s
  | some c =>
    match c.pend.find? (fun p => p.id = pid && !p.returned) with
    | none => fin s
    | some p =>
      if p.poison then
        fin ((s.setCrew cid { c with pend := c.pend.filter (fun x => x.id ≠ pid) }).machineCheck cid p.pos 3 (s.coreOf c) 0)
      else if p.ready then
        let stopped := c.stop.isSome || s.partStopped (s.coreOf c) c.part
        let (s, p1) := s.delivered p
        let p' := { p1 with returned := true, held := stopped, late := [] }
        let c' := { c with pend := c.pend.map (fun (x : Pending) => if x.id = pid then p' else x), runs := c.runs.map (LRun.hear p') }
        let s1 := s.setCrew cid c'
        fin (if stopped then s1.redumpPends cid else s1.retireIfDone cid)
      else fin s

/-! ### Barrier time-outs -/

/-- The items of a time-out's list for one crew: position and lanes of each stack entry that holds missing threads (R38, R379).
A missing path that is parked, on another barrier too, shows the S-PC at which it will go on (DESIGN CHOICE, notes/assumptions/115). -/
def missingItems (c : Crew) (missing : W32) : List (List Byte) :=
  (c.stack.filter (fun e => (e.mask &&& missing) ≠ 0)).map (fun e =>
    leBytes 9 e.pc.toNat ++ leBytes 3 (lposBits c.lposNext) ++ leBytes 4 (e.mask &&& missing).toNat)

/-- Bytes 4 to 127 of the continuation records of one crew. -/
def contRecords (slot : Nat) : Nat → List (List Byte) → List (List Byte)
  | 0, _ => []
  | fuel + 1, items =>
    if items.isEmpty then []
    else
      let here := items.take 7
      (leBytes 1 255 ++ leBytes 1 here.length ++ leBytes 2 slot ++ leBytes 8 0 ++ here.flatMap (fun b => b) ++ List.replicate (16 * (7 - here.length)) 0)
        :: contRecords slot fuel (items.drop 7)

/-- Continuation records of every crew that holds threads the barrier still waits for. -/
def State.missingRecords (s : State) (r : BarRef) : List (List Byte) :=
  let b := s.barrier r
  let missing := (s.barThreads r).filter (fun t => !b.arrived.contains t)
  s.crews.flatMap (fun c =>
    let m := maskOf (fun l => (tget? c.2.threads l).elim false (fun t => missing.contains t))
    if m = 0 then [] else contRecords (s.slotOf c.2) (c.2.stack.length + 1) (missingItems c.2 m))

/-- A crew takes the barrier time-out trap, with its continuation records; its position is that of its topmost parked path (R38). Where the policy
kills, the launch is killed after every crew's record. -/
def State.timeoutTrap (s : State) (r : BarRef) (cid : Nat) (conts : List (List Byte)) : State :=
  match s.crew? cid with
  | none => s
  | some c =>
    match c.stack.find? (fun e => e.park.isSome) with
    | none => s
    | some e =>
      let b := s.barrier r
      let (gang, n) := match r with
        | .wg _ n => (0, n)
        | .gang _ _ n => (1, n)
      let pos : Pos := ⟨(e.park.elim e.pc (fun p => p.pc)), c.lposNext⟩
      s.stopAt cid .s pos 4 0 ⟨10, 0, 0, 0, [(64, 1, n), (65, 1, gang), (66, 2, conts.length), (68, 4, b.counter)]⟩ conts

/-- The clock of a barrier has reached BTO: every crew with a path parked on it takes the trap (R38, R257). -/
def execBarrierTimeout (r : BarRef) (s : State) : Res :=
  let gs := s.barWgs r
  let bto := ((gs.head?).bind s.wg?).elim 0 (fun w => (s.kernOfLid w.lid).btoNs)
  if gs.isEmpty || !gs.all s.clockRuns || !((s.barrier r).clock.elim false (fun t => decide (bto ≤ t))) then fin s
  else
    let conts := s.missingRecords r
    let parked := (s.crews.filter (fun c => gs.contains c.2.g && c.2.stack.any (barParks r))).map (fun c => c.1)
    let lid := ((gs.head?).bind s.wg?).elim 0 (fun w => w.lid)
    let t := parked.foldl (fun s cid => s.timeoutTrap r cid conts) s
    fin (if !parked.isEmpty && s.policy ((s.launch? lid).elim 0 (fun l => l.ctx)) 10 = .kill then t.killLaunch lid else t)

/-! ### Watched counters (R262) -/

/-- The watcher reads a counter, or the dispatcher looks at a gate again. -/
def execGuardWatchRead (w : WatchRef) (s : State) : Res :=
  match w with
  | .gate q => fin (if q < 64 then s.takeHead q else s.tryNode 64 (q - 64))
  | .guard cid slot =>
    match s.crewPlace cid, s.guard cid slot with
    | some (g, w), .watch addr thr pos failed met =>
      if !(s.wg? g).elim false (fun w => w.phase = .resident) then fin s
      else
        let ctx := s.ctxOfLid w.lid
        match s.watchRead ctx cid addr.toNat with
        | .ok (t, v, trig) => if thr ≤ v then fin ((t.setGuard cid slot .yes trig).resolve cid) else fin (s.setGuard cid slot (.watch addr thr pos false none) [])
        | .error f =>
          if failed then fin s
          else
            let s1 := (s.setGuard cid slot (.watch addr thr pos true met) []).report ctx 24 (if (s.crew? cid).isSome then 0 else 2) w.slot w.gen 0 w.lid w.wgi 0 pos
              addr.toNat [(64, 1, 9), (65, 1, f.level)] none none none false
            fin (if bits (s.r32 (mmuBlk ctx + 8)) 5 4 = 1 then s1.killLaunch w.lid else s1)
    | _, _ => fin s

end Sys2Proof.Machine
end

