-- ==== Sys2Proof/Machine/Debug.lean ====
section
/-! DEFINITION. The resident debug handler's commands, revocation, break-bit invalidation and the profiling counters (24 R406, R409, R411, R415 to
R417, R421 to R424). -/

namespace Sys2Proof.Machine

/-! ### Stopped partitions -/

/-- The stop of a partition. -/
def State.stopOf (s : State) (core part : Nat) : Option DbgStop := s.dbg.find? (fun d => d.core = core && d.part = part)

/-- The contexts that caused a stop. -/
def DbgStop.contexts (d : DbgStop) : List Nat := (d.causes.map (fun c => c.2)).eraseDups

/-- A held command or copy tries its access again (R382). -/
def State.unhold (s : State) (id : Nat) : State :=
  { s with
    cmds := s.cmds.map (fun (k : Cmd) => if k.id = id then { k with held := false } else k)
    copies := s.copies.map (fun (c : CopyOp) => if c.id = id then { c with lanes := c.lanes.map (fun (k : CopyLane) => { k with held := false }) } else c)
    waiting := s.waiting.filter (fun w => w.cmd ≠ some id) }

/-- What an issued fault held goes on: its command, or for a class 40 record its workgroup (R382, R390). -/
def State.serveIssued (s : State) (i : IssuedStop) : State :=
  match i.cmd with
  | some id => s.unhold id
  | none => if i.record.bytes.headD 0 = 40 then i.record.cid.elim s (fun g => s.modWg g (fun x => { x with fault := none })) else s

/-- The partition resumes: every causing crew goes on from its stop, every command that caused it tries again, and no record of the stop waits any more
(R415, R382). Writes that the stop held stay so until their crew issues (R412). -/
def State.resumePartition (s : State) (d : DbgStop) : State :=
  let s1 := { s with
    dbg := s.dbg.filter (fun x => !(x.core = d.core && x.part = d.part))
    waiting := s.waiting.filter (fun w => !w.cid.elim false (fun c => d.causes.contains (c, w.ctx))) }
  d.issued.foldl State.serveIssued (d.causes.foldl (fun t c => t.resumeCrew c.1) s1)

/-- A context lets a stopped partition go; it resumes when every causing context has (R411, R415). Until then a dump that met the context's fault goes on
with the others. -/
def State.contextGoesOn (s : State) (ctx core part : Nat) : State :=
  match s.stopOf core part with
  | none => s
  | some d =>
    let gone := ctx :: d.gone
    if d.contexts.all (fun x => gone.contains x) then s.resumePartition d
    else
      let s1 := { s with dbg := s.dbg.map (fun (x : DbgStop) => if x.core = core && x.part = part then { x with gone := gone } else x) }
      if d.dumpFault = some ctx then s1.dumpStop core part else s1

/-- The launch of an issued command or copy. -/
def State.cmdLid (s : State) (id : Nat) : Option Nat :=
  ((s.cmds.find? (fun k => k.id = id)).map (fun k => k.lid)).orElse (fun _ => (s.copies.find? (fun c => c.id = id)).map (fun c => c.lid))

/-- The launch of an issued fault: its command's, or for a class 40 record its workgroup's. -/
def State.issuedLid (s : State) (i : IssuedStop) : Option Nat :=
  match i.cmd with
  | some id => s.cmdLid id
  | none => (i.record.cid.bind s.wg?).map (fun w => w.lid)

/-- KILL of the stop's own context: the launches of its causing crews, and of the issued commands that caused it (R411, R415). -/
def State.killCauses (s : State) (ctx core part : Nat) : State :=
  match s.stopOf core part with
  | none => s
  | some d =>
    let lids := ((d.causes.filter (fun c => c.2 = ctx)).filterMap (fun c => (s.crew? c.1).map s.lidOf)
      ++ (d.issued.filter (fun i => i.record.ctx = ctx)).filterMap s.issuedLid).eraseDups
    (lids.foldl State.killLaunch s).contextGoesOn ctx core part

/-! ### Commands (R415) -/

def State.badCmd (s : State) (ctx : Nat) : State := s.setField (dbgBlk ctx + 0x60) 1 1 1

/-- Core and partition of a target. -/
def targetPart (target : Nat) : Nat × Nat := (bits target 13 6, bits target 5 4)

/-- The crew in the target's slot, if it is one of the context's. -/
def State.targetCrew (s : State) (ctx target : Nat) : Option Nat :=
  (s.crews.find? (fun c => s.slotOf c.2 = target % 2 ^ 14 && s.ctxOf c.2 = ctx && (s.wg? c.2.g).elim false Workgroup.onCore)).map (fun c => c.1)

/-- DBG_STAT.BUSY: a dump of a stop that the context has caused is in progress, or the step of a crew of it; commands written meanwhile are ignored
(R423). -/
def State.dbgBusy (s : State) (ctx : Nat) : Bool :=
  s.dbg.any (fun d => d.contexts.contains ctx && d.dumpFault.isSome || d.step.elim false (fun x => (s.crew? x.1).elim false (fun c => s.ctxOf c = ctx)))

/-- A command on a stopped partition: it needs the right and a stopped target; while a dump or a step is in progress it is ignored. -/
def State.dbgCommand (s : State) (ctx target : Nat) (act : State → DbgStop → State) : State :=
  if s.dbgBusy ctx then s
  else
    match s.stopOf (targetPart target).1 (targetPart target).2 with
    | none => s.badCmd ctx
    | some d => if !s.debugRight ctx then s.badCmd ctx else if d.dumpFault.isSome || d.step.isSome then s else act s d

def execContinueStop (ctx target : Nat) (s : State) : Res := fin (s.dbgCommand ctx target (fun s d => s.contextGoesOn ctx d.core d.part))

/-- STEP_S and STEP_L: the target crew of the context is let go for one word; one that has no word to issue, or is parked as it is let go, stops
again at once (R415). -/
def State.stepCrew (s : State) (ctx target : Nat) (st : Stream) : State :=
  s.dbgCommand ctx target (fun s d =>
    match s.targetCrew ctx target with
    | none => s.badCmd ctx
    | some cid =>
      let s1 := s.resumeCrew cid
      if (s1.crew? cid).elim false (fun c => c.ready st) then
        { s1 with dbg := s1.dbg.map (fun (x : DbgStop) => if x.core = d.core && x.part = d.part then { x with step := some (cid, st) } else x) }
      else s1.partitionStop d.core d.part [(cid, ctx)] [])

def execStepS (ctx target : Nat) (s : State) : Res := fin (s.stepCrew ctx target .s)
def execStepL (ctx target : Nat) (s : State) : Res := fin (s.stepCrew ctx target .l)

def execDebugKill (ctx target : Nat) (s : State) : Res := fin (s.dbgCommand ctx target (fun s d => s.killCauses ctx d.core d.part))

/-- STOP: the partition stops for the context, with the target crew as its cause if it is the context's. -/
def execStopPartition (ctx target : Nat) (s : State) : Res :=
  if s.dbgBusy ctx then fin s
  else if !s.debugRight ctx || Config.cores ≤ (targetPart target).1 then fin (s.badCmd ctx)
  else
    let cid := (s.targetCrew ctx target).getD s.nextHandle
    if (s.stopOf (targetPart target).1 (targetPart target).2).elim false (fun d => d.contexts.contains ctx) then fin s
    else fin (({ s with nextHandle := s.nextHandle + 1 } : State).partitionStop (targetPart target).1 (targetPart target).2 [(cid, ctx)] [])

/-! ### COMMIT (R416) -/

/-- Bytes of a field of a dump entry, as a number. -/
def dumpFld (bs : List Byte) (off n : Nat) : Nat := leNat ((bs.drop off).take n)

/-- A stack entry read back (R414); a join's identifier is its position from the bottom, which links name. -/
def parseEntry (bs : List Byte) (posn : Nat) : Entry :=
  let pc := BitVec.ofNat 72 (dumpFld bs 0 9)
  let mask := BitVec.ofNat 32 (dumpFld bs 12 4)
  let link := if bitAt (dumpFld bs 11 1) 1 then some (dumpFld bs 19 1) else none
  if dumpFld bs 10 1 % 2 = 1 then .join posn pc mask (dumpFld bs 18 1) link
  else .path pc mask link (dumpFld bs 16 2) none

/-- The barrier a path is parked on stays as it was; an edit can let the path go, and names no barrier to park one on (notes/assumptions/34). -/
def Entry.withPark (e : Entry) (p : Option Park) : Entry :=
  match e with
  | .path pc m l a _ => .path pc m l a p
  | .join i x m n l => .join i x m n l

/-- The stack with every join named by its position from the bottom. -/
def renumber (st : List Entry) : List Entry :=
  let posOf (j : Nat) : Nat := st.reverse.findIdx (fun x => match x with
    | .join i _ _ _ _ => i = j
    | .path _ _ _ _ _ => false)
  st.map (fun e => match e with
    | .path pc m l a p => .path pc m (l.map posOf) a p
    | .join i x m n l => .join (posOf i) x m n (l.map posOf))

/-- The hardware part of the stack as an entry of the dump holds it, over the spilled part. -/
def commitStack (bs : List Byte) (c : Crew) : List Entry :=
  let old := renumber c.stack
  let low := old.drop 32
  let n := min (dumpFld bs 0x0F 1) 32
  (List.range n).map (fun i =>
    let e := parseEntry ((bs.drop (0x400 + 32 * i)).take 32) (low.length + n - 1 - i)
    e.withPark (if bitAt (dumpFld bs (0x400 + 32 * i + 11) 1) 0 then (old[i]?).bind Entry.park else none)) ++ low

/-- The L-run queue as the dump holds it; an entry of mask 0 is empty. -/
def commitRuns (bs : List Byte) (c : Crew) : List LRun :=
  ((List.range 4).filterMap (fun i =>
    let at_ (o n : Nat) : Nat := dumpFld bs (0x380 + 32 * i + o) n
    let mask := BitVec.ofNat 32 (at_ 4 4)
    if mask = 0 then none
    else
      let old : LRun := (c.runs[i]?).getD { loff := 0, count := 1, done := 0, mask := 0, spc := 0, sAt := c.s, sAlt := [], bAt := c.b }
      let w := at_ 0 4
      some { old with loff := bits w 16 0, count := bits w 23 17 + 1, mask := mask, spc := BitVec.ofNat 72 (at_ 8 9) }))

/-- Table entries of n numbers of a given size, zeros left out. -/
def commitTbl {w : Nat} (bs : List Byte) (off n size : Nat) : Tbl (BitVec w) :=
  (List.range n).filterMap (fun i => let x := BitVec.ofNat w (dumpFld bs (off + size * i) size); if x = 0 then none else some (i, x))

/-- Every pending destination ends with its value to come or with the committed one, each for itself (R345, R416). -/
def Pending.contestAll (p : Pending) : Pending :=
  { p with sc := p.ss.map (fun e => e.1) ++ p.sc, vc := p.vs.map (fun e => e.1) ++ p.vc, pc := p.ps.map (fun e => e.1) ++ p.pc }

/-- The running path's mask set. -/
def Crew.setMask (c : Crew) (mask : W32) : Crew :=
  let f (e : Entry) : List Entry := match e with
    | .path pc _ l a p => [.path pc mask l a p]
    | .join i x m n l => [.join i x m n l]
  { c with stack := mapRun f c.stack }

/-- A guard slot of a dump entry; a watch can only stay. -/
def commitGuard (code : Nat) (old : Guard) : Guard :=
  match code, old with
  | 1, .watch a t p f m => .watch a t p f m
  | 2, _ => .yes
  | 3, _ => .no
  | _, _ => .unbound

/-- A crew with an edited dump entry loaded back. S-PC, LPOS and the active mask act where they differ from what the crew shows
(notes/assumptions/34). -/
def commitCrew (vregs : Nat) (bs : List Byte) (c : Crew) : Crew :=
  let shown := c.position
  let c1 := { c with stack := commitStack bs c, nextJoin := max c.nextJoin (c.stack.length + 32), runs := commitRuns bs c }
  let spc := BitVec.ofNat 72 (dumpFld bs 0x10 9)
  let c2 := if spc ≠ shown.spc then c1.setPc spc else c1
  let lpos := dumpFld bs 0x1A 3
  let c3 := if lpos = lposBits shown.lpos then c2
    else if lpos = 0xFFFFFF then { c2 with runs := [] }
    else
      let here (r : LRun) : LRun := { r with loff := bits lpos 16 0, done := bits lpos 23 17, count := max r.count (bits lpos 23 17 + 1) }
      match c2.runs with
      | r :: rs => { c2 with runs := here r :: rs }
      | [] => { c2 with runs := [here { loff := 0, count := 1, done := 0, mask := c.active, spc := spc, sAt := c.s, sAlt := [], bAt := c.b }] }
  let mask := BitVec.ofNat 32 (dumpFld bs 0x20 4)
  let c4 := if mask = c.active then c3 else c3.setMask mask
  { c4 with
    s := commitTbl bs 0x40 64 8
    b := commitTbl bs 0x240 16 10
    p := commitTbl bs 0x2E0 7 4
    guards := (List.range 16).map (fun n => (n, commitGuard (dumpFld bs (0x300 + 4 * n) 4 % 4) (tget .unbound c.guards n)))
    bins := (List.range 16).map (fun n => (n, dumpFld bs (0x340 + 4 * n) 4))
    v := (List.range vregs).flatMap (fun r => (List.range 32).filterMap (fun l =>
      let x : W32 := BitVec.ofNat 32 (dumpFld bs (0x1000 + 128 * r + 4 * l) 4)
      if x = 0 then none else some (32 * r + l, x)))
    pend := c.pend.map Pending.contestAll }

/-- COMMIT loads the edited entries of the context's crews and sets TAINT; an entry that cannot be read is left. A context that has gone on has no edits
left: they went with its CONTINUE or KILL (R416). -/
def execCommitDump (ctx target : Nat) (s : State) : Res :=
  fin (s.dbgCommand ctx target (fun s d => if d.gone.contains ctx then s else
    let cs := s.crews.filter (fun c => s.coreOf c.2 = d.core && c.2.part = d.part && s.ctxOf c.2 = ctx
      && (s.wg? c.2.g).elim false Workgroup.onCore)
    let s1 := cs.foldl (fun t c =>
      match s.vread ctx .engine ((s.dumpAddr ctx d.core d.part + 65536 * c.2.idx) % 2 ^ 72) (0x1000 + 128 * (s.kernOf c.2).vregs) with
      | .error _ => t
      | .ok bs =>
        if bitAt (dumpFld bs 0x0E 1) 3 then (t.setCrew c.1 (commitCrew (s.kernOf c.2).vregs bs c.2)).resolve c.1 else t) s
    s1.setField (dbgBlk ctx) 30 30 1))

/-! ### Revocation and release (R406, R417) -/

/-- The context goes on from every stop it caused. -/
def State.revoke (s : State) (ctx : Nat) : State :=
  (s.dbg.filter (fun d => d.contexts.contains ctx)).foldl (fun t d => t.contextGoesOn ctx d.core d.part) s

/-- A write of DBG_CTL. -/
def State.writeDbgCtl (s : State) (ctx v : Nat) : State :=
  let pm := bitAt (s.r32 (mmuBlk ctx + 8)) 8
  let right := bitAt v 31 && !pm
  let busy := s.launches.any (fun l => l.2.ctx = ctx) || s.wgs.any (fun w => (s.launch? w.2.lid).elim false (fun l => l.ctx = ctx))
  let s1 := s.setField (dbgBlk ctx) 29 29 (bits v 29 29)
  let s2 := if bitAt v 28 && !busy then s1.setField (dbgBlk ctx) 30 30 0 else s1
  if right then s2.setField (dbgBlk ctx) 31 31 1 else if bitAt v 31 then s2 else (s2.setField (dbgBlk ctx) 31 31 0).revoke ctx

def execDebugRevoke (ctx v : Nat) (s : State) : Res := if bitAt v 31 then fin s else fin (s.writeDbgCtl ctx v)
def execReleaseTaint (ctx v : Nat) (s : State) : Res := if bitAt v 28 then fin (s.writeDbgCtl ctx v) else fin s

/-! ### Break bits (R409) -/

def execIcinvGo (s : State) : Res := fin (s.setField icinvOff 31 31 1)

/-- The invalidation completes: every later fetch uses the bits as they now stand. -/
def execIcinvDone (s : State) : Res :=
  if bitAt (s.r32 icinvOff) 31 then fin { s.setField icinvOff 31 31 0 with icMark := s.hist.length, icLines := [] } else fin s

/-! ### Counters (R421, R422) -/

/-- The value a counter shows. -/
def State.counterValue (s : State) (ctx k : Nat) : Nat := (tget 0 s.counters (8 * ctx + k)).toNat

/-- CAP: all eight counters, INTERRUPTED and NPRE as of one instant. -/
def State.capture (s : State) (ctx : Nat) : State :=
  let n := tget 0 s.npre ctx
  let s1 := (List.range 8).foldl (fun t k => t.w64 (ctrBlk ctx + 0x10 + 8 * k) (s.counterValue ctx k)) s
  s1.w32 (ctrBlk ctx + 8) (min n 65535 * 2 ^ 8 + (if n = 0 then 0 else 1))

/-- CLR. -/
def State.clearCounters (s : State) (ctx : Nat) : State :=
  { s.w32 (ctrBlk ctx + 8) 0 with counters := s.counters.filter (fun e => e.1 / 8 ≠ ctx), npre := tdel s.npre ctx }

def execCapCounters (ctx : Nat) (s : State) : Res := fin (s.capture ctx)
def execClrCounters (ctx : Nat) (s : State) : Res := fin (s.clearCounters ctx)

end Sys2Proof.Machine
end

