-- ==== Sys2Proof/Machine/Traps.lean ====
section
/-! DEFINITION. The trap ring, MMU_RESUME, deferred memory errors and invalidation of translations (22 R378 to R386, R393, R394). -/

namespace Sys2Proof.Machine

/-! ### The trap ring (R380) -/

/-- Entries of a context's trap ring, if TRLOG2 allows writes. -/
def State.ringSize (s : State) (ctx : Nat) : Option Nat :=
  let lg := bits (s.r32 (mmuBlk ctx + 8)) 19 16
  if 4 ≤ lg then some (2 ^ lg) else none

/-- PUT − GET equals the ring size (R393). -/
def State.ringFull (s : State) (ctx : Nat) : Bool :=
  (s.ringSize ctx).elim false (fun n => (s.r32 (mmuBlk ctx + 0x20) + 2 ^ 32 - s.r32 (mmuBlk ctx + 0x24)) % 2 ^ 32 = n)

/-- The class of a buffered record. -/
def TrapRec.cls (r : TrapRec) : Nat := (r.bytes.headD 0).toNat

/-- The record number that the next record of a context gets: from 1, never 0. -/
def State.nextSeq (s : State) (ctx : Nat) : Nat := tget 1 s.seqs ctx

/-- What waits on a record that has been written. A class 40 record names its workgroup, or the slot of a dump or a network. -/
def waitingOf (r : TrapRec) (seq : Nat) : Waiting :=
  if r.cls = 40 then { ctx := r.ctx, seq := seq, cid := none, cmd := none, wg := r.cid, slot := r.parent, bytes := r.bytes }
  else { ctx := r.ctx, seq := seq, cid := r.cid, cmd := r.cmd, wg := none, slot := none, bytes := r.bytes }

/-- What a record names is still there: its crew stands stopped, itself or by the stop of its partition. -/
def State.stillWaits (s : State) (w : Waiting) : Bool :=
  w.cid.elim true (fun c => (s.crew? c).elim false (fun x => x.stop.isSome || s.dbg.any (fun d => d.causes.contains (c, w.ctx))))
    && w.cmd.elim true (fun k => s.cmds.any (fun x => x.id = k) || s.copies.any (fun x => x.id = k)) && w.wg.elim true (fun g => (s.wg? g).isSome)

/-- The first n bytes of pieces, and the rest. -/
def takePieces (n : Nat) (ps : List (Nat × Nat)) : List (Nat × Nat) := ((paList ps).take n).map (fun a => (a, 1))
def dropPieces (n : Nat) (ps : List (Nat × Nat)) : List (Nat × Nat) := ((paList ps).drop n).map (fun a => (a, 1))

/-- The oldest buffered record of a context is written into its ring, bytes 0 to 7 last, as a release (R380); a fault keeps it in the buffer until the
driver touches the ring. -/
def State.writeTrap (s : State) (ctx : Nat) : State :=
  match s.ringSize ctx, s.trapBuf.find? (fun r => r.ctx = ctx) with
  | some n, some r =>
    if s.ringFull ctx || s.trapStalled.contains ctx then s
    else
      let put := s.r32 (mmuBlk ctx + 0x20)
      let va := ((s.addr72 (mmuBlk ctx + 0x10) (mmuBlk ctx + 0x18)).toNat + 128 * (put % n)) % 2 ^ 72
      let cont := r.cls = 255
      let seq := if cont then r.cmd.getD 0 else s.nextSeq ctx
      match s.access ctx .ring va 128 with
      | .error _ =>
        let s1 := (s.setField (mmuBlk ctx + 0x40) 3 3 1).interrupt (65 + ctx)
        { s1 with trapStalled := s1.trapStalled ++ [ctx] }
      | .ok ps =>
        let bs := leBytes 4 seq ++ r.bytes
        let part (s : State) (y : Sync) (p : List (Nat × Nat)) (o : Nat) (xs : List Byte) : State :=
          s.engineWrite (s.placeOf (engineOf 2 ctx)) y ctx ((va + o) % 2 ^ 72) true p xs
        let s0 := part s Sync.plain (dropPieces 8 ps) 8 (bs.drop 8)
        let s1 := part s0 ⟨false, true, 4, 1⟩ (takePieces 8 ps) 0 (bs.take 8)
        let buf := (s1.trapBuf.filter (fun x => x.id ≠ r.id)).map (fun (x : TrapRec) => if x.cls = 255 && x.parent = some r.id then { x with cmd := some seq } else x)
        let s2 : State := { s1.w32 (mmuBlk ctx + 0x20) (put + 1) with trapBuf := buf }
        let s3 : State := if cont then s2 else { s2 with seqs := tset s2.seqs ctx (if seq = 2 ^ 32 - 1 then 1 else seq + 1) }
        let s4 := match r.cid with
          | some c => if r.cls = 40 then s3
            else s3.modCrew c (fun cr => { cr with stop := cr.stop.map (fun (st : Stop) => { st with seq := some seq }) })
          | none => s3
        let s5 := if r.waits && s4.stillWaits (waitingOf r seq) then { s4 with waiting := s4.waiting ++ [waitingOf r seq] } else s4
        s5.interrupt (65 + ctx)
  | _, _ => s

def execTrapRecordWrite (ctx : Nat) (s : State) : Res := fin (s.writeTrap ctx)

/-- The driver touches the ring: a record whose write faulted is tried again. -/
def State.unstall (s : State) (ctx : Nat) : State := { s with trapStalled := s.trapStalled.filter (fun c => c ≠ ctx) }

def execTrgetWrite (ctx v : Nat) (s : State) : Res := fin ((s.w32 (mmuBlk ctx + 0x24) v).unstall ctx)

/-! ### MMU_RESUME (R382, R415) -/

/-- The waiting record of a number. -/
def State.waitingAt (s : State) (ctx seq : Nat) : Option Waiting := s.waiting.find? (fun w => w.ctx = ctx && w.seq = seq)

def State.badSeq (s : State) (ctx : Nat) : State := s.setField (mmuBlk ctx + 0x40) 2 2 1

/-- The record no longer waits. -/
def State.dropWaiting (s : State) (w : Waiting) : State := { s with waiting := s.waiting.filter (fun x => x ≠ w) }

/-- The stopped partition that the record's crew caused. -/
def State.stopOfCrew (s : State) (ctx cid : Nat) : Option DbgStop := s.dbg.find? (fun d => d.causes.contains (cid, ctx))

/-- The dump of a stop that could not be written is tried again. -/
def State.retryDump (s : State) (slot : Nat) : State :=
  match s.stopOf (targetPart slot).1 (targetPart slot).2 with
  | some d => if d.dumpFault.isSome then s.dumpStop d.core d.part else s
  | none => s

/-- The stopped partition that holds the issued fault of a waiting record. -/
def State.stopOfIssued (s : State) (w : Waiting) : Option DbgStop :=
  s.dbg.find? (fun d => d.issued.any (fun i => (w.cmd.isSome && i.cmd = w.cmd) || (w.wg.isSome && i.record.cls = 40 && i.record.cid = w.wg)))

/-- REPLAY of a waiting record. -/
def State.replayRec (s : State) (w : Waiting) : State :=
  let s := s.dropWaiting w
  match w.cid, w.cmd, w.wg, w.slot with
  | some cid, _, _, _ =>
    match s.stopOfCrew w.ctx cid with
    | some d => s.contextGoesOn w.ctx d.core d.part
    | none => s.resumeCrew cid
  | none, some id, _, _ =>
    match s.stopOfIssued w with
    | some d => s.contextGoesOn w.ctx d.core d.part
    | none => s.unhold id
  | none, none, some g, _ =>
    match s.stopOfIssued w with
    | some d => s.contextGoesOn w.ctx d.core d.part
    | none => s.modWg g (fun x => { x with fault := none })
  | none, none, none, some n => s.retryDump n
  | none, none, none, none => s

/-- The launch that a waiting record belongs to. -/
def State.waitingLid (s : State) (w : Waiting) : Option Nat :=
  match w.cid, w.cmd, w.wg with
  | some cid, _, _ => (s.crew? cid).map s.lidOf
  | none, some id, _ => s.cmdLid id
  | none, none, some g => (s.wg? g).map (fun x => x.lid)
  | none, none, none => none

/-- KILL of a waiting record. A record of a stop acts as the handler's KILL. -/
def State.killRec (s : State) (w : Waiting) : State :=
  let s1 := s.dropWaiting w
  match ((w.cid.bind (s.stopOfCrew w.ctx)).orElse (fun _ => s.stopOfIssued w)).orElse
      (fun _ => w.slot.bind (fun n => s.stopOf (targetPart n).1 (targetPart n).2)) with
  | some d => s1.killCauses w.ctx d.core d.part
  | none => match s.waitingLid w with
    | some lid => s1.killLaunch lid
    | none => s1

/-- The slot that a waiting record of an issued fault names (R378: bytes 6 and 7), and its crew. -/
def State.issuedSlot (s : State) (w : Waiting) : Nat × Nat :=
  let crew := (w.cmd.bind (fun id =>
      ((s.cmds.find? (fun k => k.id = id)).map (fun k => k.cid)).orElse (fun _ => (s.copies.find? (fun c => c.id = id)).map (fun c => c.cid)))).orElse
    (fun _ => (w.wg.bind s.wg?).bind (fun x => x.crews.head?))
  (leNat ((w.bytes.drop 2).take 2), crew.getD s.nextHandle)

/-- DEBUG of a waiting record: as POL_PREC 2. The record is written again once the dump stands, for the handler. -/
def State.debugRec (s : State) (w : Waiting) : State :=
  if !s.debugRight w.ctx then s.killRec w
  else
    match w.cid, w.cid.bind s.crew? with
    | some i, some c => (s.dropWaiting w).partitionStop (s.coreOf c) c.part [(i, w.ctx)] []
    | _, _ =>
      if w.cmd.isNone && w.wg.isNone then s.killRec w
      else
        let at_ := s.issuedSlot w
        (s.dropWaiting w).partitionStop (targetPart at_.1).1 (targetPart at_.1).2 [(at_.2, w.ctx)]
          [⟨at_.2, w.cmd, { id := 0, ctx := w.ctx, bytes := w.bytes, deferred := false, waits := true, cid := w.wg, cmd := w.cmd, parent := none }⟩]

/-- A write of MMU_RESUME (R382, R393). -/
def State.resume (s : State) (ctx v : Nat) : State :=
  match s.waitingAt ctx (v / 2 ^ 32), v % 4 with
  | some w, 0 => s.replayRec w
  | some w, 1 => s.killRec w
  | some w, 2 => s.debugRec w
  | _, _ => s.badSeq ctx

/-- The driver changes s0 to s63 of a crew that waits at SYSC (R269). -/
def State.serveSysc (s : State) (ctx seq : Nat) (regs : List (Nat × Nat)) : State :=
  match (s.waitingAt ctx seq).bind (fun w => w.cid) with
  | none => s
  | some cid => s.modCrew cid (fun c => if c.stop.elim false (fun x => x.trap.cls = 14)
      then { c with s := regs.foldl (fun t e => if e.1 < 64 then tset t e.1 (BitVec.ofNat 64 e.2) else t) c.s } else c)

/-- REPLAY; `entry.regs` are the s-registers that the driver has changed in the saved state of a crew that waits at SYSC (R269; how it does so is not said:
notes/assumptions/104). -/
def execReplay (ctx : Nat) (entry : Resumed) (s : State) : Res := fin ((s.serveSysc ctx entry.seq entry.regs).resume ctx (entry.seq * 2 ^ 32))
def execKillStop (ctx seq : Nat) (s : State) : Res := fin (s.resume ctx (seq * 2 ^ 32 + 1))
def execDebugStop (ctx seq : Nat) (s : State) : Res := fin (s.resume ctx (seq * 2 ^ 32 + 2))

/-! ### Deferred memory errors (R383, R77) -/

/-- An uncorrectable error on the memory side poisons a line, and Reeve logs its 64 KiB page (25 R427). The record bears the tag of the line's last
store; of a line that no crew has stored to the tag is not stated: it and the context whose ring gets the record are the device's choice
(notes/assumptions/106). -/
def execDeferredMemoryError (line : Nat) (retired : Bool) (ctx slot : Nat) (s : State) : Res :=
  let s0 := s.logDetail .errorClass s.noSource (line / 512)
  let s1 := if s0.poisoned.contains line then s0 else { s0 with poisoned := s0.poisoned ++ [line] }
  match tget? s.tags line with
  | some t => fin (s1.report t.ctx 32 (if (s.crew? t.cid).isSome then 1 else 3) t.who.slot t.who.gen 0 t.who.lid t.who.wgi 0 t.pos (128 * line) [] none none
      none false)
  | none =>
    let any (i : Nat) : Nat := Config.free s.oracle 19 i
    fin (s1.report ctx 32 (if retired then 3 else 1) slot (any 1) 0 (any 2) (any 3) 0 ⟨BitVec.ofNat 72 (any 4), none⟩ (128 * line) [] none none none false)

/-! ### Invalidation of translations (R386, R394) -/

/-- An instant of the write history of its own: what held before it can be told from what holds after. -/
def State.newInstant (s : State) : State := { s with hist := [] :: s.hist }

/-- A write of MMU_INV. -/
def State.writeInv (s : State) (v : Nat) : State :=
  if bitAt (s.r32 mmuGlb) 31 then s
  else s.w32 mmuGlb (bits v 31 30 * 2 ^ 30 + bits v 21 16 * 2 ^ 16 + v % 2 ^ 16)

def execMmuInvalidate (v : Nat) (s : State) : Res := if bitAt v 31 then fin (s.writeInv v) else fin s

/-- The invalidation completes: no later access uses a translation that it covers. -/
def execMmuInvalidateDone (s : State) : Res :=
  let v := s.r32 mmuGlb
  if !bitAt v 31 then fin s
  else
    let page := bits (s.r64 (mmuGlb + 8)) 63 16 + s.r32 (mmuGlb + 0x10) % 256 * 2 ^ 48
    let s1 := (s.setField mmuGlb 31 31 0).newInstant
    fin { s1 with invals := s1.invals ++ [{ ctx := bits v 21 16, all := bitAt v 30, page := page, n := if v % 2 ^ 16 = 0 then 65536 else v % 2 ^ 16,
                                            mark := s1.hist.length }] }

/-- A write of MMU_ROOT (R393): translations made under the old root stay usable until they are invalidated. -/
def State.writeRoot (s : State) (ctx v : Nat) : State :=
  let old := s.r64 (mmuBlk ctx)
  let s1 := s.w64 (mmuBlk ctx) (bits v 51 16 * 2 ^ 16 + v % 2)
  { s1 with oldRoots := s1.oldRoots ++ [(ctx, old, s.hist.length)] }.newInstant

end Sys2Proof.Machine
end

