-- ==== Sys2Proof/Machine/HostRegs.lean ====
section
/-! DEFINITION. Host accesses: which BAR0 offsets hold registers, what each reads, what a write does (00 R4, R9 to R12; 23 R395, R396, R401
to R405; 06 R136; 08 R162; 09 R177; 11 R219; 21 R372 to R375; 22 R393, R394; 24 R423, R424; 25 R433), BAR2 and MSI-X. -/

namespace Sys2Proof.Machine

/-! ### Ranges of control blocks (R10, R395) -/

/-- Blocks as (base, stride, instances). -/
def blockRanges : List (Nat × Nat × Nat) :=
  [(0, 0x10000, 1), (0x00080000, 0x40, 64), (0x00081000, 0x1000, 1), (0x00082000, 0x20, 16), (0x00084000, 0x20, 256), (0x00088000, 0x10, 64),
   (0x00100000, 0x1000, 48), (0x00140000, 0x100, 4), (0x00141000, 0x1000, 1), (0x00180000, 0x1000, 1), (0x00200000, 0x80, 256),
   (0x00280000, 0x80, 256), (0x00300000, 0x100, 64), (0x00308000, 0x1000, 1), (0x00380000, 0x100, 64), (0x00388000, 0x1000, 1),
   (0x00390000, 0x1000, 1), (0x00391000, 0x80, 64), (0x003C0000, 0x1000, 1)]

/-- The offset lies in some control block's range. -/
def inRanges (off : Nat) : Bool := blockRanges.any (fun b => decide (b.1 ≤ off) && decide (off < b.1 + b.2.1 * b.2.2))

/-- A good access to a control block: 4 or 8 bytes, aligned, in range (R11). -/
def goodAccess (a : HostAccess) : Bool := a.bar = 0 && (a.size = 4 || a.size = 8) && a.off % a.size = 0 && inRanges a.off

/-- Instance and word of an offset in n blocks of a stride. -/
def blkAt (off base stride n : Nat) : Option (Nat × Nat) :=
  if decide (base ≤ off) && decide (off < base + stride * n) then some ((off - base) / stride, (off - base) % stride) else none

/-! ### Reads -/

/-- x with bits [hi:lo] showing a mirror of other state. -/
def showBits (x : Nat) (fs : List (Nat × Nat × Nat)) : Nat := fs.foldl (fun x f => setBits x f.1 f.2.1 f.2.2) x
def bit (b : Bool) : Nat := if b then 1 else 0

/-- MXE_STATUS (R136). -/
def State.mxeStatus (s : State) (q : Nat) : Nat :=
  let ws := s.quadWgs q
  (256 - min 256 (sumOf Kernel.sslots s ws)) * 2 ^ 23 + (32 - min 32 (sumOf Kernel.acct s ws)) * 2 ^ 16 + (8 - min 8 (sumOf Kernel.ptiles s ws)) * 2 ^ 12
    + bit (s.reeve.retired.contains q) * 2 ^ 7 + min 64 (s.engineUsed .matrix q)

/-- What the 32-bit word at an offset reads. -/
def State.hostWord (s : State) (off : Nat) : Nat :=
  let x := s.r32 off
  if off = 0 then setBits x 5 0 s.quadsLive
  else if off = emstatOff then
    showBits x [(31, 31, bit s.emerg.isSome), (23, 16, (s.emerg.bind s.wg?).elim 0 (fun w => w.core)), (15, 8, ((s.emergQueue.filterMap s.wg?).map (fun w => w.core)).eraseDups.length)]
  else if off = pealBlk then setBits x 30 30 (bit s.isTenor)
  else if off = pealBlk + 0x30 then setBits x 3 0 s.peal.length
  else if off = 0x00141000 then setBits x 0 0 (bit s.kilnIdle)
  else
    match blkAt off (rxBlk 0) 0x80 256 with
    | some (f, w) => if decide (0x70 ≤ w) && !bitAt (s.fCtl false f) 61 then 0 else x
    | none =>
    match blkAt off (peerBlk 0) 0x20 256 with
    | some (e, 0x14) => setBits x 30 30 (bit ((tget? s.pairs e).elim false (fun p => p.down)))
    | _ =>
    match blkAt off (qBlk 0) 0x40 64 with
    | some (q, 0x38) => setBits x 0 0 (bit (s.heldHeads.contains q))
    | _ =>
    match blkAt off (poolBlk 0) 0x20 16 with
    | some (p, 0x18) => (tget? s.pools p).elim 0 (fun r => r.count - r.busy.length)
    | _ =>
    match blkAt off (nodeBlk 0) 0x20 256 with
    | some (n, 0x18) => (tget? s.nodes n).elim 0 (fun r => r.queue.length)
    | _ =>
    match blkAt off (hwqBlk 0) 0x10 64 with
    | some (q, 0) => setBits x 30 30 (bit ((tget? s.hwqs q).elim false (fun h => h.poison)))
    | some (q, 8) => (tget? s.hwqs q).elim 0 (fun h => h.entries.length * 2 ^ 16 + h.targets.length)
    | _ =>
    match blkAt off (mxeBlk 0) 0x1000 48 with
    | some (q, 0) => s.mxeStatus q
    | some (q, 0x10) => setBits x 31 31 (bit (s.scinvBusy.contains q))
    | _ =>
    match blkAt off (rcuBlk 0) 0x100 4 with
    | some (n, 0x10) => showBits x [(29, 29, bit (s.rcuBusy n)), (0, 0, bit (tget? s.rcos n).isSome)]
    | some (n, 0x18) =>
      showBits x [(8, 8, bit ((tget? s.rcos n).elim false (fun r => r.pending.isSome))), (1, 1, bit ((tget? s.rcos n).elim false (fun r => r.newestB)))]
    | _ =>
    match blkAt off (mmuBlk 0) 0x100 64 with
    | some (c, 0x40) => showBits x [(1, 1, bit (s.waiting.any (fun w => w.ctx = c))), (0, 0, bit (s.ringFull c))]
    | _ =>
    match blkAt off (dbgBlk 0) 0x100 64 with
    | some (c, 0) => setBits x 31 31 (bit (s.debugRight c))
    | some (c, 0x60) =>
      let mine := s.dbg.filter (fun d => d.contexts.contains c)
      showBits x [(31, 31, bit (s.dbgBusy c)), (23, 16, mine.length)]
    | _ => x

/-- What an access of 4 or 8 bytes reads. -/
def State.hostRead (s : State) (off size : Nat) : Nat := s.hostWord off + (if size = 8 then 2 ^ 32 * s.hostWord (off + 4) else 0)

/-! ### Writes -/

/-- A word some of whose bits are RW: the others stay. -/
def State.writeMask (s : State) (off mask v : Nat) : State := s.w32 off ((v &&& mask) + (s.r32 off &&& (2 ^ 32 - 1 - mask)))

/-- W1C fields: writing 1 to any bit of a field clears the whole field. -/
def State.clearFields (s : State) (off : Nat) (fs : List (Nat × Nat)) (v : Nat) : State :=
  fs.foldl (fun t f => if bits v f.1 f.2 ≠ 0 then t.setField off f.1 f.2 0 else t) s

/-- Plain W1C bits: each that is written 1 is cleared (R9). -/
def State.clearBits (s : State) (off mask v : Nat) : State := s.w32 off (s.r32 off &&& (2 ^ 32 - 1 - (v &&& mask)))

def allBits : Nat := 0xFFFFFFFF

/-- A meaning's next state, for a command that a register write starts. -/
def Res.state (r : Res) (s : State) : State :=
  match r with
  | .next t => t
  | .fault _ => s
  | .refused _ => s

/-- HIF_, PTPC_, ports and peers (R402 to R405). -/
def State.writeHif (s : State) (off v : Nat) : State :=
  if off = 0x0018 then s.clearFields off [(15, 0)] v
  else if off = 0x0020 then s.writeEthmode v
  else if off = 0x0028 then s.writeWall v
  else if off = ptpcBlk then s.writePtpc v
  else if off = ptpcBlk + 8 then s.clearFields off [(3, 3)] v
  else if off = ptpcBlk + 0x18 then s.writeMask off 0xFFFF v
  else
    match blkAt off (portBlk 0) 0x40 16 with
    | some (p, 0) => s.writePort p v
    | some (_, 0x0C) => s.writeMask off 0xFFFF v
    | some (_, 0x20) => s.clearBits off allBits v
    | some (_, w) => if w = 8 || (decide (0x10 ≤ w) && decide (w < 0x20)) then s.writeMask off allBits v else s
    | none =>
      match blkAt off (peerBlk 0) 0x20 256 with
      | some (_, 0x18) => s.writeMask off 0xFFFF v
      | some (_, w) => if w < 0x10 then s.writeMask off allBits v else s
      | none => s

/-- DLD_ (R372 to R375). -/
def State.writeDld (s : State) (off v : Nat) : State :=
  if off = 0x00081000 then s.writeMask off 0xFF v
  else if off = 0x00081004 then s.writeMask off 0xFFFF v
  else
    match blkAt off (qBlk 0) 0x40 64 with
    | some (q, w) =>
      let on := bitAt (s.r32 (qBlk q)) 31
      if w = 0 then s.writeQctl q v
      else if w = 0x28 then s.doorbell q v
      else if w = 0x30 || w = 0x34 then s.writeMask off allBits v
      else if w = 0x38 then s.clearFields off [(31, 16), (15, 4), (2, 2), (1, 1)] v
      else if on then s
      else if w = 8 || w = 0x0C || w = 0x18 || w = 0x1C then s.writeMask off allBits v
      else if w = 0x10 || w = 0x20 then s.writeMask off 0xFF v
      else s
    | none =>
    match blkAt off (poolBlk 0) 0x20 16 with
    | some (p, w) =>
      if w = 0 then (s.writePctl p v).tryNodes
      else if bitAt (s.r32 (poolBlk p)) 31 then s
      else if w = 8 then s.writeMask off 0xFFFFFFE0 v
      else if w = 0x0C then s.writeMask off allBits v
      else if w = 0x10 then s.writeMask off 0xFF v
      else s
    | none =>
    match blkAt off (nodeBlk 0) 0x20 256 with
    | some (n, w) =>
      if w = 0 then s.writeNctl n v
      else if bitAt (s.r32 (nodeBlk n)) 31 then s
      else if w = 8 then s.writeMask off 0xFFFFFFE0 v
      else if w = 0x0C then s.writeMask off allBits v
      else if w = 0x10 then s.writeMask off 0xFF v
      else s
    | none =>
    match blkAt off (hwqBlk 0) 0x10 64 with
    | some (q, 0) => s.writeHwqctl q v
    | _ => s

/-- MXE_, RCU_ and KILN_ (R136, R162). -/
def State.writeUnits (s : State) (off v : Nat) : State :=
  if off = 0x00141000 then s.writeKiln v
  else
    match blkAt off (mxeBlk 0) 0x1000 48 with
    | some (q, w) =>
      if w = 8 then s.writeMask off allBits v
      else if w = 0x10 then s.writeScinv q v
      else if w = 0x18 then s.writeMask off 0xFFFF v
      else s
    | none =>
    match blkAt off (rcuBlk 0) 0x100 4 with
    | some (n, w) =>
      if w = 0 then s.writeMask off 0xFFFFFF80 v
      else if w = 4 then s.writeMask off allBits v
      else if w = 8 then s.writeMask off 0xFF v
      else if w = 0x10 then s.writeRcuCtl n v
      else if w = 0x18 then s.clearFields off [(31, 16)] v
      else s
    | none => s

/-- Words of a flow's block but its CTL (R177, R401). -/
def State.writeFlowWord (s : State) (tx : Bool) (off w v : Nat) : State :=
  if w = 0x10 then s.writeMask off 0xFF v
  else if w = 0x30 then s.writeMask off 0x0FFF0FFF v
  else if w = 0x34 then s.writeMask off 0xFFF v
  else if w = 0x38 || w = 0x3C then (if tx then s.writeMask off allBits v else s)
  else if w = 0x40 then s.clearFields off [(31, 0)] v
  else if w = 0x48 then s.clearBits off (if tx then 0xFFFFFF00 else 2) v
  else if w = 0x50 then s.writeMask off (if tx then allBits else 0xFFFF) v
  else if w = 0x58 then (if tx then s.writeMask off 0xFFFF v else s)
  else if (decide (8 ≤ w) && decide (w < 0x10)) || (decide (0x18 ≤ w) && decide (w ≤ 0x28)) || w = 0x54 || w = 0x5C || (decide (0x60 ≤ w) && decide (w < 0x70))
      || (decide (0x70 ≤ w) && !tx && bitAt (s.fCtl false ((off - rxBlk 0) / 0x80)) 61) then s.writeMask off allBits v
  else s

/-- A flow's CTL written whole: enabling, disabling, or fields of a flow that stays disabled (R177). -/
def State.writeFlowCtl (s : State) (tx : Bool) (f v : Nat) : State :=
  if s.flowOn tx f then s.disableFlow tx f v
  else if bitAt v 63 then s.enableFlow tx f v
  else s.setCtl tx f (setBits v 62 62 (bits (s.fCtl tx f) 62 62))

/-- PEAL_ (R219). -/
def State.writePealBlk (s : State) (w v : Nat) : State :=
  let off := pealBlk + w
  if w = 0 then s.writePealCfg v
  else if w = 8 || w = 0x0C || (decide (0x100 ≤ w) && decide (w < 0x200)) then s.writeMask off allBits v
  else if w = 0x18 then s.clearBits off allBits v
  else if w = 0x1C then (s.clearFields off [(31, 16)] v).clearBits off 0xFFFF v
  else if w = 0x28 then s.writeMask off 0xFF v
  else if w = 0x30 then s.clearFields off [(30, 30)] v
  else s

/-- MMU_ (R393, R394). -/
def State.writeMmu (s : State) (off v : Nat) : State :=
  if off = mmuGlb then s.writeInv v
  else if off = mmuGlb + 8 then s.writeMask off 0xFFFF0000 v
  else if off = mmuGlb + 0x0C then s.writeMask off allBits v
  else if off = mmuGlb + 0x10 then s.writeMask off 0xFF v
  else if off = emergOff then (s.writeMask off 0xFFFF0001 v).serveEmerg
  else if off = emergOff + 4 then s.writeMask off 0x000FFFFF v
  else if off = emstatOff then s.clearFields off [(7, 0)] v
  else
    match blkAt off (mmuBlk 0) 0x100 64 with
    | some (c, w) =>
      if w = 8 then
        let s1 := s.writeMask off 0x000F01F0 v
        if s.debugRight c && !s1.debugRight c then s1.revoke c else s1
      else if w = 0x10 || w = 0x14 then (s.writeMask off allBits v).unstall c
      else if w = 0x18 then (s.writeMask off 0xFF v).unstall c
      else if w = 0x24 then (s.w32 off v).unstall c
      else if w = 0x28 then s.writeMask off 0xFFC00000 v
      else if w = 0x2C then s.writeMask off allBits v
      else if w = 0x30 then s.writeMask off 0xFFFF00FF v
      else if w = 0x40 then s.clearFields off [(31, 16), (3, 3), (2, 2)] v
      else s
    | none => s

/-- A write of DBG_CMD (R415, R423). -/
def State.writeDbgCmd (s : State) (c v : Nat) : State :=
  let t := v % 2 ^ 14
  if s.dbgBusy c then s
  else
  match bits v 31 28 with
  | 1 => Res.state (execContinueStop c t s) s
  | 2 => Res.state (execStepS c t s) s
  | 3 => Res.state (execStepL c t s) s
  | 4 => Res.state (execCommitDump c t s) s
  | 5 => Res.state (execStopPartition c t s) s
  | 6 => Res.state (execDebugKill c t s) s
  | _ => s.badCmd c

/-- DBG_ and TRC_ (R423, R424). A capture and a clear in one write meet in an order of the device's choice (R422). -/
def State.writeDbg (s : State) (off v : Nat) : State :=
  if off = icinvOff then (if bitAt v 31 then s.setField icinvOff 31 31 1 else s)
  else if off = trcBlk then s.writeMask off 0xFFFFFF80 v
  else if off = trcBlk + 4 then s.writeMask off 0x000FFFFF v
  else if off = trcBlk + 8 || off = trcBlk + 0x0C || off = trcBlk + 0x1C then s.writeMask off allBits v
  else if off = trcBlk + 0x10 then
    let s1 := (s.writeMask off 0x801F0000 v).clearFields off [(15, 0)] v
    if bitAt v 31 then s1 else { s1 with stamps := [] }
  else
    match blkAt off (ctrBlk 0) 0x80 64 with
    | some (c, w) =>
      if w = 0 || w = 4 then s.writeMask off allBits v
      else if w = 8 then
        match bitAt v 31, bitAt v 30 with
        | true, true => if Config.free s.oracle 28 0 % 2 = 0 then (s.capture c).clearCounters c else (s.clearCounters c).capture c
        | true, false => s.capture c
        | false, true => s.clearCounters c
        | false, false => s
      else s
    | none =>
    match blkAt off (dbgBlk 0) 0x100 64 with
    | some (c, w) =>
      if w = 0 then s.writeDbgCtl c v
      else if w = 0x20 || w = 0x30 || w = 0x40 || w = 0x50 then s.writeMask off 0xFF v
      else if w = 0x48 then s.writeMask off 0xFFF00000 v
      else if w = 0x58 then s.writeDbgCmd c v
      else if w = 0x60 then s.clearFields off [(1, 1)] v
      else if w = 4 || w = 0x14 || w = 0x44 || decide (0x50 < w) then s
      else s.writeMask off allBits v
    | none => s

/-- REEVE_ (R433). -/
def State.writeReeve (s : State) (w v : Nat) : State :=
  let off := reeveBlk + w
  if w = 0 then s.writeMbox v
  else if w = 8 then s.writeMask off 0xFFFFFFC0 v
  else if w = 0x0C then s.writeMask off 0x000FFFFF v
  else if w = 0x10 then s.writeMask off allBits v
  else if w = 0x18 then s.clearFields off [(31, 16), (15, 0)] v
  else s

/-- A 32-bit write (R9, R10). -/
def State.writeWord (s : State) (off v : Nat) : State :=
  if off < 0x10000 then s.writeHif off v
  else if off < 0x00100000 then s.writeDld off v
  else if off < 0x00180000 then s.writeUnits off v
  else if off < 0x00200000 then s.writePealBlk (off - pealBlk) v
  else if off < 0x00280000 then s.writeFlowWord false off (off % 0x80) v
  else if off < 0x00300000 then s.writeFlowWord true off (off % 0x80) v
  else if off < 0x00380000 then s.writeMmu off v
  else if off < 0x003C0000 then s.writeDbg off v
  else s.writeReeve (off - reeveBlk) v

/-- The 64-bit registers whose writes act on both halves. -/
inductive Reg64 | step | resume (c : Nat) | arm | flow (tx : Bool) (f : Nat) | peer (e : Nat) | root (c : Nat) | emerg | plain deriving DecidableEq, Repr

/-- The register of the 8-byte word at an offset. -/
def reg64At (off : Nat) : Reg64 :=
  if off = ptpcBlk + 0x10 then .step
  else if off = pealBlk + 0x20 then .arm
  else if off = emergOff then .emerg
  else
    match blkAt off (peerBlk 0) 0x20 256, blkAt off (rxBlk 0) 0x80 256, blkAt off (txBlk 0) 0x80 256, blkAt off (mmuBlk 0) 0x100 64 with
    | some (e, 0x10), _, _, _ => .peer e
    | _, some (f, 0), _, _ => .flow false f
    | _, _, some (f, 0), _ => .flow true f
    | _, _, _, some (c, 0) => .root c
    | _, _, _, some (c, 0x38) => .resume c
    | _, _, _, _ => .plain

/-- A 64-bit write: of one register, or of two words, the lower first (R12). -/
def State.hostWrite64 (s : State) (off v : Nat) : State :=
  match reg64At off with
  | .step => s.ptpStep v
  | .resume c => s.resume c v
  | .arm => s.pealArmWrite v
  | .flow tx f => s.writeFlowCtl tx f v
  | .peer e => s.writePeer e v
  | .root c => s.writeRoot c v
  | .emerg => ((s.writeMask off 0xFFFF0001 (v % 2 ^ 32)).writeMask (off + 4) 0x000FFFFF (v / 2 ^ 32)).serveEmerg
  | .plain => (s.writeWord off (v % 2 ^ 32)).writeWord (off + 4) (v / 2 ^ 32)

/-- A 32-bit write: half of a 64-bit register takes its other half as it stands; three registers act only on 64 bits (R12). -/
def State.hostWrite32 (s : State) (off v : Nat) : State :=
  let base := off / 8 * 8
  let whole := if off % 8 = 0 then s.r32 (base + 4) * 2 ^ 32 + v else v * 2 ^ 32 + s.r32 base
  match reg64At base with
  | .step | .resume _ | .arm => s.badAccess
  | .flow tx f => s.writeFlowCtl tx f whole
  | .peer e => s.writePeer e whole
  | .root c => s.writeRoot c whole
  | .emerg | .plain => s.writeWord off v

/-- A write of a register. -/
def State.hostWrite (s : State) (off size v : Nat) : State :=
  if size = 8 then s.hostWrite64 off (v % 2 ^ 64) else s.hostWrite32 off (v % 2 ^ 32)

/-! ### MSI-X (R395, R396) -/

/-- Unmasking a vector sends the message that is pending. -/
def State.unmask (s : State) (v : Nat) : State :=
  let s1 : State := { s with msixMask := tset s.msixMask v false }
  if tget false s.pba v then { s1 with pba := tset s1.pba v false, out := s1.out ++ [.msix v] } else s1

/-- One 32-bit word of BAR4. -/
def State.msixRead (s : State) (off : Nat) : Nat :=
  if off < 0x1000 then (if off % 16 = 12 then bit (tget true s.msixMask (off / 16)) else (tget 0 s.msixTable (off / 4)).toNat)
  else if decide (0x8000 ≤ off) && decide (off < 0x8020) then
    (List.range 32).foldl (fun a i => a + bit (tget false s.pba (8 * (off - 0x8000) + i)) * 2 ^ i) 0
  else 0
def State.msixWrite (s : State) (off v : Nat) : State :=
  if 0x1000 ≤ off then s
  else if off % 16 = 12 then (if bitAt v 0 then { s with msixMask := tset s.msixMask (off / 16) true } else s.unmask (off / 16))
  else { s with msixTable := tset s.msixTable (off / 4) (BitVec.ofNat 32 v) }

def execMsixUnmask (v : Nat) (s : State) : Res := if v < 256 then fin (s.unmask v) else fin s

/-! ### Host accesses -/

/-- The number that stands for configuration space among the BARs. -/
def configBar : Nat := 7

/-- A byte of configuration space: the identifiers of R3 where PCI Express places them, and every other byte a free one (notes/assumptions/105). -/
def configByte (off : Nat) : Nat :=
  match off with
  | 0x00 => 0x9A
  | 0x01 => 0x1F
  | 0x02 => 0x48
  | 0x03 => 0x0B
  | 0x09 => 0x00
  | 0x0A => 0x00
  | 0x0B => 0x12
  | 0x2E => 0x50
  | 0x2F => 0x09
  | _ => Config.free 0 51 off % 256

/-- What an aligned access to configuration space reads. -/
def configRead (off size : Nat) : Nat := (List.range size).foldl (fun x i => x + configByte (off + i) * 256 ^ i) 0

/-- The host link carries accesses: it has not failed, and HIF_BOOT is out of reach before step 3 (R397). -/
def State.hostUp (s : State) (a : HostAccess) : Bool :=
  !s.noLink && !(a.bar = 0 && !a.write && decide (s.bootState < 3) && a.off / 8 = 1)

/-- A host access to a register: a write with its effect, a read with its value. -/
def execRegisterWrite (a : HostAccess) (s : State) : Res :=
  if !s.hostUp a then fin s
  else if a.bar = configBar then
    fin (if !a.write && (a.size = 1 || a.size = 2 || a.size = 4) && a.off % a.size = 0 && decide (a.off < 4096)
      then { s with out := s.out ++ [.read (configRead a.off a.size)] } else s)
  else if goodAccess a then
    if a.write then fin ((s.hostPoint a.req).hostWrite a.off a.size a.data) else fin { s with out := s.out ++ [.read (s.hostRead a.off a.size)] }
  else if a.bar = 4 && (a.size = 4 || a.size = 8) && a.off % a.size = 0 && decide (a.off < 0x10000) then
    let two := a.size = 8
    if a.write then
      let s1 := s.msixWrite a.off (a.data % 2 ^ 32)
      fin (if two then s1.msixWrite (a.off + 4) (a.data / 2 ^ 32 % 2 ^ 32) else s1)
    else fin { s with out := s.out ++ [.read (s.msixRead a.off + (if two then 2 ^ 32 * s.msixRead (a.off + 4) else 0))] }
  else fin s

/-- An access that BAR2 holds but memory does not (R395). -/
def State.beyondMem (s : State) (a : HostAccess) : Bool := a.bar = 2 && decide (s.memSize < a.off + a.size)

/-- A bad access: a write is discarded, a read returns ones, and it is counted; past the BAR the function is not addressed (R11, R395). -/
def execBadHostAccess (a : HostAccess) (s : State) : Res :=
  let bar := if a.bar = 0 then 2 ^ 24 else if a.bar = 2 then 2 ^ 38 else 2 ^ 16
  if s.noLink || a.bar = configBar then fin s
  else if bar < a.off + a.size then fin { s with out := s.out ++ [.unsupported] }
  else if (a.bar = 0 && !goodAccess a) || s.beyondMem a then
    let s1 := s.badAccess
    fin (if a.write then s1 else { s1 with out := s1.out ++ [.read (2 ^ (8 * a.size) - 1)] })
  else fin s

/-- The bytes of a host access to device memory, as the order of 04 sees them: they are of the kind of page that the latest access to them had, RC if
there was none (R56, R89). -/
def State.hostBytes (s : State) (a : HostAccess) : List ByteAt :=
  (List.range a.size).map (fun i =>
    ⟨a.off + i, (s.evs.reverse.find? (fun (e : Ev) => e.touches (a.off + i) && !e.thr.isEmpty)).elim 0 Ev.kind, (a.off + i) / 65536,
     if single a.off a.size then 1 else 0⟩)

/-- A host write: a release at SYS scope over the requester's earlier writes (R101). The line bears no crew's tag any more (R383). -/
def State.hostStore (s : State) (a : HostAccess) : State :=
  let s1 : State := { s with tags := (List.range a.size).foldl (fun t i => tdel t ((a.off + i) / 128)) s.tags }
  s1.enterWrites (writesAt (s.placeOf (.host a.req)) ⟨false, true, 4, 1⟩ (s.hostBytes a) (leBytes a.size a.data))

/-- A host read: an acquire at SYS scope (R101). -/
def State.hostLoad (s : State) (a : HostAccess) : State × List Byte :=
  let r := s.memLoad (s.placeOf (.host a.req)) ⟨true, false, 4, 1⟩ (s.hostBytes a)
  (r.1, r.2.2)

/-- A host access to device memory (R77, R101, R395). -/
def execHostMemoryAccess (a : HostAccess) (s : State) : Res :=
  if s.noLink || a.bar ≠ 2 || s.beyondMem a || decide (2 ^ 38 < a.off + a.size) then fin s
  else if a.write then fin (s.hostStore a)
  else fin { (s.hostLoad a).1 with out := s.out ++ [.read (leNat (s.hostLoad a).2)] }

end Sys2Proof.Machine
end

