-- ==== Sys2Proof/Machine/Regroup.lean ====
section
/-! DEFINITION. Regroup (07 R137 to R150; 14 R264): arrival at RGRP and RHOM, the rounds, packing and the commit. -/

namespace Sys2Proof.Machine

/-! ### The checks of R139 -/

/-- A thread of the crew has an open copy batch (R69). -/
def State.openBatch (s : State) (c : Crew) : Bool := s.batches.any (fun b => c.threads.any (fun t => t.2 = b.thread))

/-- An entry of the crew's sub-queues names a guard slot that is UNBOUND or WATCH. -/
def State.guardOpen (s : State) (cid : Nat) (c : Crew) : Bool :=
  let undecided (g : Option Nat) : Bool := match g with
    | none => false
    | some n => match tget .unbound c.guards n with
      | .yes | .no => false
      | _ => true
  s.cmds.any (fun k => k.cid = cid && undecided k.guard) || s.copies.any (fun k => k.cid = cid && k.recs.isNone && !k.left && undecided k.guard)

/-- The crew's sub-queues are empty. -/
def State.queuesEmpty (s : State) (cid : Nat) : Bool :=
  !(s.cmds.any (fun k => k.cid = cid)) && !(s.copies.any (fun k => k.cid = cid && k.recs.isNone))

/-- The regroup set of a crew (R138): scope, and the workgroup, or the launch and core. -/
def State.regroupSet (s : State) (c : Crew) : Bool × Nat × Nat :=
  if (s.kernOf c).rgrpCore then (true, s.lidOf c, s.coreOf c) else (false, c.g, 0)

/-- Rounds of the crew's set, at RGRP or RHOM. -/
def State.roundsOf (s : State) (c : Crew) (home : Bool) : List Round :=
  s.rounds.filter (fun r => r.home = home && (r.coreScope, r.set, r.core) = s.regroupSet c)

/-- The preconditions of R139. -/
def State.mayRegroup (s : State) (cid : Nat) (c : Crew) (home : Bool) : Bool :=
  (s.kernOf c).rgrpOk && (c.stack.filter Entry.isPath).length = 1 && c.active = c.live && !s.openBatch c && !s.guardOpen cid c
    && (!home || (s.roundsOf c true).all (fun r => r.fired || r.site = c.pc))

/-! ### Arrival (R140, R147) -/

/-- The crew arrives in the open round of its set and site, or opens one. -/
def State.regroupArrive (s : State) (cid : Nat) (c : Crew) (home : Bool) (n timeout : Nat) (keys : Tbl Nat) : State :=
  let a : Arrival := ⟨cid, n, keys, c.sPos⟩
  let rounds := s.rounds.map (fun (r : Round) => { r with arrived := r.arrived.filter (fun x => x.cid ≠ cid) })
  match (s.roundsOf c home).find? (fun r => !r.fired && r.site = c.pc) with
  | some r =>
    { s.setCrew cid { c with wait := .regroup r.id } with
      rounds := rounds.map (fun (x : Round) => if x.id = r.id then { x with arrived := x.arrived ++ [a] } else x) }
  | none =>
    let k := s.regroupSet c
    let r : Round := { id := s.nextHandle, home := home, coreScope := k.1, set := k.2.1, core := k.2.2, site := c.pc, timeout := timeout,
                       elapsed := 0, fired := false, arrived := [a], slots := [] }
    { s.setCrew cid { c with wait := .regroup r.id } with rounds := rounds ++ [r], nextHandle := s.nextHandle + 1 }

/-- RGRP and RHOM: the drain, the checks once, the wait for the sub-queues, arrival. -/
def regroupForm (len : Nat) (home : Bool) (fields : State → Crew → List (Bool × Trap)) (n timeout : State → Crew → Nat) (key : State → Crew → Nat → Nat)
    (s : State) : Res :=
  runS s true true len (fun s c => if c.wait = .checked then [] else fields s c ++ [(s.mayRegroup s.focus c home, Trap.plain 7)]) (fun s c =>
    if !s.queuesEmpty s.focus then .wait (s.setCrew s.focus { c with wait := .checked })
    else
      let keys := (lanesOf c.active).map (fun l => (l, key s c l))
      .done (s.regroupArrive s.focus c home (n s c) (timeout s c) keys).fireRounds)

def execRgrp (a : SX) (s : State) : Res :=
  regroupForm 8 false (fun s c => [(decide (bits a.imm 16 8 ≤ (s.kernOf c).vregs), Trap.illegal), (decide (bits a.imm 7 0 < (s.kernOf c).vregs), Trap.illegal)])
    (fun _ _ => bits a.imm 16 8) (fun s c => (c.sRd s.oracle a.sa).toNat % 2 ^ 24) (fun s c l => (c.vRd s.oracle (bits a.imm 7 0) l).toNat % 65536) s

def execRhom (a : SI) (s : State) : Res :=
  regroupForm 4 true (fun s c => [(decide (a.imm % 512 ≤ (s.kernOf c).vregs), Trap.illegal)]) (fun _ _ => a.imm % 512) (fun _ _ => 0) (fun _ _ _ => 0) s

/-! ### Firing and packing (R141) -/

/-- The time-out of a round expires. -/
def execRegroupRoundTimeout (id : Nat) (s : State) : Res :=
  fin { s with rounds := s.rounds.map (fun (r : Round) =>
    if r.id = id && !r.fired && !r.home && r.timeout ≠ 0 && decide (r.timeout ≤ r.elapsed) then s.fire r else r) }

/-- A thread on its way: key, identity, the crew and lane that held it, and that crew's move count. -/
structure Moving where
  key : Nat
  thread : Thread
  cid : Nat
  lane : Nat
  n : Nat
deriving DecidableEq, Repr

/-- Key first, then ORIGIN. -/
def Moving.before (a b : Moving) : Bool := decide (a.key < b.key) || (a.key = b.key && decide (a.thread.origin < b.thread.origin))

def insertMoving (x : Moving) : List Moving → List Moving
  | [] => [x]
  | y :: t => if x.before y then x :: y :: t else y :: insertMoving x t

def sortMoving (xs : List Moving) : List Moving := xs.foldr insertMoving []

/-- Lists of at most n. -/
def chunks (n : Nat) : Nat → List Moving → List (List Moving)
  | 0, _ => []
  | fuel + 1, xs => if xs.isEmpty then [] else xs.take n :: chunks n fuel (xs.drop n)

/-- New crews for sorted threads and a number of slots: padded or plain. -/
def packCrews (slots : Nat) (xs : List Moving) : List (List Moving) :=
  let keys := (xs.map (fun x => x.key)).eraseDups
  let padded := keys.flatMap (fun k => chunks 32 (xs.length + 1) (xs.filter (fun x => x.key = k)))
  if padded.length ≤ slots then padded else chunks 32 (xs.length + 1) xs

/-- The threads of the arrived crews. -/
def State.movingIn (s : State) (r : Round) : List Moving :=
  (s.arrivedIn r).flatMap (fun a => (s.crew? a.cid).elim [] (fun c => c.threads.map (fun t => ⟨tget 0 a.keys t.1, t.2, a.cid, t.1, a.n⟩)))

/-! ### The state of a new crew (R142, R143, R147) -/

/-- A slot that holds no thread. -/
def Crew.dormant (c : Crew) : Crew :=
  { c with threads := [], stack := [], runs := [], s := [], b := [], v := [], p := [], guards := [], bins := [], pend := [], wait := .none, rotDue := false,
           key := 0, ir := [], yielded := [], breakOnce := [], trigs := [] }

/-- The crew of a slot after the move: `lanes` the threads by lane, `src` the crew whose s0 to s15 and b0 to b15 it takes.
The 4,096 cycles of R35 start at the commit (DESIGN CHOICE, notes/assumptions/121). -/
def State.formCrew (s : State) (c : Crew) (lanes : Tbl Moving) (src : Nat) (pc : VA) (key : Nat) : Crew :=
  let from_ := (s.crew? src).getD c
  let old (cid : Nat) : Crew := (s.crew? cid).getD c
  let v := lanes.flatMap (fun e => (List.range e.2.n).map (fun r => (32 * r + e.1, tget 0 (old e.2.cid).v (32 * r + e.2.lane))))
  let p := (List.range 7).map (fun n => (n, maskOf (fun l => (tget? lanes l).elim false (fun m => (tget 0 (old m.cid).p n).getLsbD m.lane))))
  { c.dormant with
    threads := lanes.map (fun e => (e.1, e.2.thread))
    stack := [.path pc (maskOf (fun l => (tget? lanes l).isSome)) none 0 none]
    s := from_.s.filter (fun e => decide (e.1 < 16))
    b := from_.b
    v := tsets [] v
    p := p
    key := key
    lastIssue := s.cycle }

/-- KEY of a crew formed by RGRP (R143). -/
def keyOf (ms : List Moving) : Nat :=
  let k := (ms.head?).elim 0 (fun m => m.key)
  k + (if ms.all (fun m => m.key = k) then 2 ^ 16 else 0) + 2 ^ 17

/-- A slot gets its crew, and its generation counts (R378); all that its threads have issued precedes what it issues (R79, R148). -/
def State.setFormed (s : State) (cid : Nat) (c : Crew) : State := ((s.setCrew cid c).bumpGen (s.slotOf c)).joinStreams cid

/-- The commit of a fired RGRP round. -/
def State.commitRgrp (s : State) (r : Round) : State :=
  let slots := r.slots
  let crews := packCrews slots.length (sortMoving (s.movingIn r))
  ((List.range slots.length).zip slots).foldl (fun t e =>
    match s.crew? e.2 with
    | none => t
    | some c =>
      match crews[e.1]? with
      | some ms => t.setFormed e.2 (s.formCrew c ((List.range ms.length).zip ms) ((ms.head?).elim e.2 (fun m => m.cid)) (r.site + 8) (keyOf ms))
      | none => t.setCrew e.2 c.dormant) s

/-- The commit of an RHOM: every thread goes back to its origin crew and lane. -/
def State.commitRhom (s : State) (r : Round) : State :=
  let ms := s.movingIn r
  r.slots.foldl (fun t cid =>
    match s.crew? cid with
    | none => t
    | some c =>
      let mine := ms.filter (fun m => m.thread.lid = s.lidOf c && m.thread.wgi = s.wgiOf c && m.thread.crew = c.id)
      let lanes : Tbl Moving := tsets [] (mine.map (fun m => (m.thread.lane, m)))
      match lanes with
      | [] => t.setCrew cid c.dormant
      | (_, m) :: _ => t.setFormed cid (s.formCrew c lanes m.cid (r.site + 4) 0)) s

/-- Riddle commits a fired round in one event; a move that met an uncorrectable error commits nothing and is a machine check of every
participating crew, each of which takes it before the launch is killed where the policy kills (R148). -/
def execRegroupCommit (id : Nat) (moved : Bool) (s : State) : Res :=
  match s.rounds.find? (fun r => r.id = id && r.fired) with
  | none => fin s
  | some r =>
    let s1 := { s with rounds := s.rounds.filter (fun x => x.id ≠ id) }
    if moved then
      let ts := (s.movingIn r).map (fun m => m.thread)
      let s2 := if r.home then s1.commitRhom r else s1.commitRgrp r
      fin (({ s2 with batches := s2.batches.filter (fun b => !ts.contains b.thread) }.sweepDormant).fireRounds)
    else
      let here := s.arrivedIn r
      let t := here.foldl (fun t a =>
        match t.crew? a.cid with
        | none => t
        | some c => (t.setCrew a.cid { c with wait := .none }).stopAt a.cid .s a.pos (if r.home then 4 else 8) 0
            ⟨16, 0, 0, 0, [(64, 1, 4), (65, 2, t.coreOf c)]⟩ []) s1
      fin (State.fireRounds (State.sweepDormant (match (here.head?).bind (fun a => s.crew? a.cid) with
        | some c => t.killByPolicy 16 (s.ctxOf c) (s.lidOf c)
        | none => t)))

end Sys2Proof.Machine
end

