-- ==== Sys2Proof/Machine/Due.lean ====
section
/-! DEFINITION. What happens of itself: events that are due take place at the first instant of their time (02 R43), accounts that follow the state
are kept up to date (21 R367, R369; 11 R209), the watcher looks at its counters (14 R261, R262); how far time can pass before the next event. -/

namespace Sys2Proof.Machine

/-! ### Watched counters (R261, R262) -/

/-- Since when a counter stands at a value that reaches its threshold. -/
def metSince (now thr : Nat) (v : Option Nat) (old : Option (Nat × Nat)) : Option (Nat × Nat) :=
  match v with
  | some x => if thr ≤ x then (match old with
      | some m => if m.2 = x then some m else some (now, x)
      | none => some (now, x)) else none
  | none => none

/-- What the watcher has seen of a watch's counter by now. For a workgroup that is switched out it keeps that the threshold has been met: of a value
that has stood for 1 µs in any case, of any other by the device's choice; and what it has acquired of the write that it has seen (R262). -/
def State.noteWatch (s : State) (cid wg slot : Nat) (g : Guard) : State :=
  match g with
  | .watch addr thr pos failed met =>
    let r : Option (State × Nat × List Nat) := match s.watchRead ((s.wg? wg).elim 0 (fun w => s.ctxOfLid w.lid)) cid addr.toNat with
      | .ok r => some r
      | .error _ => none
    let next := metSince s.tnow thr (r.map (fun x => x.2.1)) met
    let here := (s.wg? wg).elim false (fun w => w.phase = .resident)
    let seen := met.elim false (fun m => m.1 = 0 || decide (m.1 + 1000 ≤ s.tnow) || Config.free s.oracle 52 (16 * cid + slot) % 2 = 1)
    if !here && seen then s.setGuard cid slot (.watch addr thr pos failed (met.map (fun m => (0, m.2)))) (s.trig cid slot)
    else if next = met then s
    else match next, r with
      | some m, some (t, _, trig) => t.setGuard cid slot (.watch addr thr pos failed (some m)) trig
      | m, _ => s.setGuard cid slot (.watch addr thr pos failed m) []
  | _ => s

def State.noteWatches (s : State) : State :=
  s.guardSets.foldl (fun s c => c.2.2.foldl (fun s g => s.noteWatch c.1 c.2.1 g.1 g.2) s) s

/-- The gate that a queue's head record, or a node's due batch, waits for: its context and binding. -/
def State.gateOf (s : State) (g : Nat) : Option (Nat × Binding) :=
  if g < 64 then
    let ctx := s.qCtx g
    let at_ := ((s.addr72 (qBlk g + 0x08) (qBlk g + 0x10)).toNat + 64 * (s.r32 (qBlk g + 0x2C) % s.qSize g)) % 2 ^ 72
    (((s.dread ctx at_ 64).bind parseRecord).bind (s.readBinding ctx)).map (fun b => (ctx, b))
  else (tget? s.nodes (g - 64)).bind (fun nd => if s.batchDue nd = 0 then none else (s.template nd).map (fun x => (nd.ctx, x.2)))

/-- Queues and nodes that may wait for a gate, queues by number, nodes from 64. -/
def State.gated (s : State) : List Nat := s.heldHeads ++ (s.nodes.filter (fun n => !n.2.queue.isEmpty)).map (fun n => 64 + n.1)

def State.noteGates (s : State) : State :=
  let here := s.gated.filterMap (fun g => (s.gateOf g).bind (fun x =>
    if x.2.gate = 0 then none
    else
      let v : Option Nat := match s.gateRead x.1 x.2 with
        | .ok r => some r.2.1
        | .error _ => none
      (metSince s.tnow x.2.gthr v (tget? s.gateMet g)).map (fun m => (g, m))))
  { s with gateMet := here }

/-! ### Events and when they are due (R43) -/

/-- The events that take place of themselves, each by the name of its row and what distinguishes it from the next of its kind. -/
inductive Due where
  | twaitWake (cid : Nat)
  | guardWatchRead (w : WatchRef)
  | barrierTimeout (r : BarRef)
  | regroupCommit (id : Nat)
  | regroupRoundTimeout (id : Nat)
  | lineDeadline (f slot row : Nat)
  | txRowDue (f frame row : Nat)
  | launchSlackExpiry (lid : Nat)
  | gangReserve (lid : Nat)
  | nodeBatchTimeout (n : Nat)
  | kilnSwitchDue (slot : Nat)
  | gpxResendTimeout (e : Nat)
  | pealFrameStart (frame : Nat)
  | pealCollectionClose (frame : Nat)
  | pealDecideResend (frame send : Nat)
  | ptpSyncLoss
  | holdoverExpiry
  | ptplockTimeout
deriving DecidableEq, Repr

/-- What such an event does: the meaning of its row. -/
def Due.run (d : Due) (s : State) : Res :=
  match d with
  | .twaitWake cid => execTwaitWake cid s
  | .guardWatchRead w => execGuardWatchRead w s
  | .barrierTimeout r => execBarrierTimeout r s
  | .regroupCommit id => execRegroupCommit id true s
  | .regroupRoundTimeout id => execRegroupRoundTimeout id s
  | .lineDeadline f slot row => execLineDeadline f slot row s
  | .txRowDue f _ _ => execTxRowDue f s
  | .launchSlackExpiry lid => execLaunchSlackExpiry lid s
  | .gangReserve lid => execGangReserve lid s
  | .nodeBatchTimeout n => execNodeBatchTimeout n s
  | .kilnSwitchDue slot => execKilnSwitchDue slot s
  | .gpxResendTimeout e => execGpxResendTimeout e s
  | .pealFrameStart frame => execPealFrameStart frame s
  | .pealCollectionClose frame => execPealCollectionClose frame s
  | .pealDecideResend frame _ => execPealDecideResend frame s
  | .ptpSyncLoss => execPtpSyncLoss s
  | .holdoverExpiry => execHoldoverExpiry s
  | .ptplockTimeout => execPtplockTimeout s

/-- An event that will take place of itself: how far off it is, in nanoseconds of presentation time or in cycles. -/
structure Timer where
  left : Nat
  inCycles : Bool
  event : Due
deriving DecidableEq, Repr

/-- An event at a time; the largest time is never. -/
def State.at_ (s : State) (t : Nat) (i : Due) : List Timer := if t = 2 ^ 64 - 1 then [] else [⟨t - s.tnow, false, i⟩]

def State.crewTimers (s : State) : List Timer :=
  s.crews.flatMap (fun c =>
    (match c.2.wait with
      | .twait (some t) => s.at_ t (.twaitWake c.1)
      | _ => []))
    ++ s.guardSets.flatMap (fun c => c.2.2.flatMap (fun g => match g.2 with
      | .watch _ _ _ _ (some m) =>
        if (s.wg? c.2.1).elim false (fun w => w.phase = .resident) then [⟨m.1 + 1000 - s.tnow, false, .guardWatchRead (.guard c.1 g.1)⟩] else []
      | _ => []))

/-- Barrier clocks that run (R38, R257). -/
def State.barTimers (s : State) : List Timer :=
  let one (r : BarRef) (b : Barrier) : List Timer :=
    let gs := s.barWgs r
    match b.clock with
    | some t => if gs.isEmpty || !gs.all s.clockRuns then [] else
        [⟨((gs.head?).bind s.wg?).elim 0 (fun w => (s.kernOfLid w.lid).btoNs) - t, false, .barrierTimeout r⟩]
    | none => []
  s.wgs.flatMap (fun w => w.2.bars.flatMap (fun b => one (.wg w.1 b.1) b.2))
    ++ s.gangs.flatMap (fun x => x.2.bars.flatMap (fun b => one (.gang (x.1 / 2 ^ 32) (x.1 % 2 ^ 32) b.1) b.2))

/-- Rounds: the time-out of an open one, the last cycle for the commit of a fired one (R140, R148). -/
def State.roundTimers (s : State) : List Timer :=
  s.rounds.flatMap (fun r =>
    if r.fired then [⟨2048 - r.elapsed, true, .regroupCommit r.id⟩]
    else if r.home || r.timeout = 0 || !s.roundRuns r then [] else [⟨r.timeout - r.elapsed, true, .regroupRoundTimeout r.id⟩])

/-- Line deadlines and transmit rows (R166, R172). -/
def State.mediaTimers (s : State) : List Timer :=
  s.rx.flatMap (fun r => r.2.lines.flatMap (fun l =>
    if l.2.present then [] else s.at_ l.2.ldl (.lineDeadline r.1 (l.1 / max 1 (s.fRows false r.1)) (l.1 % max 1 (s.fRows false r.1)))))
    ++ s.tx.flatMap (fun x => (s.rowDue x.1).elim [] (fun d => s.at_ d.2 (.txRowDue x.1 x.2.frame x.2.row)))

/-- Slack, waiting gangs, gates, node batches (R366, R369, R362, R197). -/
def State.launchTimers (s : State) : List Timer :=
  s.launches.flatMap (fun l => match l.2.deadline with
    | some d => if l.2.record.classD && l.2.nextWg = 0 && !l.2.lateDone then [⟨d + 1 - l.2.est - s.tnow, false, .launchSlackExpiry l.1⟩] else []
    | none => [])
    ++ s.launches.flatMap (fun l => match l.2.gangWait with
      | some t => if l.2.record.gang = 0 || !l.2.toPlace || !l.2.deferred.isEmpty || s.reserved.any (fun r => r.2.1 = l.1) then []
        else [⟨t + s.gwait - s.tnow, false, .gangReserve l.1⟩]
      | none => [])
    ++ s.gateMet.map (fun g => ⟨g.2.1 + 1000 - s.tnow, false, .guardWatchRead (.gate g.1)⟩)
    ++ s.nodes.flatMap (fun n => match n.2.queue with
      | (_, t) :: _ => if n.2.timeout = 2 ^ 32 - 1 then [] else [⟨t + n.2.timeout - s.tnow, false, .nodeBatchTimeout n.1⟩]
      | [] => [])

/-- Switches, resends, the Peal frames, the clock unit and bring-up (R161, R200, R214 to R217, R397, R399). -/
def State.unitTimers (s : State) : List Timer :=
  s.rcos.flatMap (fun r => match r.2.pending with
      | some (t, _) => if r.2.due then [] else s.at_ t (.kilnSwitchDue r.1)
      | none => [])
    ++ s.pairs.flatMap (fun p => p.2.resendAt.elim [] (fun t => [⟨t - s.tnow, false, .gpxResendTimeout p.1⟩]))
    ++ s.peal.flatMap (fun a =>
      s.at_ a.pres (.pealFrameStart a.frameNo)
        ++ (if s.isTenor && a.decided.isNone then [⟨a.pres - s.pealGuard - s.tnow, false, .pealCollectionClose a.frameNo⟩] else [])
        ++ (if a.decided.isSome && decide (a.sends < 5)
            then [⟨a.pres + a.sends * (s.pealGuard / 8) - s.pealGuard - s.tnow, false, .pealDecideResend a.frameNo a.sends⟩] else []))
    ++ (if s.lock = 2 then [⟨3000000000 - s.ptp.sinceSync, false, .ptpSyncLoss⟩] else [])
    ++ (if s.lock = 3 then [⟨s.r32 (ptpcBlk + 0x18) % 65536 * 1000000000 - s.ptp.inHoldover, false, .holdoverExpiry⟩] else [])
    ++ (if s.bootState = 5 && s.lock ≠ 2 then [⟨10000000000 - s.ptp.inStep, false, .ptplockTimeout⟩] else [])

def State.timers (s : State) : List Timer :=
  s.crewTimers ++ s.barTimers ++ s.roundTimers ++ s.mediaTimers ++ s.launchTimers ++ s.unitTimers

/-- The accounts that follow the state; an entry that has become eligible shows the time in its stamp (R419). -/
def State.accounts (s : State) : State := s.settleDispatch.settleQueues.noteWatches.noteGates.markReady

/-- Events that are due take place, each at most once, in an order of the device's choice. -/
def fireDue : Nat → List Due → State → State
  | 0, _, s => s
  | fuel + 1, fired, s =>
    let due := (s.timers.filter (fun t => t.left = 0 && !fired.contains t.event)).map (fun t => t.event)
    match due[if due.length ≤ 1 then 0 else Config.free s.oracle 53 fired.length % due.length]? with
    | none => s
    | some i =>
      let s1 := { s with oracle := s.oracle + 1 }
      fireDue fuel (i :: fired) (Res.state (i.run s1) s1).accounts

/-- How many events can be due at one instant: those that wait, each send of a decision, and each row of the frames that a transmit flow has to
send by now, of which those after its ring's come FPERIOD apart. -/
def State.dueBound (s : State) : Nat :=
  s.timers.length + 64 + 5 * s.peal.length
    + (s.tx.map (fun x => s.fRows true x.1 * (s.tnow / max 1 (s.fPeriod true x.1) + s.fSlots true x.1 + 2))).sum

/-- What follows every act: accounts are brought up to date and all that is due takes place. -/
def State.settle (s : State) : State :=
  let s1 := s.accounts
  fireDue s1.dueBound [] s1

/-! ### How far time passes -/

/-- The nearest event still to come, by nanoseconds or by cycles. -/
def State.horizon (s : State) (inCycles : Bool) : Option Nat :=
  ((s.timers.filter (fun t => t.inCycles = inCycles && t.left ≠ 0)).map (fun t => t.left)).foldl (fun m x => some (m.elim x (min x))) none

/-- An act of time: presentation time with its slewing and the device's clock pass, but neither beyond the next event. -/
def State.passTimeTo (s : State) (ns frac cycles : Nat) : State :=
  let advance := s.passSlewed ns frac
  let here := (s.horizon false).elim advance (fun d => min advance (65536 * d - s.tfrac))
  let t := s.passTime (here / 65536) (here % 65536) (s.readyIn.foldl min ((s.horizon true).elim cycles (min cycles)))
  { t with ptp := { t.ptp with slewed := t.ptp.slewed + s.slew (65536 * ns + frac) } }

end Sys2Proof.Machine
end

