-- ==== Sys2Proof/WellFormed.lean ====
section
/-! DEFINITION. Which instructions are well formed: every field within its width (R222 to R232), hints and illegal
opcodes with an opcode of their class (R220, R234, R235), event arguments naming units that exist. -/

namespace Sys2Proof

/-- The S opcode is assigned (R234). -/
def sAssigned (op : Nat) : Bool :=
  (decide (1 ≤ op) && decide (op ≤ 0x22)) || (decide (0x24 ≤ op) && decide (op ≤ 0x2A)) || (decide (0x30 ≤ op) && decide (op ≤ 0x36))
    || (decide (0x38 ≤ op) && decide (op ≤ 0x3B)) || (decide (0x40 ≤ op) && decide (op ≤ 0x49)) || (decide (0x4C ≤ op) && decide (op ≤ 0x5E))
    || (decide (0x60 ≤ op) && decide (op ≤ 0x6E))

/-- The S opcode is a hint (R234, R236). -/
def sIsHint (op : Nat) : Bool := decide (0x70 ≤ op) && decide (op ≤ 0x7F)

/-- The L opcode is assigned (R235), as the ranges of the map. -/
def lRanges : List (Nat × Nat) :=
  [(0x001, 0x01A), (0x020, 0x02D), (0x040, 0x04E), (0x060, 0x06D), (0x080, 0x08E), (0x090, 0x095), (0x0A0, 0x0A2), (0x0A4, 0x0CD), (0x0D0, 0x0D6), (0x0E0, 0x0E2), (0x0E4, 0x0EE), (0x0F0, 0x0F7), (0x100, 0x113), (0x120, 0x133), (0x140, 0x153), (0x160, 0x169), (0x170, 0x17A), (0x180, 0x184), (0x190, 0x195)]

def lAssigned (op : Nat) : Bool := lRanges.any (fun r => decide (r.1 ≤ op) && decide (op ≤ r.2))

/-- The L opcode is a hint (R235, R236). -/
def lIsHint (op : Nat) : Bool := decide (0x1C0 ≤ op) && decide (op ≤ 0x1FF)

/-- x is below n. -/
def below (x n : Nat) : Bool := decide (x < n)

def SA.wf (a : SA) : Bool := below a.sd 64 && below a.sa 64 && below a.sb 64 && below a.func 64
def SI.wf (a : SI) : Bool := below a.sd 64 && below a.sa 64 && below a.imm 4096
def SJ.wf (a : SJ) : Bool := below a.cond 8 && below a.off 2097152
def SL.wf (a : SL) : Bool := below a.loff 131072 && below a.cnt 128
def SM.wf (a : SM) : Bool :=
  below a.sd 64 && below a.ordk 4 && below a.b 16 && below a.sb 64 && below a.scope 8 && below a.space 2 && below a.res 2 && below a.w64 2
def SM6.wf (a : SM6) : Bool := below a.sd 64 && below a.res 4 && below a.b 16 && below a.sb 64 && below a.low 64
def SB.wf (a : SB) : Bool := below a.p 8 && below a.off 1024 && below a.xoff 2048
def SP.wf (a : SP) : Bool := below a.dst 256 && below a.res 16 && below a.num 4096
def SF.wf (a : SF) : Bool := below a.kind 4 && below a.u 2 && below a.scope 8 && below a.mask 32 && below a.res 8192
def SR.wf (a : SR) : Bool := below a.raw 16777216
def SX.wf (a : SX) : Bool := below a.sd 64 && below a.sa 64 && below a.sb 64 && below a.func 64 && below a.imm 4294967296
def LF.wf (f : LF) : Bool :=
  below f.gp 8 && below f.vd 256 && below f.va 256 && below f.vb 256 && below f.vc 256 && below f.ty 16 && below f.rnd 4
    && below f.mod 8 && below f.sub 256 && below f.low 4294967296

def Place.wf (p : Place) : Bool := below p.core 192 && p.slots.all (fun q => below q.1 4 && below q.2 16)
def HostAccess.wf (a : HostAccess) : Bool := below a.bar 8 && below a.off (2 ^ 64) && below a.size 4097 && below a.data (2 ^ (8 * a.size)) && below a.req 65536

/-- A well-formed instruction. -/
def Instr.wf : Instr → Bool
  | .saddR a => a.wf
  | .saddI a => a.wf
  | .ssub a => a.wf
  | .smulR a => a.wf
  | .smulI a => a.wf
  | .smulhI a => a.wf
  | .smulhN a => a.wf
  | .sdivI a => a.wf
  | .sdivN a => a.wf
  | .sremI a => a.wf
  | .sremN a => a.wf
  | .sandR a => a.wf
  | .sandI a => a.wf
  | .sorR a => a.wf
  | .sorI a => a.wf
  | .sxorR a => a.wf
  | .sxorI a => a.wf
  | .sshlR a => a.wf
  | .sshlI a => a.wf
  | .sshrR a => a.wf
  | .sshrI a => a.wf
  | .ssraR a => a.wf
  | .ssraI a => a.wf
  | .sminI a => a.wf
  | .sminN a => a.wf
  | .smaxI a => a.wf
  | .smaxN a => a.wf
  | .ssetI a => a.wf
  | .ssetN a => a.wf
  | .sbit32 a => a.wf
  | .sbit64 a => a.wf
  | .sldiLo a => a.wf
  | .sldiHi a => a.wf
  | .sldiSx a => a.wf
  | .baddR a => a.wf
  | .baddI a => a.wf
  | .bsetLo a => a.wf
  | .bsetHi a => a.wf
  | .bgetLo a => a.wf
  | .bgetHi a => a.wf
  | .bmov a => a.wf
  | .sldN8 a => a.wf
  | .sldI8 a => a.wf
  | .sldN16 a => a.wf
  | .sldI16 a => a.wf
  | .sldN32 a => a.wf
  | .sldI32 a => a.wf
  | .sld64 a => a.wf
  | .sst8 a => a.wf
  | .sst16 a => a.wf
  | .sst32 a => a.wf
  | .sst64 a => a.wf
  | .satomAdd a => a.wf
  | .satomAnd a => a.wf
  | .satomOr a => a.wf
  | .satomXor a => a.wf
  | .satomMin a => a.wf
  | .satomMax a => a.wf
  | .satomMinn a => a.wf
  | .satomMaxn a => a.wf
  | .satomXchg a => a.wf
  | .scas a => a.wf
  | .jmp a => a.wf
  | .jmpcEqz a => a.wf
  | .jmpcNez a => a.wf
  | .jmpcLtz a => a.wf
  | .jmpcGez a => a.wf
  | .call a => a.wf
  | .ret a => a.wf
  | .brd a => a.wf
  | .join a => a.wf
  | .lrun a => a.wf
  | .bar a => a.wf
  | .gbar a => a.wf
  | .peal a => a.wf
  | .tget a => a.wf
  | .twait a => a.wf
  | .twaitPres a => a.wf
  | .lnch a => a.wf
  | .lnchNb a => a.wf
  | .exit a => a.wf
  | .gsetT a => a.wf
  | .gsetF a => a.wf
  | .gsetTrig a => a.wf
  | .gclr a => a.wf
  | .binc a => a.wf
  | .rgrp a => a.wf
  | .rhom a => a.wf
  | .sread a => a.wf
  | .swrite a => a.wf
  | .fence a => a.wf
  | .yieldCrew a => a.wf
  | .trap a => a.wf
  | .sysc a => a.wf
  | .brkpt a => a.wf
  | .nop a => a.wf
  | .sHint op a => sIsHint op && a.wf
  | .sIllegalOpcode op a => below op 128 && !sAssigned op && !sIsHint op && a.wf
  | .vadd f => f.wf
  | .vsub f => f.wf
  | .vmul f => f.wf
  | .vmulh f => f.wf
  | .vmulw f => f.wf
  | .vaddc _ f => f.wf
  | .vfma _ f => f.wf
  | .vdiv _ f => f.wf
  | .vdot _ f => f.wf
  | .vmin _ f => f.wf
  | .vmax _ f => f.wf
  | .vclamp f => f.wf
  | .vmed3 f => f.wf
  | .vabs f => f.wf
  | .vneg f => f.wf
  | .vsel f => f.wf
  | .vlerp f => f.wf
  | .vsad f => f.wf
  | .vcmp _ f => f.wf
  | .vand f => f.wf
  | .vor f => f.wf
  | .vxor f => f.wf
  | .vnot f => f.wf
  | .vlop3 f => f.wf
  | .vshl f => f.wf
  | .vshr f => f.wf
  | .vsra f => f.wf
  | .vbfe f => f.wf
  | .vbfi f => f.wf
  | .vpopc f => f.wf
  | .vclz _ f => f.wf
  | .vbrev f => f.wf
  | .vprmt f => f.wf
  | .vrcp f => f.wf
  | .vrsq f => f.wf
  | .vsqrt f => f.wf
  | .vexp2 f => f.wf
  | .vlog2 f => f.wf
  | .vsin _ f => f.wf
  | .vcos _ f => f.wf
  | .vtanh f => f.wf
  | .vfrc f => f.wf
  | .vrnd f => f.wf
  | .vclass f => f.wf
  | .vldexp f => f.wf
  | .vcvt k f => below k.code 15 && f.wf
  | .vpack _ f => f.wf
  | .vunpk _ f => f.wf
  | .vbqnt f => f.wf
  | .vbscl f => f.wf
  | .vmov f => f.wf
  | .vmovi f => f.wf
  | .vmovs f => f.wf
  | .vshfl _ f => f.wf
  | .vshfu _ f => f.wf
  | .vshfd _ f => f.wf
  | .vshfx _ f => f.wf
  | .vvote _ f => f.wf
  | .vbal f => f.wf
  | .vplog _ f => f.wf
  | .vpmov _ f => f.wf
  | .vred _ f => f.wf
  | .vscanInc _ f => f.wf
  | .vscanExc _ f => f.wf
  | .vmatch f => f.wf
  | .vld _ f => f.wf
  | .vst _ f => f.wf
  | .vsmp f => f.wf
  | .atom _ f => f.wf
  | .cas _ f => f.wf
  | .vfence f => f.wf
  | .cpy f => f.wf
  | .cseal f => f.wf
  | .cwait f => f.wf
  | .srd f => f.wf
  | .swr f => f.wf
  | .sstatGet f => f.wf
  | .sstatSet f => f.wf
  | .ralloc f => f.wf
  | .rallocNb f => f.wf
  | .rpush f => f.wf
  | .qpop f => f.wf
  | .mldb _ f => f.wf
  | .smcp f => f.wf
  | .mma _ f => f.wf
  | .msca f => f.wf
  | .macz f => f.wf
  | .macrd _ f => f.wf
  | .macwr f => f.wf
  | .collAdd f => f.wf
  | .collWr f => f.wf
  | .trav f => f.wf
  | .rast f => f.wf
  | .rcq f => f.wf
  | .rcqTrain f => f.wf
  | .lHint op f => lIsHint op && f.wf
  | .lIllegalOpcode op f => below op 512 && !lAssigned op && !lIsHint op && f.wf
  | .crewRetire _ => true
  | .barrierTimeout _ => true
  | .twaitWake _ => true
  | .copyLeaveHead _ => true
  | .copyLand _ lane => below lane 32
  | .passGrant quad => below quad 48
  | .passComplete quad _ _ => below quad 48
  | .foldGrant quad => below quad 48
  | .scaleUnitFill quad => below quad 48
  | .mldbLeaveHead _ => true
  | .mldbCommit _ => true
  | .smcpCommit _ => true
  | .regroupRoundTimeout _ => true
  | .regroupCommit _ _ => true
  | .guardWatchRead _ => true
  | .rcqGrant quad => below quad 48
  | .rcqComplete quad => below quad 48
  | .travComplete _ => true
  | .rasteriseTriangle _ lane view => below lane 32 && below view 8
  | .rastReturn _ => true
  | .kilnStep slot => below slot 4
  | .kilnSwitchDue slot => below slot 4
  | .kilnSwitchWrite slot => below slot 4
  | .rcuWritebackRetry slot => below slot 4
  | .bindRco slot value => below slot 4 && below value (2 ^ 64)
  | .unbindRco slot value => below slot 4 && below value (2 ^ 64)
  | .unbindComplete slot => below slot 4
  | .pauseKiln value => below value (2 ^ 64)
  | .rxPacket port p => below port 16 && below p.udp (2 ^ 16) && below p.addr (2 ^ 128)
  | .rxRecordPacket port p => below port 16 && below p.udp (2 ^ 16) && below p.addr (2 ^ 128)
  | .lineDeadline flow _ _ => below flow 256
  | .jxsLineDecoded flow _ _ engine => below flow 256 && below engine 16
  | .txRowDue flow => below flow 256
  | .flowEnable _ flow value => below flow 256 && below value (2 ^ 64)
  | .flowDisable _ flow value => below flow 256 && below value (2 ^ 64)
  | .nodeBatchTimeout node => below node 256
  | .recordCopyLand _ => true
  | .collSend _ => true
  | .gpxData entry _ _ => below entry 256
  | .gpxAck entry _ => below entry 256
  | .gpxResendTimeout entry => below entry 256
  | .arrive entry _ _ => below entry 256
  | .decideMsg entry _ _ => below entry 256
  | .pealCollectionClose _ => true
  | .pealDecideResend _ => true
  | .pealFrameStart _ => true
  | .pealArm value => below value (2 ^ 64)
  | .pealEnable value => below value (2 ^ 64)
  | .peerRevalidate entry value => below entry 256 && below value (2 ^ 64)
  | .doorbell queue value => below queue 64 && below value (2 ^ 64)
  | .launchTake queue => below queue 64
  | .launchSlackExpiry _ => true
  | .workgroupPlace _ places => places.all Place.wf
  | .gangReserve _ => true
  | .queueEnable queue value => below queue 64 && below value (2 ^ 64)
  | .queueDisable queue value => below queue 64 && below value (2 ^ 64)
  | .crfaultClear queue => below queue 64
  | .poolEnable pool value => below pool 16 && below value (2 ^ 64)
  | .poolDisable pool value => below pool 16 && below value (2 ^ 64)
  | .nodeEnable node value => below node 256 && below value (2 ^ 64)
  | .nodeDisable node value => below node 256 && below value (2 ^ 64)
  | .hwqEnable queue value => below queue 64 && below value (2 ^ 64)
  | .hwqDisable queue value => below queue 64 && below value (2 ^ 64)
  | .trapRecordWrite ctx => below ctx 64
  | .trgetWrite ctx value => below ctx 64 && below value (2 ^ 64)
  | .replay ctx _ => below ctx 64
  | .killStop ctx _ => below ctx 64
  | .debugStop ctx _ => below ctx 64
  | .deferredMemoryError _ _ ctx _ => below ctx 64
  | .eviction core _ _ => below core 192
  | .saveComplete _ => true
  | .saveFault _ _ => true
  | .emergencyCopyDone _ => true
  | .workgroupRestore p _ => p.all Place.wf
  | .restoreComplete _ => true
  | .mmuInvalidate value => below value (2 ^ 64)
  | .mmuInvalidateDone => true
  | .scinvGo quad value => below quad 48 && below value (2 ^ 64)
  | .scinvDone quad => below quad 48
  | .powerOnReset => true
  | .bringupStepEnd _ => true
  | .ptplockTimeout => true
  | .ptpSync _ => true
  | .ptpAnnounce port _ => below port 16
  | .ptpSyncLoss => true
  | .holdoverExpiry => true
  | .ptpcDisable => true
  | .ptpcStep value => below value (2 ^ 64)
  | .ethmodeSet value => below value (2 ^ 64)
  | .portTrain port value => below port 16 && below value (2 ^ 64)
  | .portTrainDone port _ => below port 16
  | .portDisable port value => below port 16 && below value (2 ^ 64)
  | .wallEnable value => below value (2 ^ 64)
  | .badHostAccess a => a.wf
  | .hostMemoryAccess a => a.wf
  | .msixUnmask vector => below vector 256
  | .registerWrite a => a.wf
  | .continueStop ctx _ => below ctx 64
  | .stepS ctx _ => below ctx 64
  | .stepL ctx _ => below ctx 64
  | .commitDump ctx _ => below ctx 64
  | .stopPartition ctx _ => below ctx 64
  | .debugKill ctx _ => below ctx 64
  | .debugRevoke ctx value => below ctx 64 && below value (2 ^ 64)
  | .releaseTaint ctx value => below ctx 64 && below value (2 ^ 64)
  | .icinvGo => true
  | .icinvDone => true
  | .capCounters ctx => below ctx 64
  | .clrCounters ctx => below ctx 64
  | .sensorSample _ _ => true
  | .arrayError _ => true
  | .rowTestDone _ _ _ => true
  | .updateCmd => true
  | .kilnUpdateApply => true
  | .retireCmd => true
  | .quoteCmd => true
  | .logreadCmd => true
  | .reeveCommandDone => true
  | .pendingWriteReturn _ _ => true
  | .restoreFault _ _ => true
  | .kilnUpdateDone => true

end Sys2Proof
end

