-- ==== Sys2Proof/Decode.lean ====
section
/-! DEFINITION. Decoding of S-words and L-words (R222 to R235), total on any bytes, and the encoder written from the same
tables. An unassigned opcode decodes to its own row (its fate is a trap, R220); the only refusal is a truncated word. -/

namespace Sys2Proof

/-- Why bytes are not an instruction. -/
inductive DecodeError where
  /-- Fewer bytes than the word needs. -/
  | truncated
deriving DecidableEq, Repr

/-- W and the layouts of an S-word (R222, R223). -/
def SA.ofWord (x : Nat) : SA := ⟨bitAt x 31, bits x 23 18, bits x 17 12, bits x 11 6, bits x 5 0⟩
def SI.ofWord (x : Nat) : SI := ⟨bitAt x 31, bits x 23 18, bits x 17 12, bits x 11 0⟩
def SJ.ofWord (x : Nat) : SJ := ⟨bitAt x 31, bits x 23 21, bits x 20 0⟩
def SL.ofWord (x : Nat) : SL := ⟨bitAt x 31, bits x 23 7, bits x 6 0⟩
def SM.ofWord (x : Nat) : SM :=
  ⟨bitAt x 31, bits x 23 18, bits x 17 16, bits x 15 12, bits x 11 6, bits x 5 3, bits x 2 2, bits x 1 1, bits x 0 0⟩
def SM6.ofWord (x : Nat) : SM6 := ⟨bitAt x 31, bits x 23 18, bits x 17 16, bits x 15 12, bits x 11 6, bits x 5 0⟩
def SB.ofWord (x : Nat) : SB := ⟨bitAt x 31, bits x 23 21, bits x 20 11, bits x 10 0⟩
def SP.ofWord (x : Nat) : SP := ⟨bitAt x 31, bits x 23 16, bits x 15 12, bits x 11 0⟩
def SF.ofWord (x : Nat) : SF := ⟨bitAt x 31, bits x 23 22, bits x 21 21, bits x 20 18, bits x 17 13, bits x 12 0⟩
def SR.ofWord (x : Nat) : SR := ⟨bitAt x 31, bits x 23 0⟩
def SX.ofWords (x y : Nat) : SX := ⟨bitAt x 31, bits x 23 18, bits x 17 12, bits x 11 6, bits x 5 0, bits y 31 0⟩

/-- The fields of an L-word (R225). -/
def LF.ofWord (x : Nat) : LF :=
  ⟨bitAt x 95, bits x 85 83, bitAt x 82, bits x 81 74, bits x 73 66, bits x 65 58, bits x 57 50, bits x 49 46, bits x 45 44,
    bitAt x 43, bits x 42 40, bits x 39 32, bits x 31 0⟩

/-- The S instruction of first word x; y is the second word of an SX form (R222, R234). -/
def decodeS (x y : Nat) : Instr :=
  match bits x 30 24 with
  | 0x01 => .saddR (SA.ofWord x)
  | 0x02 => .saddI (SI.ofWord x)
  | 0x03 => .ssub (SA.ofWord x)
  | 0x04 => .smulR (SA.ofWord x)
  | 0x05 => .smulI (SI.ofWord x)
  | 0x06 => .smulhI (SA.ofWord x)
  | 0x07 => .smulhN (SA.ofWord x)
  | 0x08 => .sdivI (SA.ofWord x)
  | 0x09 => .sdivN (SA.ofWord x)
  | 0x0A => .sremI (SA.ofWord x)
  | 0x0B => .sremN (SA.ofWord x)
  | 0x0C => .sandR (SA.ofWord x)
  | 0x0D => .sandI (SI.ofWord x)
  | 0x0E => .sorR (SA.ofWord x)
  | 0x0F => .sorI (SI.ofWord x)
  | 0x10 => .sxorR (SA.ofWord x)
  | 0x11 => .sxorI (SI.ofWord x)
  | 0x12 => .sshlR (SA.ofWord x)
  | 0x13 => .sshlI (SI.ofWord x)
  | 0x14 => .sshrR (SA.ofWord x)
  | 0x15 => .sshrI (SI.ofWord x)
  | 0x16 => .ssraR (SA.ofWord x)
  | 0x17 => .ssraI (SI.ofWord x)
  | 0x18 => .sminI (SA.ofWord x)
  | 0x19 => .sminN (SA.ofWord x)
  | 0x1A => .smaxI (SA.ofWord x)
  | 0x1B => .smaxN (SA.ofWord x)
  | 0x1C => .ssetI (SA.ofWord x)
  | 0x1D => .ssetN (SA.ofWord x)
  | 0x1E => .sbit32 (SA.ofWord x)
  | 0x1F => .sbit64 (SA.ofWord x)
  | 0x20 => .sldiLo (SX.ofWords x y)
  | 0x21 => .sldiHi (SX.ofWords x y)
  | 0x22 => .sldiSx (SX.ofWords x y)
  | 0x24 => .baddR (SA.ofWord x)
  | 0x25 => .baddI (SI.ofWord x)
  | 0x26 => .bsetLo (SA.ofWord x)
  | 0x27 => .bsetHi (SA.ofWord x)
  | 0x28 => .bgetLo (SA.ofWord x)
  | 0x29 => .bgetHi (SA.ofWord x)
  | 0x2A => .bmov (SA.ofWord x)
  | 0x30 => .sldN8 (SM.ofWord x)
  | 0x31 => .sldI8 (SM.ofWord x)
  | 0x32 => .sldN16 (SM.ofWord x)
  | 0x33 => .sldI16 (SM.ofWord x)
  | 0x34 => .sldN32 (SM.ofWord x)
  | 0x35 => .sldI32 (SM.ofWord x)
  | 0x36 => .sld64 (SM.ofWord x)
  | 0x38 => .sst8 (SM.ofWord x)
  | 0x39 => .sst16 (SM.ofWord x)
  | 0x3A => .sst32 (SM.ofWord x)
  | 0x3B => .sst64 (SM.ofWord x)
  | 0x40 => .satomAdd (SM.ofWord x)
  | 0x41 => .satomAnd (SM.ofWord x)
  | 0x42 => .satomOr (SM.ofWord x)
  | 0x43 => .satomXor (SM.ofWord x)
  | 0x44 => .satomMin (SM.ofWord x)
  | 0x45 => .satomMax (SM.ofWord x)
  | 0x46 => .satomMinn (SM.ofWord x)
  | 0x47 => .satomMaxn (SM.ofWord x)
  | 0x48 => .satomXchg (SM.ofWord x)
  | 0x49 => .scas (SM.ofWord x)
  | 0x4C => .jmp (SJ.ofWord x)
  | 0x4D => .jmpcEqz (SJ.ofWord x)
  | 0x4E => .jmpcNez (SJ.ofWord x)
  | 0x4F => .jmpcLtz (SJ.ofWord x)
  | 0x50 => .jmpcGez (SJ.ofWord x)
  | 0x51 => .call (SJ.ofWord x)
  | 0x52 => .ret (SA.ofWord x)
  | 0x53 => .brd (SB.ofWord x)
  | 0x54 => .join (SR.ofWord x)
  | 0x55 => .lrun (SL.ofWord x)
  | 0x56 => .bar (SA.ofWord x)
  | 0x57 => .gbar (SA.ofWord x)
  | 0x58 => .peal (SA.ofWord x)
  | 0x59 => .tget (SI.ofWord x)
  | 0x5A => .twait (SA.ofWord x)
  | 0x5B => .twaitPres (SA.ofWord x)
  | 0x5C => .lnch (SM6.ofWord x)
  | 0x5D => .lnchNb (SM6.ofWord x)
  | 0x5E => .exit (SR.ofWord x)
  | 0x60 => .gsetT (SA.ofWord x)
  | 0x61 => .gsetF (SA.ofWord x)
  | 0x62 => .gsetTrig (SM6.ofWord x)
  | 0x63 => .gclr (SA.ofWord x)
  | 0x64 => .binc (SA.ofWord x)
  | 0x65 => .rgrp (SX.ofWords x y)
  | 0x66 => .rhom (SI.ofWord x)
  | 0x67 => .sread (SP.ofWord x)
  | 0x68 => .swrite (SI.ofWord x)
  | 0x69 => .fence (SF.ofWord x)
  | 0x6A => .yieldCrew (SR.ofWord x)
  | 0x6B => .trap (SI.ofWord x)
  | 0x6C => .sysc (SI.ofWord x)
  | 0x6D => .brkpt (SI.ofWord x)
  | 0x6E => .nop (SR.ofWord x)
  | op => if sIsHint op then .sHint op (SR.ofWord x) else .sIllegalOpcode op (SR.ofWord x)

/-- The form of an assigned L opcode (R235). -/
def lForm : Nat → Option (LF → Instr)
  | 0x001 => some .vadd
  | 0x002 => some .vsub
  | 0x003 => some .vmul
  | 0x004 => some .vmulh
  | 0x005 => some .vmulw
  | 0x006 => some (.vaddc .c)
  | 0x007 => some (.vaddc .b)
  | 0x008 => some (.vfma .fma)
  | 0x009 => some (.vfma .fms)
  | 0x00A => some (.vfma .fnma)
  | 0x00B => some (.vfma .fnms)
  | 0x00C => some (.vdiv .q)
  | 0x00D => some (.vdiv .rem)
  | 0x00E => some (.vdot .acc)
  | 0x00F => some (.vdot .noacc)
  | 0x010 => some (.vmin .num)
  | 0x011 => some (.vmin .prop)
  | 0x012 => some (.vmax .num)
  | 0x013 => some (.vmax .prop)
  | 0x014 => some .vclamp
  | 0x015 => some .vmed3
  | 0x016 => some .vabs
  | 0x017 => some .vneg
  | 0x018 => some .vsel
  | 0x019 => some .vlerp
  | 0x01A => some .vsad
  | 0x020 => some (.vcmp .eq)
  | 0x021 => some (.vcmp .ne)
  | 0x022 => some (.vcmp .lt)
  | 0x023 => some (.vcmp .le)
  | 0x024 => some (.vcmp .gt)
  | 0x025 => some (.vcmp .ge)
  | 0x026 => some (.vcmp .ord)
  | 0x027 => some (.vcmp .uno)
  | 0x028 => some (.vcmp .ueq)
  | 0x029 => some (.vcmp .une)
  | 0x02A => some (.vcmp .ult)
  | 0x02B => some (.vcmp .ule)
  | 0x02C => some (.vcmp .ugt)
  | 0x02D => some (.vcmp .uge)
  | 0x040 => some .vand
  | 0x041 => some .vor
  | 0x042 => some .vxor
  | 0x043 => some .vnot
  | 0x044 => some .vlop3
  | 0x045 => some .vshl
  | 0x046 => some .vshr
  | 0x047 => some .vsra
  | 0x048 => some .vbfe
  | 0x049 => some .vbfi
  | 0x04A => some .vpopc
  | 0x04B => some (.vclz .zero)
  | 0x04C => some (.vclz .sign)
  | 0x04D => some .vbrev
  | 0x04E => some .vprmt
  | 0x060 => some .vrcp
  | 0x061 => some .vrsq
  | 0x062 => some .vsqrt
  | 0x063 => some .vexp2
  | 0x064 => some .vlog2
  | 0x065 => some (.vsin .rad)
  | 0x066 => some (.vsin .pi)
  | 0x067 => some (.vcos .rad)
  | 0x068 => some (.vcos .pi)
  | 0x069 => some .vtanh
  | 0x06A => some .vfrc
  | 0x06B => some .vrnd
  | 0x06C => some .vclass
  | 0x06D => some .vldexp
  | 0x080 => some (.vcvt ⟨0⟩)
  | 0x081 => some (.vcvt ⟨1⟩)
  | 0x082 => some (.vcvt ⟨2⟩)
  | 0x083 => some (.vcvt ⟨3⟩)
  | 0x084 => some (.vcvt ⟨4⟩)
  | 0x085 => some (.vcvt ⟨5⟩)
  | 0x086 => some (.vcvt ⟨6⟩)
  | 0x087 => some (.vcvt ⟨7⟩)
  | 0x088 => some (.vcvt ⟨8⟩)
  | 0x089 => some (.vcvt ⟨9⟩)
  | 0x08A => some (.vcvt ⟨10⟩)
  | 0x08B => some (.vcvt ⟨11⟩)
  | 0x08C => some (.vcvt ⟨12⟩)
  | 0x08D => some (.vcvt ⟨13⟩)
  | 0x08E => some (.vcvt ⟨14⟩)
  | 0x090 => some (.vpack .lo)
  | 0x091 => some (.vpack .hi)
  | 0x092 => some (.vunpk .lo)
  | 0x093 => some (.vunpk .hi)
  | 0x094 => some .vbqnt
  | 0x095 => some .vbscl
  | 0x0A0 => some .vmov
  | 0x0A1 => some .vmovi
  | 0x0A2 => some .vmovs
  | 0x0A4 => some (.vshfl .w32)
  | 0x0A5 => some (.vshfl .w16)
  | 0x0A6 => some (.vshfl .w8)
  | 0x0A7 => some (.vshfl .w4)
  | 0x0A8 => some (.vshfu .w32)
  | 0x0A9 => some (.vshfu .w16)
  | 0x0AA => some (.vshfu .w8)
  | 0x0AB => some (.vshfu .w4)
  | 0x0AC => some (.vshfd .w32)
  | 0x0AD => some (.vshfd .w16)
  | 0x0AE => some (.vshfd .w8)
  | 0x0AF => some (.vshfd .w4)
  | 0x0B0 => some (.vshfx .w32)
  | 0x0B1 => some (.vshfx .w16)
  | 0x0B2 => some (.vshfx .w8)
  | 0x0B3 => some (.vshfx .w4)
  | 0x0B4 => some (.vvote .all)
  | 0x0B5 => some (.vvote .any)
  | 0x0B6 => some (.vvote .uni)
  | 0x0B7 => some .vbal
  | 0x0B8 => some (.vplog .and)
  | 0x0B9 => some (.vplog .or)
  | 0x0BA => some (.vplog .xor)
  | 0x0BB => some (.vplog .andn)
  | 0x0BC => some (.vplog .orn)
  | 0x0BD => some (.vplog .xnor)
  | 0x0BE => some (.vplog .nand)
  | 0x0BF => some (.vplog .nor)
  | 0x0C0 => some (.vpmov .tov)
  | 0x0C1 => some (.vpmov .fromv)
  | 0x0C2 => some (.vred .add)
  | 0x0C3 => some (.vred .min)
  | 0x0C4 => some (.vred .max)
  | 0x0C5 => some (.vred .and)
  | 0x0C6 => some (.vred .or)
  | 0x0C7 => some (.vred .xor)
  | 0x0C8 => some (.vscanInc .add)
  | 0x0C9 => some (.vscanInc .min)
  | 0x0CA => some (.vscanInc .max)
  | 0x0CB => some (.vscanInc .and)
  | 0x0CC => some (.vscanInc .or)
  | 0x0CD => some (.vscanInc .xor)
  | 0x0D0 => some (.vscanExc .add)
  | 0x0D1 => some (.vscanExc .min)
  | 0x0D2 => some (.vscanExc .max)
  | 0x0D3 => some (.vscanExc .and)
  | 0x0D4 => some (.vscanExc .or)
  | 0x0D5 => some (.vscanExc .xor)
  | 0x0D6 => some .vmatch
  | 0x0E0 => some (.vld .glb)
  | 0x0E1 => some (.vld .scr)
  | 0x0E2 => some (.vld .gang)
  | 0x0E4 => some (.vst .glb)
  | 0x0E5 => some (.vst .scr)
  | 0x0E6 => some (.vst .gang)
  | 0x0E7 => some .vsmp
  | 0x0E8 => some (.cas .glb)
  | 0x0E9 => some (.cas .scr)
  | 0x0EA => some (.cas .gang)
  | 0x0EB => some .vfence
  | 0x0EC => some .cpy
  | 0x0ED => some .cseal
  | 0x0EE => some .cwait
  | 0x0F0 => some .srd
  | 0x0F1 => some .swr
  | 0x0F2 => some .sstatGet
  | 0x0F3 => some .sstatSet
  | 0x0F4 => some .ralloc
  | 0x0F5 => some .rallocNb
  | 0x0F6 => some .rpush
  | 0x0F7 => some .qpop
  | 0x100 => some (.atom ⟨.glb, .add, false⟩)
  | 0x101 => some (.atom ⟨.glb, .add, true⟩)
  | 0x102 => some (.atom ⟨.glb, .sub, false⟩)
  | 0x103 => some (.atom ⟨.glb, .sub, true⟩)
  | 0x104 => some (.atom ⟨.glb, .and, false⟩)
  | 0x105 => some (.atom ⟨.glb, .and, true⟩)
  | 0x106 => some (.atom ⟨.glb, .or, false⟩)
  | 0x107 => some (.atom ⟨.glb, .or, true⟩)
  | 0x108 => some (.atom ⟨.glb, .xor, false⟩)
  | 0x109 => some (.atom ⟨.glb, .xor, true⟩)
  | 0x10A => some (.atom ⟨.glb, .min, false⟩)
  | 0x10B => some (.atom ⟨.glb, .min, true⟩)
  | 0x10C => some (.atom ⟨.glb, .max, false⟩)
  | 0x10D => some (.atom ⟨.glb, .max, true⟩)
  | 0x10E => some (.atom ⟨.glb, .xchg, false⟩)
  | 0x10F => some (.atom ⟨.glb, .xchg, true⟩)
  | 0x110 => some (.atom ⟨.glb, .inc, false⟩)
  | 0x111 => some (.atom ⟨.glb, .inc, true⟩)
  | 0x112 => some (.atom ⟨.glb, .dec, false⟩)
  | 0x113 => some (.atom ⟨.glb, .dec, true⟩)
  | 0x120 => some (.atom ⟨.scr, .add, false⟩)
  | 0x121 => some (.atom ⟨.scr, .add, true⟩)
  | 0x122 => some (.atom ⟨.scr, .sub, false⟩)
  | 0x123 => some (.atom ⟨.scr, .sub, true⟩)
  | 0x124 => some (.atom ⟨.scr, .and, false⟩)
  | 0x125 => some (.atom ⟨.scr, .and, true⟩)
  | 0x126 => some (.atom ⟨.scr, .or, false⟩)
  | 0x127 => some (.atom ⟨.scr, .or, true⟩)
  | 0x128 => some (.atom ⟨.scr, .xor, false⟩)
  | 0x129 => some (.atom ⟨.scr, .xor, true⟩)
  | 0x12A => some (.atom ⟨.scr, .min, false⟩)
  | 0x12B => some (.atom ⟨.scr, .min, true⟩)
  | 0x12C => some (.atom ⟨.scr, .max, false⟩)
  | 0x12D => some (.atom ⟨.scr, .max, true⟩)
  | 0x12E => some (.atom ⟨.scr, .xchg, false⟩)
  | 0x12F => some (.atom ⟨.scr, .xchg, true⟩)
  | 0x130 => some (.atom ⟨.scr, .inc, false⟩)
  | 0x131 => some (.atom ⟨.scr, .inc, true⟩)
  | 0x132 => some (.atom ⟨.scr, .dec, false⟩)
  | 0x133 => some (.atom ⟨.scr, .dec, true⟩)
  | 0x140 => some (.atom ⟨.gang, .add, false⟩)
  | 0x141 => some (.atom ⟨.gang, .add, true⟩)
  | 0x142 => some (.atom ⟨.gang, .sub, false⟩)
  | 0x143 => some (.atom ⟨.gang, .sub, true⟩)
  | 0x144 => some (.atom ⟨.gang, .and, false⟩)
  | 0x145 => some (.atom ⟨.gang, .and, true⟩)
  | 0x146 => some (.atom ⟨.gang, .or, false⟩)
  | 0x147 => some (.atom ⟨.gang, .or, true⟩)
  | 0x148 => some (.atom ⟨.gang, .xor, false⟩)
  | 0x149 => some (.atom ⟨.gang, .xor, true⟩)
  | 0x14A => some (.atom ⟨.gang, .min, false⟩)
  | 0x14B => some (.atom ⟨.gang, .min, true⟩)
  | 0x14C => some (.atom ⟨.gang, .max, false⟩)
  | 0x14D => some (.atom ⟨.gang, .max, true⟩)
  | 0x14E => some (.atom ⟨.gang, .xchg, false⟩)
  | 0x14F => some (.atom ⟨.gang, .xchg, true⟩)
  | 0x150 => some (.atom ⟨.gang, .inc, false⟩)
  | 0x151 => some (.atom ⟨.gang, .inc, true⟩)
  | 0x152 => some (.atom ⟨.gang, .dec, false⟩)
  | 0x153 => some (.atom ⟨.gang, .dec, true⟩)
  | 0x160 => some (.mldb .i4)
  | 0x161 => some (.mldb .n4)
  | 0x162 => some (.mldb .i8)
  | 0x163 => some (.mldb .n8)
  | 0x164 => some (.mldb .e2m1)
  | 0x165 => some (.mldb .e4m3)
  | 0x166 => some (.mldb .e5m2)
  | 0x167 => some (.mldb .bf16)
  | 0x168 => some (.mldb .fp16)
  | 0x169 => some .smcp
  | 0x170 => some (.mma .i4)
  | 0x171 => some (.mma .n4)
  | 0x172 => some (.mma .i8)
  | 0x173 => some (.mma .n8)
  | 0x174 => some (.mma .e2m1)
  | 0x175 => some (.mma .e4m3)
  | 0x176 => some (.mma .e4m3Fine)
  | 0x177 => some (.mma .e5m2)
  | 0x178 => some (.mma .e5m2Fine)
  | 0x179 => some (.mma .bf16)
  | 0x17A => some (.mma .fp16)
  | 0x180 => some .msca
  | 0x181 => some .macz
  | 0x182 => some (.macrd .f32)
  | 0x183 => some (.macrd .cnt)
  | 0x184 => some .macwr
  | 0x190 => some .collAdd
  | 0x191 => some .collWr
  | 0x192 => some .trav
  | 0x193 => some .rast
  | 0x194 => some .rcq
  | 0x195 => some .rcqTrain
  | _ => none

/-- The L instruction of a 96-bit word (R225, R235). -/
def decodeL (x : Nat) : Instr :=
  match lForm (bits x 94 86) with
  | some form => form (LF.ofWord x)
  | none => if lIsHint (bits x 94 86) then .lHint (bits x 94 86) (LF.ofWord x) else .lIllegalOpcode (bits x 94 86) (LF.ofWord x)

/-- The opcode of the first word is one of layout SX: SLDI or RGRP (R222, R234). -/
def isSX (x : Nat) : Bool :=
  let op := bits x 30 24
  decide (0x20 ≤ op) && decide (op ≤ 0x22) || decide (op = 0x65)

/-- An S instruction from the bytes at the S-PC, and how many bytes it has. -/
def decodeSBytes (bs : List Byte) : Except DecodeError (Instr × Nat) :=
  if bs.length < 4 then .error .truncated
  else
    let x := leNat (bs.take 4)
    if isSX x then
      if bs.length < 8 then .error .truncated else .ok (decodeS x (leNat ((bs.drop 4).take 4)), 8)
    else .ok (decodeS x 0, 4)

/-- An L instruction from the bytes of its word. -/
def decodeLBytes (bs : List Byte) : Except DecodeError Instr :=
  if bs.length < 12 then .error .truncated else .ok (decodeL (leNat (bs.take 12)))

/-- The decoder on a word numbered as the opcode table numbers it: 32 bits (a second word of zeros), 64 bits (an SX form
with its second word), 96 bits (an L-word). -/
def decodeTableWord (nbits w : Nat) : Option Instr :=
  if nbits ≤ 64 then
    match decodeSBytes (leBytes 8 w) with
    | .ok (i, _) => some i
    | .error _ => none
  else
    match decodeLBytes (leBytes 12 w) with
    | .ok i => some i
    | .error _ => none

/-! The encoder. -/

def wBit (w : Bool) (n : Nat) : Nat := if w then 2 ^ n else 0

def SA.toWord (op : Nat) (a : SA) : Nat := wBit a.w 31 + op * 2 ^ 24 + a.sd * 2 ^ 18 + a.sa * 2 ^ 12 + a.sb * 2 ^ 6 + a.func
def SI.toWord (op : Nat) (a : SI) : Nat := wBit a.w 31 + op * 2 ^ 24 + a.sd * 2 ^ 18 + a.sa * 2 ^ 12 + a.imm
def SJ.toWord (op : Nat) (a : SJ) : Nat := wBit a.w 31 + op * 2 ^ 24 + a.cond * 2 ^ 21 + a.off
def SL.toWord (op : Nat) (a : SL) : Nat := wBit a.w 31 + op * 2 ^ 24 + a.loff * 2 ^ 7 + a.cnt
def SM.toWord (op : Nat) (a : SM) : Nat :=
  wBit a.w 31 + op * 2 ^ 24 + a.sd * 2 ^ 18 + a.ordk * 2 ^ 16 + a.b * 2 ^ 12 + a.sb * 2 ^ 6 + a.scope * 2 ^ 3 + a.space * 2 ^ 2
    + a.res * 2 + a.w64
def SM6.toWord (op : Nat) (a : SM6) : Nat :=
  wBit a.w 31 + op * 2 ^ 24 + a.sd * 2 ^ 18 + a.res * 2 ^ 16 + a.b * 2 ^ 12 + a.sb * 2 ^ 6 + a.low
def SB.toWord (op : Nat) (a : SB) : Nat := wBit a.w 31 + op * 2 ^ 24 + a.p * 2 ^ 21 + a.off * 2 ^ 11 + a.xoff
def SP.toWord (op : Nat) (a : SP) : Nat := wBit a.w 31 + op * 2 ^ 24 + a.dst * 2 ^ 16 + a.res * 2 ^ 12 + a.num
def SF.toWord (op : Nat) (a : SF) : Nat :=
  wBit a.w 31 + op * 2 ^ 24 + a.kind * 2 ^ 22 + a.u * 2 ^ 21 + a.scope * 2 ^ 18 + a.mask * 2 ^ 13 + a.res
def SR.toWord (op : Nat) (a : SR) : Nat := wBit a.w 31 + op * 2 ^ 24 + a.raw
def SX.toWord (op : Nat) (a : SX) : Nat :=
  wBit a.w 31 + op * 2 ^ 24 + a.sd * 2 ^ 18 + a.sa * 2 ^ 12 + a.sb * 2 ^ 6 + a.func + a.imm * 2 ^ 32
def LF.toWord (op : Nat) (f : LF) : Nat :=
  wBit f.w 95 + op * 2 ^ 86 + f.gp * 2 ^ 83 + wBit f.gn 82 + f.vd * 2 ^ 74 + f.va * 2 ^ 66 + f.vb * 2 ^ 58 + f.vc * 2 ^ 50
    + f.ty * 2 ^ 46 + f.rnd * 2 ^ 44 + wBit f.sat 43 + f.mod * 2 ^ 40 + f.sub * 2 ^ 32 + f.low

/-- The place of the variant in ascending opcode order (R235). -/
def AddcVar.code : AddcVar → Nat
  | .c => 0
  | .b => 1
/-- The place of the variant in ascending opcode order (R235). -/
def FmaVar.code : FmaVar → Nat
  | .fma => 0
  | .fms => 1
  | .fnma => 2
  | .fnms => 3
/-- The place of the variant in ascending opcode order (R235). -/
def DivVar.code : DivVar → Nat
  | .q => 0
  | .rem => 1
/-- The place of the variant in ascending opcode order (R235). -/
def DotVar.code : DotVar → Nat
  | .acc => 0
  | .noacc => 1
/-- The place of the variant in ascending opcode order (R235). -/
def MinVar.code : MinVar → Nat
  | .num => 0
  | .prop => 1
/-- The place of the variant in ascending opcode order (R235). -/
def CmpVar.code : CmpVar → Nat
  | .eq => 0
  | .ne => 1
  | .lt => 2
  | .le => 3
  | .gt => 4
  | .ge => 5
  | .ord => 6
  | .uno => 7
  | .ueq => 8
  | .une => 9
  | .ult => 10
  | .ule => 11
  | .ugt => 12
  | .uge => 13
/-- The place of the variant in ascending opcode order (R235). -/
def ClzVar.code : ClzVar → Nat
  | .zero => 0
  | .sign => 1
/-- The place of the variant in ascending opcode order (R235). -/
def TrigVar.code : TrigVar → Nat
  | .rad => 0
  | .pi => 1
/-- The place of the variant in ascending opcode order (R235). -/
def HalfVar.code : HalfVar → Nat
  | .lo => 0
  | .hi => 1
/-- The place of the variant in ascending opcode order (R235). -/
def ShfWidth.code : ShfWidth → Nat
  | .w32 => 0
  | .w16 => 1
  | .w8 => 2
  | .w4 => 3
/-- The place of the variant in ascending opcode order (R235). -/
def VoteVar.code : VoteVar → Nat
  | .all => 0
  | .any => 1
  | .uni => 2
/-- The place of the variant in ascending opcode order (R235). -/
def PlogVar.code : PlogVar → Nat
  | .and => 0
  | .or => 1
  | .xor => 2
  | .andn => 3
  | .orn => 4
  | .xnor => 5
  | .nand => 6
  | .nor => 7
/-- The place of the variant in ascending opcode order (R235). -/
def PmovVar.code : PmovVar → Nat
  | .tov => 0
  | .fromv => 1
/-- The place of the variant in ascending opcode order (R235). -/
def RedOp.code : RedOp → Nat
  | .add => 0
  | .min => 1
  | .max => 2
  | .and => 3
  | .or => 4
  | .xor => 5
/-- The place of the variant in ascending opcode order (R235). -/
def AtomOp.code : AtomOp → Nat
  | .add => 0
  | .sub => 1
  | .and => 2
  | .or => 3
  | .xor => 4
  | .min => 5
  | .max => 6
  | .xchg => 7
  | .inc => 8
  | .dec => 9
/-- The place of the variant in ascending opcode order (R235). -/
def MldbFmt.code : MldbFmt → Nat
  | .i4 => 0
  | .n4 => 1
  | .i8 => 2
  | .n8 => 3
  | .e2m1 => 4
  | .e4m3 => 5
  | .e5m2 => 6
  | .bf16 => 7
  | .fp16 => 8
/-- The place of the variant in ascending opcode order (R235). -/
def MmaFmt.code : MmaFmt → Nat
  | .i4 => 0
  | .n4 => 1
  | .i8 => 2
  | .n8 => 3
  | .e2m1 => 4
  | .e4m3 => 5
  | .e4m3Fine => 6
  | .e5m2 => 7
  | .e5m2Fine => 8
  | .bf16 => 9
  | .fp16 => 10
/-- The place of the variant in ascending opcode order (R235). -/
def MacrdVar.code : MacrdVar → Nat
  | .f32 => 0
  | .cnt => 1
/-- The place of the variant in ascending opcode order (R235). -/
def Space.code : Space → Nat
  | .glb => 0
  | .scr => 1
  | .gang => 2

/-- ATOM's opcode offset (R235). -/
def AtomVar.code (k : AtomVar) : Nat := 0x20 * k.space.code + 2 * k.op.code + (if k.noret then 1 else 0)

/-- The word of an instruction that has one, with its width in bits: 32, 64 for an SX form (the first word in bits
[31:0]), 96 for an L-word. Event rows have no word. -/
def encode : Instr → Option (Nat × Nat)
  | .saddR a => some (32, a.toWord 0x01)
  | .saddI a => some (32, a.toWord 0x02)
  | .ssub a => some (32, a.toWord 0x03)
  | .smulR a => some (32, a.toWord 0x04)
  | .smulI a => some (32, a.toWord 0x05)
  | .smulhI a => some (32, a.toWord 0x06)
  | .smulhN a => some (32, a.toWord 0x07)
  | .sdivI a => some (32, a.toWord 0x08)
  | .sdivN a => some (32, a.toWord 0x09)
  | .sremI a => some (32, a.toWord 0x0A)
  | .sremN a => some (32, a.toWord 0x0B)
  | .sandR a => some (32, a.toWord 0x0C)
  | .sandI a => some (32, a.toWord 0x0D)
  | .sorR a => some (32, a.toWord 0x0E)
  | .sorI a => some (32, a.toWord 0x0F)
  | .sxorR a => some (32, a.toWord 0x10)
  | .sxorI a => some (32, a.toWord 0x11)
  | .sshlR a => some (32, a.toWord 0x12)
  | .sshlI a => some (32, a.toWord 0x13)
  | .sshrR a => some (32, a.toWord 0x14)
  | .sshrI a => some (32, a.toWord 0x15)
  | .ssraR a => some (32, a.toWord 0x16)
  | .ssraI a => some (32, a.toWord 0x17)
  | .sminI a => some (32, a.toWord 0x18)
  | .sminN a => some (32, a.toWord 0x19)
  | .smaxI a => some (32, a.toWord 0x1A)
  | .smaxN a => some (32, a.toWord 0x1B)
  | .ssetI a => some (32, a.toWord 0x1C)
  | .ssetN a => some (32, a.toWord 0x1D)
  | .sbit32 a => some (32, a.toWord 0x1E)
  | .sbit64 a => some (32, a.toWord 0x1F)
  | .sldiLo a => some (64, a.toWord 0x20)
  | .sldiHi a => some (64, a.toWord 0x21)
  | .sldiSx a => some (64, a.toWord 0x22)
  | .baddR a => some (32, a.toWord 0x24)
  | .baddI a => some (32, a.toWord 0x25)
  | .bsetLo a => some (32, a.toWord 0x26)
  | .bsetHi a => some (32, a.toWord 0x27)
  | .bgetLo a => some (32, a.toWord 0x28)
  | .bgetHi a => some (32, a.toWord 0x29)
  | .bmov a => some (32, a.toWord 0x2A)
  | .sldN8 a => some (32, a.toWord 0x30)
  | .sldI8 a => some (32, a.toWord 0x31)
  | .sldN16 a => some (32, a.toWord 0x32)
  | .sldI16 a => some (32, a.toWord 0x33)
  | .sldN32 a => some (32, a.toWord 0x34)
  | .sldI32 a => some (32, a.toWord 0x35)
  | .sld64 a => some (32, a.toWord 0x36)
  | .sst8 a => some (32, a.toWord 0x38)
  | .sst16 a => some (32, a.toWord 0x39)
  | .sst32 a => some (32, a.toWord 0x3A)
  | .sst64 a => some (32, a.toWord 0x3B)
  | .satomAdd a => some (32, a.toWord 0x40)
  | .satomAnd a => some (32, a.toWord 0x41)
  | .satomOr a => some (32, a.toWord 0x42)
  | .satomXor a => some (32, a.toWord 0x43)
  | .satomMin a => some (32, a.toWord 0x44)
  | .satomMax a => some (32, a.toWord 0x45)
  | .satomMinn a => some (32, a.toWord 0x46)
  | .satomMaxn a => some (32, a.toWord 0x47)
  | .satomXchg a => some (32, a.toWord 0x48)
  | .scas a => some (32, a.toWord 0x49)
  | .jmp a => some (32, a.toWord 0x4C)
  | .jmpcEqz a => some (32, a.toWord 0x4D)
  | .jmpcNez a => some (32, a.toWord 0x4E)
  | .jmpcLtz a => some (32, a.toWord 0x4F)
  | .jmpcGez a => some (32, a.toWord 0x50)
  | .call a => some (32, a.toWord 0x51)
  | .ret a => some (32, a.toWord 0x52)
  | .brd a => some (32, a.toWord 0x53)
  | .join a => some (32, a.toWord 0x54)
  | .lrun a => some (32, a.toWord 0x55)
  | .bar a => some (32, a.toWord 0x56)
  | .gbar a => some (32, a.toWord 0x57)
  | .peal a => some (32, a.toWord 0x58)
  | .tget a => some (32, a.toWord 0x59)
  | .twait a => some (32, a.toWord 0x5A)
  | .twaitPres a => some (32, a.toWord 0x5B)
  | .lnch a => some (32, a.toWord 0x5C)
  | .lnchNb a => some (32, a.toWord 0x5D)
  | .exit a => some (32, a.toWord 0x5E)
  | .gsetT a => some (32, a.toWord 0x60)
  | .gsetF a => some (32, a.toWord 0x61)
  | .gsetTrig a => some (32, a.toWord 0x62)
  | .gclr a => some (32, a.toWord 0x63)
  | .binc a => some (32, a.toWord 0x64)
  | .rgrp a => some (64, a.toWord 0x65)
  | .rhom a => some (32, a.toWord 0x66)
  | .sread a => some (32, a.toWord 0x67)
  | .swrite a => some (32, a.toWord 0x68)
  | .fence a => some (32, a.toWord 0x69)
  | .yieldCrew a => some (32, a.toWord 0x6A)
  | .trap a => some (32, a.toWord 0x6B)
  | .sysc a => some (32, a.toWord 0x6C)
  | .brkpt a => some (32, a.toWord 0x6D)
  | .nop a => some (32, a.toWord 0x6E)
  | .sHint op a => some (32, a.toWord op)
  | .sIllegalOpcode op a => some (32, a.toWord op)
  | .vadd f => some (96, f.toWord 0x001)
  | .vsub f => some (96, f.toWord 0x002)
  | .vmul f => some (96, f.toWord 0x003)
  | .vmulh f => some (96, f.toWord 0x004)
  | .vmulw f => some (96, f.toWord 0x005)
  | .vaddc k f => some (96, f.toWord (0x006 + k.code))
  | .vfma k f => some (96, f.toWord (0x008 + k.code))
  | .vdiv k f => some (96, f.toWord (0x00C + k.code))
  | .vdot k f => some (96, f.toWord (0x00E + k.code))
  | .vmin k f => some (96, f.toWord (0x010 + k.code))
  | .vmax k f => some (96, f.toWord (0x012 + k.code))
  | .vclamp f => some (96, f.toWord 0x014)
  | .vmed3 f => some (96, f.toWord 0x015)
  | .vabs f => some (96, f.toWord 0x016)
  | .vneg f => some (96, f.toWord 0x017)
  | .vsel f => some (96, f.toWord 0x018)
  | .vlerp f => some (96, f.toWord 0x019)
  | .vsad f => some (96, f.toWord 0x01A)
  | .vcmp k f => some (96, f.toWord (0x020 + k.code))
  | .vand f => some (96, f.toWord 0x040)
  | .vor f => some (96, f.toWord 0x041)
  | .vxor f => some (96, f.toWord 0x042)
  | .vnot f => some (96, f.toWord 0x043)
  | .vlop3 f => some (96, f.toWord 0x044)
  | .vshl f => some (96, f.toWord 0x045)
  | .vshr f => some (96, f.toWord 0x046)
  | .vsra f => some (96, f.toWord 0x047)
  | .vbfe f => some (96, f.toWord 0x048)
  | .vbfi f => some (96, f.toWord 0x049)
  | .vpopc f => some (96, f.toWord 0x04A)
  | .vclz k f => some (96, f.toWord (0x04B + k.code))
  | .vbrev f => some (96, f.toWord 0x04D)
  | .vprmt f => some (96, f.toWord 0x04E)
  | .vrcp f => some (96, f.toWord 0x060)
  | .vrsq f => some (96, f.toWord 0x061)
  | .vsqrt f => some (96, f.toWord 0x062)
  | .vexp2 f => some (96, f.toWord 0x063)
  | .vlog2 f => some (96, f.toWord 0x064)
  | .vsin k f => some (96, f.toWord (0x065 + k.code))
  | .vcos k f => some (96, f.toWord (0x067 + k.code))
  | .vtanh f => some (96, f.toWord 0x069)
  | .vfrc f => some (96, f.toWord 0x06A)
  | .vrnd f => some (96, f.toWord 0x06B)
  | .vclass f => some (96, f.toWord 0x06C)
  | .vldexp f => some (96, f.toWord 0x06D)
  | .vcvt k f => some (96, f.toWord (0x080 + k.code))
  | .vpack k f => some (96, f.toWord (0x090 + k.code))
  | .vunpk k f => some (96, f.toWord (0x092 + k.code))
  | .vbqnt f => some (96, f.toWord 0x094)
  | .vbscl f => some (96, f.toWord 0x095)
  | .vmov f => some (96, f.toWord 0x0A0)
  | .vmovi f => some (96, f.toWord 0x0A1)
  | .vmovs f => some (96, f.toWord 0x0A2)
  | .vshfl k f => some (96, f.toWord (0x0A4 + k.code))
  | .vshfu k f => some (96, f.toWord (0x0A8 + k.code))
  | .vshfd k f => some (96, f.toWord (0x0AC + k.code))
  | .vshfx k f => some (96, f.toWord (0x0B0 + k.code))
  | .vvote k f => some (96, f.toWord (0x0B4 + k.code))
  | .vbal f => some (96, f.toWord 0x0B7)
  | .vplog k f => some (96, f.toWord (0x0B8 + k.code))
  | .vpmov k f => some (96, f.toWord (0x0C0 + k.code))
  | .vred k f => some (96, f.toWord (0x0C2 + k.code))
  | .vscanInc k f => some (96, f.toWord (0x0C8 + k.code))
  | .vscanExc k f => some (96, f.toWord (0x0D0 + k.code))
  | .vmatch f => some (96, f.toWord 0x0D6)
  | .vld k f => some (96, f.toWord (0x0E0 + k.code))
  | .vst k f => some (96, f.toWord (0x0E4 + k.code))
  | .vsmp f => some (96, f.toWord 0x0E7)
  | .atom k f => some (96, f.toWord (0x100 + k.code))
  | .cas k f => some (96, f.toWord (0x0E8 + k.code))
  | .vfence f => some (96, f.toWord 0x0EB)
  | .cpy f => some (96, f.toWord 0x0EC)
  | .cseal f => some (96, f.toWord 0x0ED)
  | .cwait f => some (96, f.toWord 0x0EE)
  | .srd f => some (96, f.toWord 0x0F0)
  | .swr f => some (96, f.toWord 0x0F1)
  | .sstatGet f => some (96, f.toWord 0x0F2)
  | .sstatSet f => some (96, f.toWord 0x0F3)
  | .ralloc f => some (96, f.toWord 0x0F4)
  | .rallocNb f => some (96, f.toWord 0x0F5)
  | .rpush f => some (96, f.toWord 0x0F6)
  | .qpop f => some (96, f.toWord 0x0F7)
  | .mldb k f => some (96, f.toWord (0x160 + k.code))
  | .smcp f => some (96, f.toWord 0x169)
  | .mma k f => some (96, f.toWord (0x170 + k.code))
  | .msca f => some (96, f.toWord 0x180)
  | .macz f => some (96, f.toWord 0x181)
  | .macrd k f => some (96, f.toWord (0x182 + k.code))
  | .macwr f => some (96, f.toWord 0x184)
  | .collAdd f => some (96, f.toWord 0x190)
  | .collWr f => some (96, f.toWord 0x191)
  | .trav f => some (96, f.toWord 0x192)
  | .rast f => some (96, f.toWord 0x193)
  | .rcq f => some (96, f.toWord 0x194)
  | .rcqTrain f => some (96, f.toWord 0x195)
  | .lHint op f => some (96, f.toWord op)
  | .lIllegalOpcode op f => some (96, f.toWord op)
  | .crewRetire _ => none
  | .barrierTimeout _ => none
  | .twaitWake _ => none
  | .copyLeaveHead _ => none
  | .copyLand _ _ => none
  | .passGrant _ => none
  | .passComplete _ _ _ => none
  | .foldGrant _ => none
  | .scaleUnitFill _ => none
  | .mldbLeaveHead _ => none
  | .mldbCommit _ => none
  | .smcpCommit _ => none
  | .regroupRoundTimeout _ => none
  | .regroupCommit _ _ => none
  | .guardWatchRead _ => none
  | .rcqGrant _ => none
  | .rcqComplete _ => none
  | .travComplete _ => none
  | .rasteriseTriangle _ _ _ => none
  | .rastReturn _ => none
  | .kilnStep _ => none
  | .kilnSwitchDue _ => none
  | .kilnSwitchWrite _ => none
  | .rcuWritebackRetry _ => none
  | .bindRco _ _ => none
  | .unbindRco _ _ => none
  | .unbindComplete _ => none
  | .pauseKiln _ => none
  | .rxPacket _ _ => none
  | .rxRecordPacket _ _ => none
  | .lineDeadline _ _ _ => none
  | .jxsLineDecoded _ _ _ _ => none
  | .txRowDue _ => none
  | .flowEnable _ _ _ => none
  | .flowDisable _ _ _ => none
  | .nodeBatchTimeout _ => none
  | .recordCopyLand _ => none
  | .collSend _ => none
  | .gpxData _ _ _ => none
  | .gpxAck _ _ => none
  | .gpxResendTimeout _ => none
  | .arrive _ _ _ => none
  | .decideMsg _ _ _ => none
  | .pealCollectionClose _ => none
  | .pealDecideResend _ => none
  | .pealFrameStart _ => none
  | .pealArm _ => none
  | .pealEnable _ => none
  | .peerRevalidate _ _ => none
  | .doorbell _ _ => none
  | .launchTake _ => none
  | .launchSlackExpiry _ => none
  | .workgroupPlace _ _ => none
  | .gangReserve _ => none
  | .queueEnable _ _ => none
  | .queueDisable _ _ => none
  | .crfaultClear _ => none
  | .poolEnable _ _ => none
  | .poolDisable _ _ => none
  | .nodeEnable _ _ => none
  | .nodeDisable _ _ => none
  | .hwqEnable _ _ => none
  | .hwqDisable _ _ => none
  | .trapRecordWrite _ => none
  | .trgetWrite _ _ => none
  | .replay _ _ => none
  | .killStop _ _ => none
  | .debugStop _ _ => none
  | .deferredMemoryError _ _ _ _ => none
  | .eviction _ _ _ => none
  | .saveComplete _ => none
  | .saveFault _ _ => none
  | .emergencyCopyDone _ => none
  | .workgroupRestore _ _ => none
  | .restoreComplete _ => none
  | .mmuInvalidate _ => none
  | .mmuInvalidateDone => none
  | .scinvGo _ _ => none
  | .scinvDone _ => none
  | .powerOnReset => none
  | .bringupStepEnd _ => none
  | .ptplockTimeout => none
  | .ptpSync _ => none
  | .ptpAnnounce _ _ => none
  | .ptpSyncLoss => none
  | .holdoverExpiry => none
  | .ptpcDisable => none
  | .ptpcStep _ => none
  | .ethmodeSet _ => none
  | .portTrain _ _ => none
  | .portTrainDone _ _ => none
  | .portDisable _ _ => none
  | .wallEnable _ => none
  | .badHostAccess _ => none
  | .hostMemoryAccess _ => none
  | .msixUnmask _ => none
  | .registerWrite _ => none
  | .continueStop _ _ => none
  | .stepS _ _ => none
  | .stepL _ _ => none
  | .commitDump _ _ => none
  | .stopPartition _ _ => none
  | .debugKill _ _ => none
  | .debugRevoke _ _ => none
  | .releaseTaint _ _ => none
  | .icinvGo => none
  | .icinvDone => none
  | .capCounters _ => none
  | .clrCounters _ => none
  | .sensorSample _ _ => none
  | .arrayError _ => none
  | .rowTestDone _ _ _ => none
  | .updateCmd => none
  | .kilnUpdateApply => none
  | .retireCmd => none
  | .quoteCmd => none
  | .logreadCmd => none
  | .reeveCommandDone => none
  | .pendingWriteReturn _ _ => none
  | .restoreFault _ _ => none
  | .kilnUpdateDone => none

end Sys2Proof
end

