-- ==== Sys2Proof/Machine/Convert.lean ====
section
/-! DEFINITION. Conversion, packing and block quantisation (15 R292 to R297). -/

namespace Sys2Proof.Machine

/-- The groups of R293. -/
def cvtGroup (t : Nat) : Nat :=
  if [0, 1, 2, 7, 8, 9].contains t then 1 else if [3, 4, 5, 6].contains t then 2 else if [10, 11, 12, 13].contains t then 4 else 0

/-- VCVT (R293): the source type is the opcode's. -/
def execVcvt (v : SrcType) (f : LF) (s : State) : Res :=
  let S := v.code
  let D := f.ty
  laneFixed s f (cvtGroup S ≠ 0 && cvtGroup S = cvtGroup D && S ≠ D) [rT D f.vd, rT S f.va] (tyRegs D) (fun s c _ l =>
    let a := opV s c (tyRegs S) f.va l
    packElems (tyKind D).w (tyCount D) (fun i =>
      convert (elemAt (tyKind S).w a i) (tyKind S) (tyKind D) (RMode.of f.rnd) f.sat))

/-- Wide and narrow type agree for VPACK and VUNPK (R294, R295): a ratio of 2 or 4, both floating or both integer, .HI only at 4, and for
VUNPK no 64-bit wide type. -/
def packOk (v : HalfVar) (wide narrow : Nat) : Bool :=
  (tyElem wide).isSome && (tyElem narrow).isSome && (tyKind wide).isFlt = (tyKind narrow).isFlt
    && (tyCount narrow = 2 * tyCount wide || tyCount narrow = 4 * tyCount wide)
    && !(v = .hi && tyCount narrow = 2 * tyCount wide)

/-- VPACK (R294): D in TYPE, S in OP[35:32]. -/
def execVpack (v : HalfVar) (f : LF) (s : State) : Res :=
  let D := f.ty
  let S := f.sub % 16
  laneFixed s f (packOk v S D && bOk f) ([rT D f.vd, rT S f.va] ++ rB f (rT S)) (tyRegs D) (fun s c r l =>
    let a := opV s c (tyRegs S) f.va l
    let b := opB s c r f (tyRegs S) (S = 9) l
    let old := opV s c (tyRegs D) f.vd l
    let cs := tyCount S
    let j0 := match v with
      | .lo => 0
      | .hi => 2 * cs
    let cv (x i : Nat) : Nat := convert (elemAt (tyKind S).w x i) (tyKind S) (tyKind D) (RMode.of f.rnd) f.sat
    packElems (tyKind D).w (tyCount D) (fun j =>
      if j < j0 || j0 + 2 * cs ≤ j then elemAt (tyKind D).w old j
      else if j < j0 + cs then cv a (j - j0) else cv b (j - j0 - cs)))

/-- VUNPK (R295): S in TYPE, D in OP[35:32]; vd and vd + 1 are written. -/
def execVunpk (v : HalfVar) (f : LF) (s : State) : Res :=
  let S := f.ty
  let D := f.sub % 16
  laneFixed s f (packOk v D S && !(ty64 D)) [⟨f.vd, 2, false⟩, rT S f.va] 2 (fun s c _ l =>
    let a := opV s c (tyRegs S) f.va l
    let cd := tyCount D
    let j0 := match v with
      | .lo => 0
      | .hi => 2 * cd
    packElems (tyKind D).w (2 * cd) (fun k =>
      convert (elemAt (tyKind S).w a (j0 + k)) (tyKind S) (tyKind D) (RMode.of f.rnd) f.sat))

/-! ### Block quantisation (R296, R297) -/

/-- Element k of a block of 32 in registers from `base`, c elements per register. -/
def blockElem (s : State) (c : Crew) (base cnt w l k : Nat) : Nat := elemAt w (opV s c 1 (base + k / cnt) l) (k % cnt)

/-- MAXF of a quantised type; 127 for i8x4. -/
def maxfOf (k : EKind) : Ex :=
  match k with
  | .flt f => f.dec f.maxMag
  | .int _ _ => Ex.ofInt 127

/-- The scale of a block (R296), as FP32. -/
def blockScale (pow2 : Bool) (xs : List Ex) (D : EKind) : Nat :=
  if xs.any (fun x => match x with
    | .num _ _ _ => false
    | _ => true) then Fmt.f32.canonNan
  else
    let mags := xs.map (fun x => match x with
      | .num _ n d => Ex.num false n d
      | y => y)
    let amax := mags.foldl (fun m x => if m.lt x then x else m) (.num false 0 1)
    if amax.isZero then 0x3F800000
    else
      match amax.div (maxfOf D) with
      | .num _ n d =>
        if pow2 then
          let e := log2Frac n d
          let j := if scaleFrac n d e = ((1 : Nat), 0, (scaleFrac n d e).2.2) then e else e + 1
          rne32 (Ex.ofME false 1 (max j (-149)))
        else max (rne32 (.num false n d)) 1
      | _ => Fmt.f32.canonNan

/-- VBQNT (R296): D in TYPE, S in OP[35:32], POW2 in OP[36]. -/
def execVbqnt (f : LF) (s : State) : Res :=
  let D := f.ty
  let S := f.sub % 16
  let nS := 32 / tyCount S
  let nD := 32 / tyCount D
  laneForm s f ([12, 13, 14, 10].contains D && [2, 3, 4].contains S) [⟨f.va, nS, false⟩, ⟨f.vd, nD + 1, false⟩] (fun s c _ act =>
    let res (l : Nat) : Nat :=
      let xs := (List.range 32).map (fun k => (tyKind S).dec (blockElem s c f.va (tyCount S) (tyKind S).w l k))
      let sc := blockScale (bitAt f.sub 4) xs (tyKind D)
      let q := packElems (tyKind D).w 32 (fun k => convertEx ((xs.getD k .nan).div (Fmt.f32.dec sc)) (tyKind D) (RMode.of f.rnd) true)
      q + sc * 2 ^ (32 * nD)
    lDone s (laneWrite c act (nD + 1) f.vd res))

/-- VBSCL (R297): S in TYPE, D in OP[35:32]; the scale b is one FP32 register. -/
def execVbscl (f : LF) (s : State) : Res :=
  let S := f.ty
  let D := f.sub % 16
  let nS := 32 / tyCount S
  let nD := 32 / tyCount D
  laneForm s f ([12, 13, 14, 10].contains S && [2, 3, 4].contains D && bOk f) ([⟨f.va, nS, false⟩, ⟨f.vd, nD, false⟩] ++ rB f r1) (fun s c r act =>
    let res (l : Nat) : Nat :=
      let sc := Fmt.f32.dec (opB s c r f 1 false l)
      packElems (tyKind D).w 32 (fun k =>
        convertEx (((tyKind S).dec (blockElem s c f.va (tyCount S) (tyKind S).w l k)).mul sc) (tyKind D) (RMode.of f.rnd) f.sat)
    lDone s (laneWrite c act nD f.vd res))

end Sys2Proof.Machine
end

