-- ==== Sys2Proof/Machine/LaneArith.lean ====
section
/-! DEFINITION. Integer and floating-point arithmetic of the lanes, comparison and classification (15 R277 to R285). -/

namespace Sys2Proof.Machine

/-- a + b, a - b, a * b (R277). -/
def execVadd (f : LF) (s : State) : Res :=
  ewForm s f tAll true true true false false (fun f k a b _ => exactResult f k (k.int? a + k.int? b) ((k.dec a).add (RMode.of f.rnd) (k.dec b)))
def execVsub (f : LF) (s : State) : Res :=
  ewForm s f tAll true true true false false (fun f k a b _ => exactResult f k (k.int? a - k.int? b) ((k.dec a).sub (RMode.of f.rnd) (k.dec b)))
def execVmul (f : LF) (s : State) : Res :=
  ewForm s f tAll true true true false false (fun f k a b _ => exactResult f k (k.int? a * k.int? b) ((k.dec a).mul (k.dec b)))

/-- The upper half of the product. -/
def execVmulh (f : LF) (s : State) : Res :=
  ewForm s f tI true true true false false (fun _ k a b _ => wrap k.w (k.int? a * k.int? b / 2 ^ k.w))

/-- The exact product as a pair of twice the width (R277, R278). -/
def execVmulw (f : LF) (s : State) : Res :=
  laneFixed s f ([0, 1, 2].contains f.ty && bOk f) ([rPair f.vd, r1 f.va] ++ rB f r1) 2 (fun s c r l =>
    let k := tyKind f.ty
    let on := ftzOn s c f.ty
    let a := prep on (naB f) k (opV s c 1 f.va l)
    let b := prep on (nbB f) k (opB s c r f 1 false l)
    match k with
    | .int _ _ => wrap 64 (k.int? a * k.int? b)
    | .flt _ => round ((k.dec a).mul (k.dec b)) .f64 .rne false)

/-- The product and sum of VFMA's variants (R277); the single rounding comes last. -/
def fmaInt (k : FmaVar) (p c : Int) : Int :=
  match k with
  | .fma => p + c | .fms => p - c | .fnma => -p + c | .fnms => -p - c
def fmaEx (k : FmaVar) (m : RMode) (p c : Ex) : Ex :=
  match k with
  | .fma => p.add m c | .fms => p.sub m c | .fnma => p.negate.add m c | .fnms => p.negate.sub m c
def execVfma (v : FmaVar) (f : LF) (s : State) : Res :=
  ewForm s f (tI ++ tF ++ tFP) true true true true false (fun f k a b c =>
    exactResult f k (fmaInt v (k.int? a * k.int? b) (k.int? c)) (fmaEx v (RMode.of f.rnd) ((k.dec a).mul (k.dec b)) (k.dec c)))

/-- VDIV, with the two borderline cases of integers (R279). -/
def divQ (f : LF) (k : EKind) (a b : Nat) : Nat :=
  match k with
  | .int sg w => if k.int? b = 0 then 2 ^ w - 1 else intResult sg w f.sat ((k.int? a).tdiv (k.int? b))
  | .flt fm => round ((k.dec a).div (k.dec b)) fm (RMode.of f.rnd) f.sat
def divRem (f : LF) (k : EKind) (a b : Nat) : Nat :=
  match k with
  | .int sg w => if k.int? b = 0 then a % 2 ^ w else intResult sg w f.sat ((k.int? a).tmod (k.int? b))
  | .flt _ => 0
def execVdiv (v : DivVar) (f : LF) (s : State) : Res :=
  match v with
  | .q => ewForm s f (tI ++ tF) true true true false true (fun f k a b _ => divQ f k a b)
  | .rem => ewForm s f tI true true true false true (fun f k a b _ => divRem f k a b)

/-- VDOT (R280). -/
def dotVal (v : DotVar) (s : State) (c : Crew) (r : LRun) (f : LF) (l : Nat) : Nat :=
  let k := tyKind f.ty
  let on := ftzOn s c f.ty
  let n := tyCount f.ty
  let a := opV s c 1 f.va l
  let b := opB s c r f 1 false l
  let z := opV s c 1 f.vc l
  let xs := (List.range n).map (fun i => (prep on (naB f) k (elemAt k.w a i), prep on (nbB f) k (elemAt k.w b i)))
  match k with
  | .int sg _ =>
    let init : Int := match v with
      | .acc => (EKind.int sg 32).int? z
      | .noacc => 0
    intResult sg 32 f.sat (xs.foldl (fun (t : Int) p => t + k.int? p.1 * k.int? p.2) init)
  | .flt _ =>
    let ps := xs.map (fun p => (k.dec p.1).mul (k.dec p.2))
    let ts := match v with
      | .acc => Fmt.f32.dec (ftz on .f32 z) :: ps
      | .noacc => ps
    ftz on .f32 (sumAsc ts .f32 (RMode.of f.rnd) f.sat)
def execVdot (v : DotVar) (f : LF) (s : State) : Res :=
  laneFixed s f ([5, 6, 10, 11, 3, 4, 12, 13].contains f.ty && bOk f)
    ([r1 f.vd, r1 f.va] ++ rB f r1 ++ (if v = .acc then [r1 f.vc] else [])) 1 (fun s c r l => dotVal v s c r f l)

/-- The order of R281: -0 below +0. -/
def fltKey (fm : Fmt) (x : Nat) : Int := if fm.neg x then -1 - (fm.mag x : Int) else (fm.mag x : Int)

/-- MIN or MAX of two elements (R281). -/
def pickElem (prop wantMax : Bool) (k : EKind) (a b : Nat) : Nat :=
  match k with
  | .int _ _ => if decide (k.int? a < k.int? b) = wantMax then b else a
  | .flt fm =>
    if fm.isNan a && fm.isNan b || prop && (fm.isNan a || fm.isNan b) then fm.canonNan
    else if fm.isNan a then b
    else if fm.isNan b then a
    else if decide (fltKey fm a < fltKey fm b) = wantMax then b else a

def execVmin (v : MinVar) (f : LF) (s : State) : Res :=
  ewForm s f tAll true true true false false (fun _ k a b _ => pickElem (v = .prop) false k a b)
def execVmax (v : MinVar) (f : LF) (s : State) : Res :=
  ewForm s f tAll true true true false false (fun _ k a b _ => pickElem (v = .prop) true k a b)
def execVclamp (f : LF) (s : State) : Res :=
  ewForm s f tAll true true true true false (fun _ k a b c => pickElem false false k (pickElem false true k a b) c)
def execVmed3 (f : LF) (s : State) : Res :=
  ewForm s f tAll true true true true false (fun _ k a b c =>
    pickElem false true k (pickElem false false k a b) (pickElem false false k (pickElem false true k a b) c))

/-- VABS and VNEG: exact on integers, the sign bit on floats (R282). -/
def execVabs (f : LF) (s : State) : Res :=
  ewForm s f tAll false false false false false (fun f k a _ _ => match k with
    | .int sg w => intResult sg w f.sat (k.int? a).natAbs
    | .flt fm => fm.mag a)
def execVneg (f : LF) (s : State) : Res :=
  ewForm s f tAll false false false false false (fun f k a _ _ => match k with
    | .int sg w => intResult sg w f.sat (-(k.int? a))
    | .flt fm => fm.signed (!fm.neg a) (fm.mag a))

/-- VSEL copies bits (R277, R278): the predicate is OP[34:32]. -/
def execVsel (f : LF) (s : State) : Res :=
  laneFixed s f ((tyElem f.ty).isSome && bOk f) ([rT f.ty f.vd, rT f.ty f.va] ++ rB f (rT f.ty)) (tyRegs f.ty) (fun s c r l =>
    if c.pRd s.oracle (f.sub % 8) l then opV s c (tyRegs f.ty) f.va l else opBT s c r f f.ty l)

/-- a + c * (b - a), rounded once. -/
def execVlerp (f : LF) (s : State) : Res :=
  ewForm s f ([2] ++ tFP) true true true true false (fun f k a b c =>
    let m := RMode.of f.rnd
    exactResult f k 0 ((k.dec a).add m ((k.dec c).mul ((k.dec b).sub m (k.dec a)))))

/-- c + the sum of absolute differences; c and d are n32. -/
def execVsad (f : LF) (s : State) : Res :=
  laneFixed s f (tIP.contains f.ty && bOk f) ([r1 f.vd, r1 f.va] ++ rB f r1 ++ [r1 f.vc]) 1 (fun s c r l =>
    let k := tyKind f.ty
    let a := opV s c 1 f.va l
    let b := opB s c r f 1 false l
    intResult false 32 f.sat ((List.range (tyCount f.ty)).foldl
      (fun (t : Int) i => t + ((k.int? (elemAt k.w a i) - k.int? (elemAt k.w b i)).natAbs : Nat)) (opV s c 1 f.vc l : Nat)))

/-- VADDC (R283): carry-out p[OP[34:32]], carry-in p[OP[37:35]] when OP[38]. -/
def execVaddc (v : AddcVar) (f : LF) (s : State) : Res :=
  laneForm s f ([1, 9].contains f.ty && bOk f) ([rT f.ty f.vd, rT f.ty f.va] ++ rB f (rT f.ty)) (fun s c r act =>
    let w := 32 * tyRegs f.ty
    let x (l : Nat) : Int :=
      let cin : Int := if bitAt f.sub 6 && c.pRd s.oracle (bits f.sub 5 3) l then 1 else 0
      let a : Int := (opV s c (tyRegs f.ty) f.va l : Nat)
      let b : Int := (opBT s c r f f.ty l : Nat)
      match v with
      | .c => a + b + cin
      | .b => a - b - cin
    let out (l : Nat) : Bool := match v with
      | .c => decide ((2 ^ w : Nat) ≤ x l)
      | .b => decide (x l < 0)
    lDone s ((laneWrite c act (tyRegs f.ty) f.vd (fun l => wrap w (x l))).pWr (f.sub % 8) act out))

/-! ### Comparison and classification (R284, R285) -/

/-- A comparison's outcome from less, equal and unordered. -/
def cmpHolds (k : CmpVar) (lt eq un : Bool) : Bool :=
  match k with
  | .eq => !un && eq | .ne => !un && !eq | .lt => !un && lt | .le => !un && (lt || eq) | .gt => !un && !(lt || eq) | .ge => !un && !lt
  | .ord => !un | .uno => un
  | .ueq => un || eq | .une => un || !eq | .ult => un || lt | .ule => un || lt || eq | .ugt => un || !(lt || eq) | .uge => un || !lt

def cmpElem (v : CmpVar) (k : EKind) (a b : Nat) : Bool :=
  match k with
  | .int _ _ => cmpHolds v (decide (k.int? a < k.int? b)) (decide (k.int? a = k.int? b)) false
  | .flt fm => cmpHolds v ((k.dec a).lt (k.dec b)) ((k.dec a).eq (k.dec b)) (fm.isNan a || fm.isNan b)

/-- Predicates of element 0, and of element 1 of a packed type (R284). -/
def predPair (c : Crew) (f : LF) (act : W32) (val : Nat → Nat → Bool) : Crew :=
  let c1 := c.pWr (f.sub % 8) act (fun l => val 0 l)
  if tyCount f.ty = 2 then c1.pWr (bits f.sub 5 3) act (fun l => val 1 l) else c1

def execVcmp (v : CmpVar) (f : LF) (s : State) : Res :=
  laneForm s f ((tI ++ tF ++ [3, 4, 5, 6]).contains f.ty && bOk f) ([rT f.ty f.va] ++ rB f (rT f.ty)) (fun s c r act =>
    let k := tyKind f.ty
    let on := ftzOn s c f.ty
    lDone s (predPair c f act (fun i l =>
      cmpElem v k (prep on (naB f) k (elemAt k.w (opV s c (tyRegs f.ty) f.va l) i)) (prep on (nbB f) k (elemAt k.w (opBT s c r f f.ty l) i)))))

/-- CLASS (R285): the number of the class bit. -/
def classOf (fm : Fmt) (x : Nat) : Nat :=
  if fm.isNan x then (if bitAt x (fm.fb - 1) then 1 else 0)
  else if fm.isInf x then (if fm.neg x then 2 else 9)
  else if fm.mag x = 0 then (if fm.neg x then 5 else 6)
  else if fm.isSub x then (if fm.neg x then 4 else 7)
  else if fm.neg x then 3 else 8

def execVclass (f : LF) (s : State) : Res :=
  laneForm s f ((tF ++ tFP).contains f.ty && !immB f) [rT f.ty f.va] (fun s c _ act =>
    lDone s (predPair c f act (fun i l => match tyKind f.ty with
      | .flt fm => bitAt (f.low % 1024) (classOf fm (elemAt fm.width (opV s c (tyRegs f.ty) f.va l) i))
      | .int _ _ => false)))

end Sys2Proof.Machine
end

