-- ==== Sys2Proof/Machine/CrossLane.lean ====
section
/-! DEFINITION. Cross-lane forms: shuffles, votes, ballots, reductions, scans, matches, and the predicate logic of one lane
(15 R299 to R303). -/

namespace Sys2Proof.Machine

/-- A source read from any lane of the crew: a lane without a thread reads 0 (R299). -/
def crossV (s : State) (c : Crew) (n reg l : Nat) : Nat := if (tget? c.threads l).isSome then opV s c n reg l else 0

/-- A predicate read from any lane. -/
def crossP (s : State) (c : Crew) (p l : Nat) : Bool := (tget? c.threads l).isSome && c.pRd s.oracle p l

/-! ### Shuffles (R300) -/

inductive ShfKind | l | u | d | x deriving DecidableEq, Repr

def ShfKind.width (w : ShfWidth) : Nat :=
  match w with
  | .w32 => 32 | .w16 => 16 | .w8 => 8 | .w4 => 4

/-- Source lane and whether it is in range. -/
def shfSource (k : ShfKind) (w l b : Nat) : Nat × Bool :=
  let g := l - l % w
  match k with
  | .l => (g + b % w, true)
  | .u => (l - b, decide (b ≤ l % w))
  | .d => (l + b, decide (l % w + b < w))
  | .x => (g + ((l % w) ^^^ (b % w)), true)

def shuffle (k : ShfKind) (v : ShfWidth) (f : LF) (s : State) : Res :=
  laneForm s f (bOk f) ([r1 f.vd, r1 f.va] ++ rB f r1) (fun s c r act =>
    let src (l : Nat) : Nat × Bool := shfSource k (ShfKind.width v) l (opB s c r f 1 false l)
    longDone s c act
      (laneDest act 1 f.vd (fun l => if (src l).2 then crossV s c 1 f.va (src l).1 else opV s c 1 f.va l))
      (predDest act (f.sub % 8) (fun l => (src l).2)) false)

def execVshfl (v : ShfWidth) (f : LF) (s : State) : Res := shuffle .l v f s
def execVshfu (v : ShfWidth) (f : LF) (s : State) : Res := shuffle .u v f s
def execVshfd (v : ShfWidth) (f : LF) (s : State) : Res := shuffle .d v f s
def execVshfx (v : ShfWidth) (f : LF) (s : State) : Res := shuffle .x v f s

/-! ### Votes, ballots, predicate logic (R301) -/

def execVvote (v : VoteVar) (f : LF) (s : State) : Res :=
  laneForm s f true [] (fun s c _ act =>
    let ps := (lanesOf act).map (crossP s c (bits f.sub 5 3))
    let x := match v with
      | .all => ps.all (fun b => b)
      | .any => ps.any (fun b => b)
      | .uni => ps.all (fun b => b) || ps.all (fun b => !b)
    longDone s c act [] (predDest act (f.sub % 8) (fun _ => x)) false)

def execVbal (f : LF) (s : State) : Res :=
  laneForm s f true [r1 f.vd] (fun s c _ act =>
    let m := maskOf (fun l => act.getLsbD l && crossP s c (bits f.sub 5 3) l)
    longDone s c act (laneDest act 1 f.vd (fun _ => m.toNat)) [] false)

def plog (v : PlogVar) (a b : Bool) : Bool :=
  match v with
  | .and => a && b | .or => a || b | .xor => a != b | .andn => a && !b | .orn => a || !b | .xnor => a == b
  | .nand => !(a && b) | .nor => !(a || b)
def execVplog (v : PlogVar) (f : LF) (s : State) : Res :=
  laneForm s f true [] (fun s c _ act =>
    lDone s (c.pWr (f.sub % 8) act (fun l => plog v (c.pRd s.oracle (f.va % 8) l) (c.pRd s.oracle (f.vb % 8) l))))

def execVpmov (v : PmovVar) (f : LF) (s : State) : Res :=
  match v with
  | .tov => laneFixed s f true [r1 f.vd] 1 (fun s c _ l => packElems 1 8 (fun n => if c.pRd s.oracle n l then 1 else 0))
  | .fromv => laneForm s f true [r1 f.va] (fun s c _ act =>
      lDone s ((List.range 7).foldl (fun (c' : Crew) n => c'.pWr n act (fun l => bitAt (opV s c 1 f.va l) n)) c))

/-! ### Reductions and scans (R302) -/

/-- The types an operation takes. -/
def redTypes (op : RedOp) : List Nat :=
  match op with
  | .add | .min | .max => tI ++ tF
  | .and | .or | .xor => tI

/-- What combining nothing gives. -/
def redIdentity (op : RedOp) (k : EKind) : Nat :=
  match op, k with
  | .min, .int sg w => if sg then 2 ^ (w - 1) - 1 else 2 ^ w - 1
  | .max, .int sg w => if sg then 2 ^ (w - 1) else 0
  | .min, .flt fm => fm.maxMag + 1
  | .max, .flt fm => fm.signed true (fm.maxMag + 1)
  | .and, _ => 2 ^ k.w - 1
  | _, _ => 0

/-- The combination of the operands of the lanes up to one lane, in ascending order. -/
def redPrefix (op : RedOp) (k : EKind) (on : Bool) (mode : RMode) (sat : Bool) (xs : List Nat) : Nat :=
  match xs with
  | [] => redIdentity op k
  | x :: rest =>
    match op with
    | .add => match k with
      | .int sg w => intResult sg w sat (xs.foldl (fun (t : Int) y => t + k.int? y) 0)
      | .flt fm => ftz on fm (sumAsc (xs.map k.dec) fm mode sat)
    | .min => rest.foldl (fun a y => pickElem false false k a y) (pickElem false false k x x)
    | .max => rest.foldl (fun a y => pickElem false true k a y) (pickElem false true k x x)
    | .and => rest.foldl (fun a y => a &&& y) x
    | .or => rest.foldl (fun a y => a ||| y) x
    | .xor => rest.foldl (fun a y => a ^^^ y) x

/-- The operands of a list of lanes. -/
def redArgs (s : State) (c : Crew) (f : LF) (ls : List Nat) : List Nat :=
  ls.map (fun l => prep (ftzOn s c f.ty) false (tyKind f.ty) (crossV s c (tyRegs f.ty) f.va l))

/-- VRED and VSCAN: `upto` gives the lanes a lane's result combines. -/
def reduce (op : RedOp) (f : LF) (s : State) (upto : W32 → Nat → List Nat) : Res :=
  laneForm s f ((redTypes op).contains f.ty) [rT f.ty f.vd, rT f.ty f.va] (fun s c _ act =>
    longDone s c act (laneDest act (tyRegs f.ty) f.vd (fun l =>
      redPrefix op (tyKind f.ty) (ftzOn s c f.ty) (RMode.of f.rnd) f.sat (redArgs s c f (upto act l)))) [] false)

def execVred (op : RedOp) (f : LF) (s : State) : Res := reduce op f s (fun act _ => lanesOf act)
def execVscanInc (op : RedOp) (f : LF) (s : State) : Res := reduce op f s (fun act l => (lanesOf act).filter (fun j => decide (j ≤ l)))
def execVscanExc (op : RedOp) (f : LF) (s : State) : Res := reduce op f s (fun act l => (lanesOf act).filter (fun j => decide (j < l)))

/-- VMATCH (R303). -/
def execVmatch (f : LF) (s : State) : Res :=
  laneForm s f (tI.contains f.ty) [r1 f.vd, rT f.ty f.va] (fun s c _ act =>
    longDone s c act (laneDest act 1 f.vd (fun l =>
      (maskOf (fun j => act.getLsbD j && crossV s c (tyRegs f.ty) f.va j = crossV s c (tyRegs f.ty) f.va l)).toNat)) [] false)

end Sys2Proof.Machine
end

