-- ==== Sys2Proof/Machine/LaneBits.lean ====
section
/-! DEFINITION. Bit operations and moves of the lanes (15 R286 to R288, R298). -/

namespace Sys2Proof.Machine

/-- A 32-bit bitwise form without a type; `c` whether operand c is read. -/
def bitForm (s : State) (f : LF) (useA useC : Bool) (op : Nat → Nat → Nat → Nat) : Res :=
  laneFixed s f (bOk f) ([r1 f.vd] ++ (if useA then [r1 f.va] else []) ++ rB f r1 ++ (if useC then [r1 f.vc] else [])) 1 (fun s c r l =>
    op (if useA then opV s c 1 f.va l else 0) (opB s c r f 1 false l) (if useC then opV s c 1 f.vc l else 0))

def execVand (f : LF) (s : State) : Res := bitForm s f true false (fun a b _ => a &&& b)
def execVor (f : LF) (s : State) : Res := bitForm s f true false (fun a b _ => a ||| b)
def execVxor (f : LF) (s : State) : Res := bitForm s f true false (fun a b _ => a ^^^ b)
def execVnot (f : LF) (s : State) : Res := bitForm s f false false (fun _ b _ => 2 ^ 32 - 1 - b % 2 ^ 32)

/-- The truth table of VLOP3, bit by bit. -/
def lop3 (table a b c : Nat) : Nat :=
  packElems 1 32 (fun j => if bitAt table (4 * elemAt 1 a j + 2 * elemAt 1 b j + elemAt 1 c j) then 1 else 0)

/-- VLOP3 and VPRMT use LOW themselves: IMMB = 1 is undefined (R286). -/
def execVlop3 (f : LF) (s : State) : Res :=
  laneFixed s f (!immB f) ([r1 f.vd, r1 f.va] ++ rB f r1 ++ [r1 f.vc]) 1 (fun s c r l =>
    lop3 (f.low % 256) (opV s c 1 f.va l) (opB s c r f 1 false l) (opV s c 1 f.vc l))

/-- A shift by b_i mod w; the count of a 64-bit type is one register (R286). -/
def shiftForm (s : State) (f : LF) (op : Nat → Nat → Nat → Nat) : Res :=
  laneFixed s f ([0, 1, 5, 6, 8, 9].contains f.ty && bOk f) ([rT f.ty f.vd, rT f.ty f.va] ++ rB f r1) (tyRegs f.ty) (fun s c r l =>
    let w := (tyKind f.ty).w
    let a := opV s c (tyRegs f.ty) f.va l
    let b := opB s c r f 1 false l
    packElems w (tyCount f.ty) (fun i => op w (elemAt w a i) ((if tyCount f.ty = 1 then b else elemAt w b i) % w)))

def execVshl (f : LF) (s : State) : Res := shiftForm s f (fun _ a n => a * 2 ^ n)
def execVshr (f : LF) (s : State) : Res := shiftForm s f (fun _ a n => a / 2 ^ n)
def execVsra (f : LF) (s : State) : Res := shiftForm s f (fun w a n => wrap w (sgn w a / 2 ^ n))

/-- VBFE (R287). -/
def bfe (signed : Bool) (w a b : Nat) : Nat :=
  let off := b % 256
  let wid := b / 256 % 256
  if wid = 0 || w ≤ off then 0
  else
    let top := min (off + wid) w - 1
    let x := bits a top off
    if signed then wrap w (sgn (top - off + 1) x) else x

/-- VBFI (R287). -/
def bfi (w a b c : Nat) : Nat :=
  let off := b % 256
  let wid := b / 256 % 256
  packElems 1 w (fun j => if off ≤ j && decide (j < off + wid) then elemAt 1 c (j - off) else elemAt 1 a j)

def execVbfe (f : LF) (s : State) : Res :=
  laneFixed s f (tI.contains f.ty && bOk f) ([rT f.ty f.vd, rT f.ty f.va] ++ rB f r1) (tyRegs f.ty) (fun s c r l =>
    bfe (f.ty = 0 || f.ty = 8) (32 * tyRegs f.ty) (opV s c (tyRegs f.ty) f.va l) (opB s c r f 1 false l))
def execVbfi (f : LF) (s : State) : Res :=
  laneFixed s f (tI.contains f.ty && bOk f) ([rT f.ty f.vd, rT f.ty f.va] ++ rB f r1 ++ [rT f.ty f.vc]) (tyRegs f.ty) (fun s c r l =>
    bfi (32 * tyRegs f.ty) (opV s c (tyRegs f.ty) f.va l) (opB s c r f 1 false l) (opV s c (tyRegs f.ty) f.vc l))

/-- A count of bits of a: one register (R286). -/
def countForm (s : State) (f : LF) (op : Nat → Nat → Nat) : Res :=
  laneFixed s f (tI.contains f.ty) [r1 f.vd, rT f.ty f.va] 1 (fun s c _ l => op (32 * tyRegs f.ty) (opV s c (tyRegs f.ty) f.va l))

/-- Bits below the sign bit that equal it. -/
def clSign (w x : Nat) : Nat := if x.testBit (w - 1) then clz (w - 1) (2 ^ w - 1 - x) else clz (w - 1) x

def execVpopc (f : LF) (s : State) : Res := countForm s f popc
def execVclz (v : ClzVar) (f : LF) (s : State) : Res :=
  countForm s f (match v with
    | .zero => clz
    | .sign => clSign)
def execVbrev (f : LF) (s : State) : Res :=
  laneFixed s f (tI.contains f.ty) [rT f.ty f.vd, rT f.ty f.va] (tyRegs f.ty) (fun s c _ l =>
    brev (32 * tyRegs f.ty) (opV s c (tyRegs f.ty) f.va l))

/-- VPRMT (R288). -/
def prmt (a b sel : Nat) : Nat :=
  packElems 8 4 (fun k =>
    let nib := elemAt 4 sel k
    let x := elemAt 8 (a % 2 ^ 32 + b % 2 ^ 32 * 2 ^ 32) (nib % 8)
    if bitAt nib 3 then (if bitAt x 7 then 255 else 0) else x)
def execVprmt (f : LF) (s : State) : Res :=
  laneFixed s f (!immB f) ([r1 f.vd, r1 f.va] ++ rB f r1) 1 (fun s c r l =>
    prmt (opV s c 1 f.va l) (opB s c r f 1 false l) (f.low % 65536))

/-! ### Moves (R298) -/

def execVmov (f : LF) (s : State) : Res :=
  laneFixed s f (tyElem f.ty).isSome [rT f.ty f.vd, rT f.ty f.va] (tyRegs f.ty) (fun s c _ l => opV s c (tyRegs f.ty) f.va l)
def execVmovi (f : LF) (s : State) : Res :=
  laneFixed s f (tyElem f.ty).isSome [rT f.ty f.vd] (tyRegs f.ty) (fun _ _ _ _ =>
    if ty64 f.ty && f.ty ≠ 9 then wrap 64 (sgn 32 f.low) else f.low)
def execVmovs (f : LF) (s : State) : Res :=
  laneFixed s f (tyElem f.ty).isSome [rT f.ty f.vd] (tyRegs f.ty) (fun s _ r l =>
    (lrunS s.oracle r (f.va % 64) l).toNat % 2 ^ (32 * tyRegs f.ty))

end Sys2Proof.Machine
end

