-- ==== Sys2Proof/Machine/Trav.lean ====
section
/-! DEFINITION. Traversal of bounding volumes (10 R186 to R193; 17 R337, R340): exact geometry over scaled integers, the walk in an
order the device chooses, the hit record. -/

namespace Sys2Proof.Machine

/-! ### Exact geometry (R188, R191) -/

/-- A finite FP32 value times 2^149. -/
def f32Scaled (x : Nat) : Int :=
  let me := Fmt.f32.me (Fmt.f32.mag x)
  let n : Int := (me.1 * 2 ^ (me.2 + 149).toNat : Nat)
  if Fmt.f32.neg x then -n else n

/-- The encoding is neither NaN nor infinite. -/
def f32Finite (x : Nat) : Bool := !Fmt.f32.isNan x && !Fmt.f32.isInf x

/-- A point or a direction, scaled by 2^149. -/
structure V3 where
  x : Int
  y : Int
  z : Int
deriving DecidableEq, Repr

def V3.ofF32 (w : List Nat) : V3 := ⟨f32Scaled (w.getD 0 0), f32Scaled (w.getD 1 0), f32Scaled (w.getD 2 0)⟩
def V3.sub (a b : V3) : V3 := ⟨a.x - b.x, a.y - b.y, a.z - b.z⟩
def V3.dot (a b : V3) : Int := a.x * b.x + a.y * b.y + a.z * b.z
def V3.cross (a b : V3) : V3 := ⟨a.y * b.z - a.z * b.y, a.z * b.x - a.x * b.z, a.x * b.y - a.y * b.x⟩
def V3.get (a : V3) (i : Nat) : Int := if i = 0 then a.x else if i = 1 then a.y else a.z

/-- n / d as an exact value; zero is +0. -/
def exFrac (n d : Int) : Ex := .num (n ≠ 0 && (decide (n < 0) != decide (d < 0))) n.natAbs d.natAbs

def Ex.maxOf (a b : Ex) : Ex := if a.lt b then b else a
def Ex.minOf (a b : Ex) : Ex := if b.lt a then b else a
def Ex.le (a b : Ex) : Bool := a.lt b || a.eq b

/-- A ray: origin, direction, tmin and tmax as FP32 encodings. -/
structure Ray where
  o : List Nat
  d : List Nat
  tmin : Nat
  tmax : Nat
deriving DecidableEq, Repr

/-- The ray can hit something: no NaN, a finite line, a direction that is not zero (R191). -/
def Ray.live (r : Ray) : Bool :=
  (r.o ++ r.d).all f32Finite && !Fmt.f32.isNan r.tmin && !Fmt.f32.isNan r.tmax && r.d.any (fun x => Fmt.f32.mag x ≠ 0)

/-- Cuts the interval [lo, hi] to the t with c0 + t c1 ≥ 0. -/
def cutHalf (c0 c1 : Int) (iv : Option (Ex × Ex)) : Option (Ex × Ex) :=
  iv.bind (fun (lo, hi) =>
    if c1 = 0 then (if 0 ≤ c0 then some (lo, hi) else none)
    else if 0 < c1 then some (lo.maxOf (exFrac (-c0) c1), hi)
    else some (lo, hi.minOf (exFrac c0 (-c1))))

/-- t, u, v where the ray meets the closed triangle within [tmin, tmax], and the sign of the triangle's normal along the ray (R191). A ray in the
triangle's plane meets it first at the nearest point; a triangle without area is never met. -/
def triHit (r : Ray) (a b c : V3) : Option (Ex × Ex × Ex × Int) :=
  let o := V3.ofF32 r.o
  let d := V3.ofF32 r.d
  let e1 := b.sub a
  let e2 := c.sub a
  let n := e1.cross e2
  let tmin := Fmt.f32.dec r.tmin
  let tmax := Fmt.f32.dec r.tmax
  let p := d.cross e2
  let det := e1.dot p
  let w := o.sub a
  if n = ⟨0, 0, 0⟩ then none
  else if det ≠ 0 then
    let sg : Int := if det < 0 then -1 else 1
    let q := w.cross e1
    let u := sg * w.dot p
    let v := sg * d.dot q
    let t := exFrac (e2.dot q) det
    if 0 ≤ u && 0 ≤ v && decide (u + v ≤ sg * det) && tmin.le t && t.le tmax then
      some (t, exFrac u (sg * det), exFrac v (sg * det), d.dot n)
    else none
  else if w.dot n ≠ 0 then none
  else
    let nn := n.dot n
    let u0 := (w.cross e2).dot n
    let u1 := (d.cross e2).dot n
    let v0 := (e1.cross w).dot n
    let v1 := (e1.cross d).dot n
    match cutHalf (nn - u0 - v0) (-u1 - v1) (cutHalf v0 v1 (cutHalf u0 u1 (some (tmin, tmax)))) with
    | none => none
    | some (lo, hi) =>
      if lo.le hi then
        let at_ (c0 c1 : Int) : Ex := ((Ex.ofInt c0).add .rne (lo.mul (Ex.ofInt c1))).div (Ex.ofInt nn)
        some (lo, at_ u0 u1, at_ v0 v1, 0)
      else none

/-- The ray's segment meets the closed box (R188). -/
def boxMet (r : Ray) (lo hi : V3) : Bool :=
  let o := V3.ofF32 r.o
  let d := V3.ofF32 r.d
  match (List.range 3).foldl (fun iv i => cutHalf (hi.get i - o.get i) (-(d.get i)) (cutHalf (o.get i - lo.get i) (d.get i) iv))
    (some (Fmt.f32.dec r.tmin, Fmt.f32.dec r.tmax)) with
  | some (a, b) => a.le b
  | none => false

/-- The ray carried into an instance's object space (R191); m holds the matrix's twelve encodings. -/
def Ray.carry (r : Ray) (m : List Nat) : Ray :=
  let d (x : Nat) : Ex := Fmt.f32.dec x
  let row (v : List Nat) (c : Nat) : List Ex := (List.range 3).map (fun i => (d (m.getD (4 * c + i) 0)).mul (d (v.getD i 0)))
  { r with
    o := (List.range 3).map (fun c => sumAsc (row r.o c ++ [d (m.getD (4 * c + 3) 0)]) .f32 .rne false)
    d := (List.range 3).map (fun c => sumAsc (row r.d c) .f32 .rne false) }

/-! ### Reading the structure (R193) -/

/-- n bytes of the structure for a ray, and whether some line is poisoned: each 8-byte word holds one value permitted to a read placed at the issue
of the TRAV, however often the walk reads it. -/
def State.travRead (s : State) (ctx : Nat) (place : Ev) (va n : Nat) : Except AccFault (State × List Byte × Bool) :=
  match s.access ctx .engine va n with
  | .error f => .error f
  | .ok ps =>
    let bs := s.bytesWith ctx .glb va (fun i => (va + i) / 8 + 1) ((paList ps).map Loc.mem)
    let seen (s : State) (key : Nat) : Option Nat :=
      (s.evs.find? (fun (e : Ev) => e.ins = s.oracle && e.thr = place.thr && e.reads key)).map (fun (e : Ev) => e.id)
    let t := (s.readAt { place with ins := s.oracle } Sync.plain (bs.filter (fun b => (seen s b.key).isNone))).1
    .ok (t, bs.map (fun b => (seen t b.key).elim 0 (fun i => t.gotten i b.key)), s.touchesPoison ps)

/-- Words of 4 bytes. -/
def words4 (bs : List Byte) (off n : Nat) : List Nat := (List.range n).map (fun i => fld bs (off + 4 * i) 4)

/-- A BVH descriptor (R186): NODES, TRIS, INSTS, LEVEL, and whether byte 31 and LEVEL are as they must be. -/
def bvhDesc (bs : List Byte) : Nat × Nat × Nat × Nat × Bool :=
  (fld bs 0 9, fld bs 10 9, fld bs 20 9, fld bs 30 1, fld bs 31 1 = 0 && decide (fld bs 30 1 ≤ 1))

/-- The structure a ray is in: the arrays, the level, the instance, the ray as carried into it. -/
structure BvhFrame where
  nodes : Nat
  tris : Nat
  insts : Nat
  level : Nat
  inst : Nat
  ray : Ray
deriving DecidableEq, Repr

/-- What the walk has yet to read. -/
inductive TravTask where
  | node (f : BvhFrame) (j : Nat)
  | tri (f : BvhFrame) (i : Nat)
  | inst (f : BvhFrame) (i : Nat)
deriving DecidableEq, Repr

/-- A hit of the ray. -/
structure RayHit where
  t : Ex
  u : Ex
  v : Ex
  prim : Nat
  key : Nat
  inst : Nat
deriving DecidableEq, Repr

/-- The walk of one ray: nodes and instances met, the best hit, MALFORMED, poison, and what it has yet to read. -/
structure Walk where
  met : Nat
  best : Option RayHit
  malformed : Bool
  poison : Bool
  todo : List TravTask
deriving DecidableEq, Repr

/-- A hit comes before another: nearer, or of the lower key (R191). -/
def RayHit.before (a b : RayHit) : Bool := a.t.lt b.t || (a.t.eq b.t && decide (a.inst * 2 ^ 32 + a.prim < b.inst * 2 ^ 32 + b.prim))

/-- The children of a node (R187, R188): the tasks of those entered, and whether one is malformed. A child whose box the segment misses may be
entered too. -/
def nodeTasks (o idx : Nat) (f : BvhFrame) (bs : List Byte) : List TravTask × Bool :=
  let org := words4 bs 0 3
  let child (i : Nat) : List TravTask × Bool :=
    let b := fld bs (16 + i) 1
    let ty := b / 32
    let cnt := b % 32
    let off := fld bs (80 + 4 * i) 4
    let inner := fld bs 24 4 + off
    let leaf := fld bs 28 4 + off
    let isInner := bitAt (fld bs 15 1) i
    let bad := decide (3 < ty) || (ty = 3 && f.level = 0) || ((ty = 2 || ty = 3) && cnt = 0) || (isInner != (ty = 1))
      || (ty = 1 && decide (2 ^ 32 ≤ inner)) || ((ty = 2 || ty = 3) && decide (2 ^ 32 ≤ leaf + (cnt - 1)))
    if bad then ([], true)
    else if ty = 0 then ([], false)
    else
      let q (k : Nat) : Nat := fld bs (32 + 6 * i + k) 1
      let plane (a k : Nat) : Int := f32Scaled (org.getD a 0) + (q k : Int) * (2 ^ (sgn 8 (fld bs (12 + a) 1) + 149).toNat : Nat)
      let at_ (base : Nat) : V3 := ⟨plane 0 base, plane 1 (base + 1), plane 2 (base + 2)⟩
      let never := (List.range 3).any (fun a => decide (q (a + 3) < q a))
      let met := f.ray.live && org.all f32Finite && boxMet f.ray (at_ 0) (at_ 3)
      if never || !(met || Config.free o 21 (8 * idx + i) % 2 = 1) then ([], false)
      else if ty = 1 then ([.node f inner], false)
      else ((List.range cnt).map (fun k => if ty = 2 then .tri f (leaf + k) else .inst f (leaf + k)), false)
  let cs := (List.range 8).map child
  (cs.flatMap (fun c => c.1), cs.any (fun c => c.2))

/-- One read of the walk. -/
def walkStep (s : State) (ctx : Nat) (place : Ev) (idx : Nat) (anyHit cullb : Bool) (rmask : Nat) (w : Walk) (t : TravTask) : Except AccFault (State × Walk) :=
  match t with
  | .node f j =>
    match s.travRead ctx place ((f.nodes + 128 * j) % 2 ^ 72) 128 with
    | .error x => .error x
    | .ok (s, bs, p) =>
      let ch := nodeTasks s.oracle idx f bs
      .ok (s, { w with met := w.met + 1, malformed := w.malformed || ch.2, poison := w.poison || p, todo := w.todo ++ ch.1 })
  | .tri f i =>
    match s.travRead ctx place ((f.tris + 48 * i) % 2 ^ 72) 48 with
    | .error x => .error x
    | .ok (s, bs, p) =>
      let w := { w with poison := w.poison || p }
      let vs := words4 bs 0 9
      if !f.ray.live || !vs.all f32Finite then .ok (s, w)
      else match triHit f.ray (V3.ofF32 vs) (V3.ofF32 (vs.drop 3)) (V3.ofF32 (vs.drop 6)) with
        | none => .ok (s, w)
        | some (t, u, v, side) =>
          let h : RayHit := { t := t, u := u, v := v, prim := fld bs 36 4, key := fld bs 40 2, inst := f.inst }
          if cullb && decide (0 < side) then .ok (s, w)
          else .ok (s, { w with best := match w.best with
            | none => some h
            | some b => if !anyHit && h.before b then some h else some b })
  | .inst f i =>
    match s.travRead ctx place ((f.insts + 64 * i) % 2 ^ 72) 64 with
    | .error x => .error x
    | .ok (s, bs, p) =>
      let w := { w with met := w.met + 1, poison := w.poison || p }
      if fld bs 60 1 &&& rmask = 0 then .ok (s, w)
      else if fld bs 48 9 % 32 ≠ 0 then .ok (s, { w with malformed := true })
      else match s.travRead ctx place (fld bs 48 9) 32 with
        | .error x => .error x
        | .ok (s, ds, p2) =>
          let d := bvhDesc ds
          let w := { w with poison := w.poison || p2 }
          if d.2.2.2.1 ≠ 0 || !d.2.2.2.2 then .ok (s, { w with malformed := true })
          else
            let g : BvhFrame := { nodes := d.1, tris := d.2.1, insts := d.2.2.1, level := 0, inst := fld bs 58 2 % 4096,
                                  ray := f.ray.carry (words4 bs 0 12) }
            .ok (s, { w with todo := w.todo ++ [.node g 0] })

/-- The task counts towards the 4,096 of R337. -/
def TravTask.counts : TravTask → Bool
  | .tri _ _ => false
  | _ => true

/-- The walk of one ray, task by task in an order the device chooses; it ends when nothing is left, when any hit will do and one is
found, or past 4,096 nodes (R337). -/
def walkRay (ctx : Nat) (place : Ev) (lane : Nat) (anyHit cullb : Bool) (rmask : Nat) : Nat → State → Walk → Except AccFault (State × Walk)
  | 0, s, w => .ok (s, w)
  | fuel + 1, s, w =>
    match w.todo with
    | [] => .ok (s, w)
    | t0 :: _ =>
      if anyHit && w.best.isSome then .ok (s, w)
      else
        let idx := lane * 2 ^ 32 + fuel
        let k := if w.todo.length = 1 then 0 else Config.free s.oracle 22 idx % w.todo.length
        let t := w.todo.getD k t0
        if t.counts && decide (4096 ≤ w.met) then .ok (s, { w with malformed := true, todo := [] })
        else match walkStep s ctx place idx anyHit cullb rmask { w with todo := w.todo.eraseIdx k } t with
          | .error x => .error x
          | .ok (s', w') => walkRay ctx place lane anyHit cullb rmask fuel s' w'

/-- Tasks of 4,096 nodes with every leaf full. -/
def walkFuel : Nat := 1048576

/-- The hit record's registers (R192). -/
def Walk.record (w : Walk) (i : Nat) : W32 :=
  match w.best with
  | none => missRecord w.malformed i
  | some h =>
    BitVec.ofNat 32 (match i with
      | 0 => rne32 h.t
      | 1 => h.prim
      | 2 => h.key + h.inst * 2 ^ 16 + 2 ^ 28 + (if w.malformed then 2 ^ 29 else 0)
      | 3 => rne32 h.u
      | _ => rne32 h.v)

/-! ### TRAV (R337) -/

def execTrav (f : LF) (s : State) : Res :=
  let pcnt := bits f.low 15 8
  let level := bits f.low 19 16
  runL s f (fun s c => [(decide (pcnt ≤ 64), Trap.illegal), (regsOk s c [⟨f.va, 8, false⟩, ⟨f.vd, 5, false⟩], Trap.illegal)]) (fun s c r act =>
    if act = 0 then lDone s c
    else if (s.kernOf c).rdepth < level then .trap { Trap.plain 8 with lanes := act }
    else if (s.kernOf c).payload < pcnt then .trap { Trap.plain 9 with lanes := act }
    else
      let a := ea (lrunB r (bits f.low 31 28)) (soff (lrunS s.oracle r (bits f.low 27 22)))
      if a % 32 ≠ 0 then .trap (Trap.align .engine a act)
      else match s.access (s.ctxOf c) .engine a 32 with
        | .error x => .trap (Trap.access .engine x act)
        | .ok ps =>
          let rd := s.readRanges (s.place c act .l r.since) (s.ctxOf c) true [(a, 32)]
          let d := bvhDesc (rd.2.flatten.flatMap rd.1.returned)
          if s.touchesPoison ps then .trap (poisonTrap (s.coreOf c))
          else if !d.2.2.2.2 then .trap (Trap.perm .engine a act)
          else if s.engineFull .traversal (engineUnit .traversal (s.coreOf c)) || c.tableFull .l then lStall s c
          else
            let rays := (lanesOf act).map (fun l => (l, (List.range 8).map (fun i => c.vRd s.oracle (f.va + i) l)))
            .done (rd.1.post c r .traversal (.trav f.vd rays d.1 d.2.1 d.2.2.1 d.2.2.2.1 (f.sub % 256) (bitAt f.low 21) (bitAt f.low 20))
              act true (destBlock f.vd 5 act (fun _ _ => 0)) (guardField f)))

/-- The traversal that the core's unit serves next (R324) ends: every ray's record is written; a failing page holds the command (R193). -/
def execTravComplete (id : Nat) (s : State) : Res :=
  match s.cmds.find? (fun k => k.id = id) with
  | none => fin s
  | some k =>
    match k.op with
    | .trav vd rays nodes tris insts level rmask anyHit cullb =>
      if !s.nextFor k (s.ageLimit (k.unit / 4)) (fun _ => true) then fin s
      else
        let one (p : Except AccFault (State × List (Nat × Walk))) (e : Nat × List W32) : Except AccFault (State × List (Nat × Walk)) :=
          let w (i : Nat) : Nat := (e.2.getD i 0).toNat
          let ray : Ray := { o := [w 0, w 1, w 2], d := [w 3, w 4, w 5], tmin := w 6, tmax := w 7 }
          let f : BvhFrame := { nodes := nodes, tris := tris, insts := insts, level := level, inst := 0xFFF, ray := ray }
          match p with
          | .error x => .error x
          | .ok (s, out) =>
            match walkRay k.ctx (k.placeOf s e.1) e.1 anyHit cullb rmask walkFuel s
                { met := 0, best := none, malformed := false, poison := false, todo := [.node f 0] } with
            | .error x => .error x
            | .ok (s, r) => .ok (s, out ++ [(e.1, r)])
        match rays.foldl one (.ok (s, [])) with
        | .error x => fin (s.holdCmd k x)
        | .ok (s, ws) =>
          if ws.any (fun x => x.2.poison) then fin (s.poisonCmd k)
          else
            let vs := destBlock vd 5 k.act (fun i l => (ws.find? (fun x => x.1 = l)).elim 0 (fun x => x.2.record i))
            fin (((s.countFor k.cid k.ctx 12 rays.length).returnPend k.cid k.pid vs).dropCmd k)
    | _ => fin s

end Sys2Proof.Machine
end

