-- ==== Sys2Proof/Machine/Rast.lean ====
section
/-! DEFINITION. Rasterisers (10 R178 to R185; 17 R338): submission, one triangle of one view, the return. -/

namespace Sys2Proof.Machine

/-! ### The raster target (R178, R179) -/

/-- A raster target descriptor. -/
structure RasterTarget where
  vbuf : Nat
  head : Nat
  frag : Nat
  width : Nat
  height : Nat
  slog : Nat
  views : Nat
  fragCap : Nat
  cullBack : Bool
  frontCw : Bool
deriving DecidableEq, Repr

/-- The descriptor of bytes 0 to 63, and whether it keeps every "must" and limit. -/
def rasterTarget (bs : List Byte) : RasterTarget × Bool :=
  let t : RasterTarget :=
    { vbuf := fld bs 0 9, head := fld bs 10 9, frag := fld bs 20 9, width := fld bs 30 2, height := fld bs 32 2, slog := fld bs 34 1,
      views := fld bs 35 1, fragCap := fld bs 36 4, cullBack := bitAt (fld bs 48 1) 0, frontCw := bitAt (fld bs 48 1) 1 }
  (t, [fld bs 9 1, fld bs 19 1, fld bs 29 1, fld bs 48 1 / 4, fld bs 49 15].all (fun x => x = 0)
    && [t.vbuf, t.head, t.frag].all (fun x => x % 128 = 0) && decide (1 ≤ t.width) && decide (t.width ≤ 8192) && decide (1 ≤ t.height)
    && decide (t.height ≤ 8192) && decide (t.slog ≤ 3) && decide (1 ≤ t.views) && decide (t.views ≤ 8) && decide (t.fragCap ≤ 0xFFFFFF))

/-- Sample positions in sixteenths of a pixel (R179). -/
def samplePos (slog s : Nat) : Nat × Nat :=
  (match slog with
    | 0 => [(8, 8)]
    | 1 => [(4, 4), (12, 12)]
    | 2 => [(6, 2), (14, 6), (2, 10), (10, 14)]
    | _ => [(9, 5), (7, 11), (13, 9), (5, 3), (3, 13), (1, 7), (11, 15), (15, 1)]).getD s (8, 8)

/-! ### One triangle in one view (R181, R182) -/

/-- A vertex on the screen: snapped coordinates in 1/256 pixel and Z. -/
structure ScreenVertex where
  x : Int
  y : Int
  z : Ex
deriving DecidableEq, Repr

/-- A vertex by the view matrix; none when it discards the triangle. -/
def screenVertex (t : RasterTarget) (m : List Nat) (v : List Nat) : Option ScreenVertex :=
  let d (x : Nat) : Ex := Fmt.f32.dec x
  let clip := (List.range 4).map (fun c =>
    sumAsc ((List.range 3).map (fun j => (d (m.getD (4 * c + j) 0)).mul (d (v.getD j 0))) ++ [d (m.getD (4 * c + 3) 0)]) .f32 .rne false)
  let w := d (clip.getD 3 0)
  if !clip.all f32Finite || !(Ex.num false 0 1).lt w then none
  else
    let ndc (c : Nat) : Ex := d (rne32 ((d (clip.getD c 0)).div w))
    let one : Ex := Ex.ofInt 1
    let snap (e : Ex) (n : Nat) : Option Int := (roundInt .rne (e.mul (Ex.ofInt (n * 128 : Nat)))).filter (fun i => decide (-(2 ^ 23) ≤ i) && decide (i < 2 ^ 23))
    match snap ((ndc 0).add .rne one) t.width, snap (one.sub .rne (ndc 1)) t.height with
    | some x, some y => some ⟨x, y, ndc 2⟩
    | _, _ => none

/-- Twice the signed area of a, b, p; positive when they turn clockwise on the screen, whose y goes down. -/
def edge (ax ay bx b_y px py : Int) : Int := (bx - ax) * (py - ay) - (b_y - ay) * (px - ax)

/-- The edge from a to b, with c the third vertex, is a top edge or a left edge. -/
def topLeft (a b c : ScreenVertex) : Bool :=
  if a.y = b.y then decide (a.y < c.y)
  else
    let u := if a.y < b.y then a else b
    let l := if a.y < b.y then b else a
    decide (edge u.x u.y l.x l.y c.x c.y < 0)

/-- The depth of a sample position that the triangle covers; the vertices turn clockwise. -/
def coverAt (a b c : ScreenVertex) (px py : Int) : Option Nat :=
  let area := edge a.x a.y b.x b.y c.x c.y
  let ea := edge b.x b.y c.x c.y px py
  let eb := edge c.x c.y a.x a.y px py
  let ec := edge a.x a.y b.x b.y px py
  let onTop := (ea = 0 && topLeft b c a) || (eb = 0 && topLeft c a b) || (ec = 0 && topLeft a b c)
  if decide (ea < 0) || decide (eb < 0) || decide (ec < 0) then none
  else if (ea = 0 || eb = 0 || ec = 0) && !onTop then none
  else
    let d := rne32 ((((exFrac ea area).mul a.z).add .rne ((exFrac eb area).mul b.z)).add .rne ((exFrac ec area).mul c.z))
    if Fmt.f32.isNan d || (Fmt.f32.dec d).lt (Ex.ofInt 0) || (Ex.ofInt 1).lt (Fmt.f32.dec d) then none else some d

/-- Least and greatest of three. -/
def min3 (a b c : Int) : Int := min a (min b c)
def max3 (a b c : Int) : Int := max a (max b c)

/-- The covered samples, pixel by pixel: x, y, and the samples with their depths. -/
def coverage (t : RasterTarget) (m : List Nat) (vs : List Nat) : List (Nat × Nat × List (Nat × Nat)) :=
  match screenVertex t m vs, screenVertex t m (vs.drop 3), screenVertex t m (vs.drop 6) with
  | some a, some b, some c =>
    let area := edge a.x a.y b.x b.y c.x c.y
    let cw := decide (0 < area)
    if area = 0 || (t.cullBack && cw != t.frontCw) then []
    else
      let p := if cw then b else c
      let q := if cw then c else b
      let pixel (lim : Nat) (i : Int) : Nat := min (i / 256).toNat lim
      let x0 := pixel t.width (min3 a.x b.x c.x)
      let x1 := pixel (t.width - 1) (max3 a.x b.x c.x)
      let y0 := pixel t.height (min3 a.y b.y c.y)
      let y1 := pixel (t.height - 1) (max3 a.y b.y c.y)
      (List.range (y1 + 1 - y0)).flatMap (fun j => (List.range (x1 + 1 - x0)).filterMap (fun i =>
        let ss := (List.range (2 ^ t.slog)).filterMap (fun s =>
          let pos := samplePos t.slog s
          (coverAt a p q (256 * (x0 + i : Nat) + 16 * (pos.1 : Nat)) (256 * (y0 + j : Nat) + 16 * (pos.2 : Nat))).map (fun d => (s, d)))
        if ss.isEmpty then none else some (x0 + i, y0 + j, ss)))
  | _, _, _ => []

/-! ### Updates (R183, R184) -/

/-- A state that memory accesses change, whether one of them met poisoned data, the tag of its stores, and the place of its accesses. -/
structure RastRun where
  s : State
  poison : Bool
  tag : StoreTag
  place : Ev
deriving DecidableEq, Repr

/-- One access of n bytes: a read-modify-write in L2, or a write (R183, R184); `f` gives the bytes to write, if any. -/
def RastRun.rmw (r : RastRun) (a : Acc) (va n : Nat) (f : List Byte → Option (List Byte)) : Except AccFault (RastRun × List Byte) :=
  match r.s.access r.tag.ctx a (va % 2 ^ 72) n with
  | .error x => .error x
  | .ok ps =>
    let ls := (paList ps).map Loc.mem
    let bs := r.s.bytesWith r.tag.ctx .glb (va % 2 ^ 72) (fun _ => if a = .atomic then 1 else 0) ls
    let (t, old) := if a = .atomic then r.s.memUpdate r.place Sync.plain bs (fun old => (f old).getD old)
      else (r.s.enterWrites (writesAt r.place Sync.plain bs ((f []).getD [])), [])
    .ok ({ r with s := if (f old).isSome then t.tagStores r.tag ls else t, poison := r.poison || (a = .atomic && r.s.touchesPoison ps) }, old)

/-- An opaque fragment against a sample's record (R183). -/
def RastRun.sample (r : RastRun) (va pid d : Nat) : Except AccFault RastRun :=
  let nearer (old : List Byte) : Bool :=
    let D := fld old 8 4
    Fmt.f32.isNan D || (Fmt.f32.dec d).lt (Fmt.f32.dec D) || ((Fmt.f32.dec d).eq (Fmt.f32.dec D) && decide (pid < fld old 0 8))
  (r.rmw .atomic va 16 (fun old => if nearer old then some (leBytes 8 pid ++ leBytes 4 d ++ leBytes 4 0) else none)).map (fun x => x.1)

/-- A transparent fragment of a pixel (R184); `desc` is the descriptor's address. -/
def RastRun.fragment (r : RastRun) (t : RasterTarget) (desc headVa pid : Nat) (ss : List (Nat × Nat)) : Except AccFault RastRun := do
  let (r1, fn) ← r.rmw .atomic (desc + 40) 4 (fun old => some (leBytes 4 (leNat old + 1)))
  let k := leNat fn
  if t.fragCap ≤ k then
    let (r2, _) ← r1.rmw .atomic (desc + 44) 4 (fun old => some (leBytes 4 (leNat old + 1)))
    return r2
  else
    let mask := ss.foldl (fun n e => n + 2 ^ e.1) 0
    let (r2, _) ← r1.rmw .store (t.frag + 16 * k) 13 (fun _ => some (leBytes 8 pid ++ leBytes 4 ((ss.headD (0, 0)).2) ++ leBytes 1 mask))
    let (r3, old) ← r2.rmw .atomic headVa 4 (fun _ => some (leBytes 4 k))
    let (r4, _) ← r3.rmw .store (t.frag + 16 * k + 13) 3 (fun _ => some (old.take 3))
    return r4

/-- Every update of a triangle in a view. -/
def RastRun.triangle (r : RastRun) (t : RasterTarget) (desc v : Nat) (m : List Nat) (regs : List W32) : Except AccFault RastRun :=
  let w := regs.map (fun x => x.toNat)
  let pid := w.getD 10 0 * 2 ^ 32 + w.getD 9 0
  (coverage t m (w.take 9)).foldl (fun a px =>
    let at_ := (v * t.height + px.2.1) * t.width + px.1
    if bitAt (w.getD 11 0) 8 then a.bind (fun r => r.fragment t desc (t.head + 4 * at_) pid px.2.2)
    else px.2.2.foldl (fun a e => a.bind (fun r => r.sample (t.vbuf + 16 * (at_ * 2 ^ t.slog + e.1)) pid e.2)) a) (.ok r)

/-! ### RAST (R338) -/

/-- The views that a lane's triangle is processed in. -/
def viewsOf (t : RasterTarget) (regs : List W32) : List Nat := (List.range t.views).filter (fun v => bitAt (regs.getD 11 0).toNat v)

def execRast (f : LF) (s : State) : Res :=
  runL s f (fun s c => [(regsOk s c [⟨f.va, 12, false⟩], Trap.illegal)]) (fun s c r act =>
    if act = 0 then lDone s c
    else
      let a := ea (lrunB r (bits f.low 31 28)) (soff (lrunS s.oracle r (bits f.low 27 22)))
      let ctx := s.ctxOf c
      match s.access ctx .engine a 64 with
      | .error x => .trap (Trap.access .engine x act)
      | .ok ps =>
        let place := s.place c act .l r.since
        let r0 := s.readRanges place ctx true [(a, 64)]
        let d0 := r0.2.flatten.flatMap r0.1.returned
        let t := rasterTarget d0
        if s.touchesPoison ps then .trap (poisonTrap (s.coreOf c))
        else if a % 64 ≠ 0 || !t.2 then .trap (Trap.perm .engine a act)
        else
          let tris := (lanesOf act).map (fun l => (l, (List.range 12).map (fun i => c.vRd s.oracle (f.va + i) l)))
          let sel := (List.range 8).filter (fun v => tris.any (fun e => (viewsOf t.1 e.2).contains v))
          let range (v : Nat) : Nat × Nat := ((a + 64 + 64 * v) % 2 ^ 72, 64)
          match s.rangeFault ctx (sel.map range) with
          | some x => .trap (Trap.access .engine x act)
          | none =>
            if s.touchesPoison (s.rangePieces ctx (sel.map range)) then .trap (poisonTrap (s.coreOf c))
            else if s.engineFull .raster (engineUnit .raster (s.coreOf c)) || c.tableFull .l then lStall s c
            else
              let r1 := r0.1.readRanges place ctx true (sel.map range)
              let desc := d0 ++ (List.range 8).flatMap (fun v =>
                if sel.contains v then (r1.2.getD (sel.findIdx (fun x => x = v)) []).flatMap r1.1.returned else List.replicate 64 0)
              let todo := tris.flatMap (fun e => (viewsOf t.1 e.2).map (fun v => (e.1, v)))
              .done (r1.1.post c r .raster (.rast desc a tris todo) act true [] none))

/-! ### Events (R183 to R185) -/

/-- The command is the first in issue order, across the span's crews, of the submissions that the rasteriser has not begun (R324). -/
def State.firstIssued (s : State) (k : Cmd) : Bool :=
  s.cmds.all (fun x => x.id = k.id || x.engine ≠ k.engine || x.unit ≠ k.unit || x.stage ≠ 0 || x.held || !s.isHead x || !s.cmdLive x || x.guard.isSome
    || decide (k.posted < x.posted) || k.posted = x.posted && decide (k.id < x.id))

/-- The span's rasteriser applies one submitted triangle in one view; a failing page holds the command. -/
def execRasteriseTriangle (id lane view : Nat) (s : State) : Res :=
  match s.cmds.find? (fun k => k.id = id) with
  | none => fin s
  | some k =>
    match k.op, s.crew? k.cid with
    | .rast desc a tris todo, some _ =>
      if k.held || !s.isHead k || !(k.stage = 1 || s.cmdLive k && s.firstIssued k) || !todo.contains (lane, view) then fin s
      else
        let regs := (tris.find? (fun e => e.1 = lane)).elim [] (fun e => e.2)
        let run : RastRun := { s := s, poison := false, tag := ⟨k.ctx, k.cid, k.who, k.pos⟩, place := k.placeOf s lane }
        match run.triangle (rasterTarget desc).1 a view (words4 desc (64 + 64 * view) 16) regs with
        | .error x => fin (s.holdCmd k x)
        | .ok r =>
          let k' : Cmd := { k with stage := 1, op := .rast desc a tris (todo.erase (lane, view)) }
          let s1 := r.s.setCmd k'
          fin (s1.modCrew k.cid (fun c => { c with pend := c.pend.map (fun (p : Pending) => if some p.id = k.pid then
              { p with poison := p.poison || r.poison } else p) }))
    | _, _ => fin s

/-- Every access of a RAST has been performed: its pending write returns. -/
def execRastReturn (id : Nat) (s : State) : Res :=
  match s.cmds.find? (fun k => k.id = id) with
  | none => fin s
  | some k =>
    match k.op, s.crew? k.cid with
    | .rast _ _ _ [], some c =>
      if !s.isHead k || !(k.stage = 1 || s.cmdLive k && s.firstIssued k) then fin s
      else if c.pend.any (fun p => some p.id = k.pid && p.poison) then fin (s.dropCmd k)
      else fin ((s.returnPend k.cid k.pid []).dropCmd k)
    | _, _ => fin s

end Sys2Proof.Machine
end

