-- ==== Sys2Proof/Machine/Scalar.lean ====
section
/-! DEFINITION. Scalar arithmetic, SLDI and base registers (14 R249 to R252). -/

namespace Sys2Proof.Machine

/-- A fixed-latency result of the scalar unit, written to s[sd] (R248, R249). -/
def sAlu (s : State) (w : Bool) (sd len : Nat) (val : Nat → Crew → W64) : Res :=
  runS s w false len (fun _ _ => []) (fun s c => sDone s (c.sWr sd (val s.oracle c)) len)

/-- A register form: operand b is s[sb]. -/
def sAluR (s : State) (a : SA) (op : W64 → W64 → W64) : Res :=
  sAlu s a.w a.sd 4 (fun o c => op (c.sRd o a.sa) (c.sRd o a.sb))

/-- An immediate form: operand b is imm12, sign-extended. -/
def sAluI (s : State) (a : SI) (op : W64 → W64 → W64) : Res :=
  sAlu s a.w a.sd 4 (fun o c => op (c.sRd o a.sa) (simm a.imm))

/-- Bits [127:64] of the exact product (R249). -/
def mulhI (a b : W64) : W64 := BitVec.ofInt 64 (a.toInt * b.toInt / 2 ^ 64)
def mulhN (a b : W64) : W64 := BitVec.ofNat 64 (a.toNat * b.toNat / 2 ^ 64)

/-- Quotient and remainder, with the two borderline cases (R249, R250). -/
def divI (a b : W64) : W64 := if b = 0 then BitVec.allOnes 64 else BitVec.ofInt 64 (a.toInt.tdiv b.toInt)
def remI (a b : W64) : W64 := if b = 0 then a else BitVec.ofInt 64 (a.toInt.tmod b.toInt)
def divN (a b : W64) : W64 := if b = 0 then BitVec.allOnes 64 else BitVec.ofNat 64 (a.toNat / b.toNat)
def remN (a b : W64) : W64 := if b = 0 then a else BitVec.ofNat 64 (a.toNat % b.toNat)

/-- Shifts by b[5:0] (R249). -/
def shl64 (a b : W64) : W64 := a <<< (b.toNat % 64)
def shr64 (a b : W64) : W64 := a >>> (b.toNat % 64)
def sra64 (a b : W64) : W64 := a.sshiftRight (b.toNat % 64)

def execSaddR (a : SA) (s : State) : Res := sAluR s a (fun x y => x + y)
def execSaddI (a : SI) (s : State) : Res := sAluI s a (fun x y => x + y)
def execSsub (a : SA) (s : State) : Res := sAluR s a (fun x y => x - y)
def execSmulR (a : SA) (s : State) : Res := sAluR s a (fun x y => x * y)
def execSmulI (a : SI) (s : State) : Res := sAluI s a (fun x y => x * y)
def execSmulhI (a : SA) (s : State) : Res := sAluR s a mulhI
def execSmulhN (a : SA) (s : State) : Res := sAluR s a mulhN
def execSdivI (a : SA) (s : State) : Res := sAluR s a divI
def execSdivN (a : SA) (s : State) : Res := sAluR s a divN
def execSremI (a : SA) (s : State) : Res := sAluR s a remI
def execSremN (a : SA) (s : State) : Res := sAluR s a remN
def execSandR (a : SA) (s : State) : Res := sAluR s a (fun x y => x &&& y)
def execSandI (a : SI) (s : State) : Res := sAluI s a (fun x y => x &&& y)
def execSorR (a : SA) (s : State) : Res := sAluR s a (fun x y => x ||| y)
def execSorI (a : SI) (s : State) : Res := sAluI s a (fun x y => x ||| y)
def execSxorR (a : SA) (s : State) : Res := sAluR s a (fun x y => x ^^^ y)
def execSxorI (a : SI) (s : State) : Res := sAluI s a (fun x y => x ^^^ y)
def execSshlR (a : SA) (s : State) : Res := sAluR s a shl64
def execSshlI (a : SI) (s : State) : Res := sAluI s a shl64
def execSshrR (a : SA) (s : State) : Res := sAluR s a shr64
def execSshrI (a : SI) (s : State) : Res := sAluI s a shr64
def execSsraR (a : SA) (s : State) : Res := sAluR s a sra64
def execSsraI (a : SI) (s : State) : Res := sAluI s a sra64
def execSminI (a : SA) (s : State) : Res := sAluR s a (fun x y => if x.slt y then x else y)
def execSminN (a : SA) (s : State) : Res := sAluR s a (fun x y => if x.ult y then x else y)
def execSmaxI (a : SA) (s : State) : Res := sAluR s a (fun x y => if x.slt y then y else x)
def execSmaxN (a : SA) (s : State) : Res := sAluR s a (fun x y => if x.ult y then y else x)
def execSsetI (a : SA) (s : State) : Res := sAluR s a (fun x y => if ssetCond true a.func x y then 1 else 0)
def execSsetN (a : SA) (s : State) : Res := sAluR s a (fun x y => if ssetCond false a.func x y then 1 else 0)
def execSbit32 (a : SA) (s : State) : Res := sAluR s a (fun x _ => BitVec.ofNat 64 (sbitOp 32 a.func x.toNat))
def execSbit64 (a : SA) (s : State) : Res := sAluR s a (fun x _ => BitVec.ofNat 64 (sbitOp 64 a.func x.toNat))

/-- SLDI (R251). -/
def execSldiLo (a : SX) (s : State) : Res := sAlu s a.w a.sd 8 (fun _ _ => BitVec.ofNat 64 a.imm)
def execSldiHi (a : SX) (s : State) : Res :=
  sAlu s a.w a.sd 8 (fun o c => BitVec.ofNat 64 ((c.sRd o a.sd).toNat % 2 ^ 32 + a.imm * 2 ^ 32))
def execSldiSx (a : SX) (s : State) : Res := sAlu s a.w a.sd 8 (fun _ _ => BitVec.ofInt 64 (sgn 32 a.imm))

/-- A base-register form: b[sd[3:0]] gets a value; fields naming base registers use their low 4 bits (R224, R252). -/
def bAlu (s : State) (w : Bool) (sd : Nat) (val : Nat → Crew → VA) : Res :=
  runS s w false 4 (fun _ _ => []) (fun s c => sDone s (c.bWr (sd % 16) (val s.oracle c)) 4)

def execBaddR (a : SA) (s : State) : Res :=
  bAlu s a.w a.sd (fun o c => BitVec.ofNat 72 (ea (c.bRd (a.sa % 16)) (soff (c.sRd o a.sb))))
def execBaddI (a : SI) (s : State) : Res := bAlu s a.w a.sd (fun _ c => BitVec.ofNat 72 (ea (c.bRd (a.sa % 16)) (sgn 12 a.imm)))
def execBsetLo (a : SA) (s : State) : Res := bAlu s a.w a.sd (fun o c => BitVec.ofNat 72 (c.sRd o a.sa).toNat)
def execBsetHi (a : SA) (s : State) : Res :=
  bAlu s a.w a.sd (fun o c => BitVec.ofNat 72 ((c.bRd (a.sd % 16)).toNat % 2 ^ 64 + (c.sRd o a.sa).toNat % 256 * 2 ^ 64))
def execBgetLo (a : SA) (s : State) : Res := sAlu s a.w a.sd 4 (fun _ c => BitVec.ofNat 64 (c.bRd (a.sa % 16)).toNat)
def execBgetHi (a : SA) (s : State) : Res := sAlu s a.w a.sd 4 (fun _ c => BitVec.ofNat 64 ((c.bRd (a.sa % 16)).toNat / 2 ^ 64))
def execBmov (a : SA) (s : State) : Res := bAlu s a.w a.sd (fun _ c => c.bRd (a.sa % 16))

end Sys2Proof.Machine
end

