-- ==== Sys2Proof/Machine/ScalarMem.lean ====
section
/-! DEFINITION. Scalar loads, stores and atomics (14 R253, R254). -/

namespace Sys2Proof.Machine

/-- A scalar access: locate its bytes with their checks (R221), wait for presence (R64), then act. -/
def sAccess (s : State) (c : Crew) (a : SM) (k : Acc) (n : Nat) (act : List Loc → List ByteAt → Eff) : Eff :=
  match s.locate c (smSpace a) k (smEa s.oracle c a) n with
  | .error f => .trap (Trap.access k f 0)
  | .ok ls => if s.absent ls then sWait s c else act ls (s.bytesAt (s.ctxOf c) (smSpace a) (smEa s.oracle c a) ls)

/-- The ordering part of an SM word: its storage mask is the class of its space (R83, R253). -/
def smSync (a : SM) : Sync := syncOf a.ordk a.scope (if a.space = 0 then 1 else 2)

/-- A value of w bits extended to 64 (R253). -/
def extend64 (signed : Bool) (w x : Nat) : W64 := if signed then BitVec.ofInt 64 (sgn w x) else BitVec.ofNat 64 x

/-- SLD of n bytes (R253): the destination is a pending write of the S-stream (R248). -/
def sLoad (s : State) (a : SM) (n : Nat) (signed : Bool) : Res :=
  runS s a.w false 4 (smChecks .load a) (fun s c =>
    if c.tableFull .s then sStall s c
    else sAccess s c a .load n (fun ls bs =>
      let q := s.memLoad (s.sPlace c) (smSync a) bs
      sDone (q.1.countMisses c 8 ls) (c.addLoad .s [] [(a.sd, extend64 signed (8 * n) (leNat q.2.2))] (s.poisonedLocs ls) c.sPos
        (lateOf q.2.1 signed a.sd 0)) 4))

/-- SST of n bytes (R253). -/
def sStore (s : State) (a : SM) (n : Nat) : Res :=
  runS s a.w false 4 (smChecks .store a) (fun s c =>
    sAccess s c a .store n (fun ls bs =>
      sDone ((s.tagStores (s.tagOf c c.sPos) ls).enterWrites (writesAt (s.sPlace c) (smSync a) bs (leBytes n (c.sRd s.oracle a.sd).toNat))) c 4))

def execSldN8 (a : SM) (s : State) : Res := sLoad s a 1 false
def execSldI8 (a : SM) (s : State) : Res := sLoad s a 1 true
def execSldN16 (a : SM) (s : State) : Res := sLoad s a 2 false
def execSldI16 (a : SM) (s : State) : Res := sLoad s a 2 true
def execSldN32 (a : SM) (s : State) : Res := sLoad s a 4 false
def execSldI32 (a : SM) (s : State) : Res := sLoad s a 4 true
def execSld64 (a : SM) (s : State) : Res := sLoad s a 8 false
def execSst8 (a : SM) (s : State) : Res := sStore s a 1
def execSst16 (a : SM) (s : State) : Res := sStore s a 2
def execSst32 (a : SM) (s : State) : Res := sStore s a 4
def execSst64 (a : SM) (s : State) : Res := sStore s a 8

/-- Bytes of a scalar atomic: W64 (R254). -/
def satomBytes (a : SM) : Nat := if a.w64 = 1 then 8 else 4

/-- A scalar read-modify-write: aligned, one step on the word, the old value to s[d] as a pending write (R254, R248). -/
def sAtomic (s : State) (a : SM) (checks : List (Bool × Trap)) (new : Crew → Nat → Nat) : Res :=
  runS s a.w false 4 (fun s c => checks ++ smChecks .atomic a s c) (fun s c =>
    let n := satomBytes a
    if c.tableFull .s then sStall s c
    else sAccess s c a .atomic n (fun ls bs =>
      let q := (s.tagStores (s.tagOf c c.sPos) ls).memUpdate (s.sPlace c) (smSync a) bs (fun old => leBytes n (new c (leNat old)))
      sDone q.1 (c.addPend .s [] [] [(a.sd, BitVec.ofNat 64 (leNat q.2))] true (s.poisonedLocs ls) c.sPos) 4))

/-- The operand of SATOM: the low w bits of s[d] (R254). -/
def satomArg (s : State) (a : SM) (c : Crew) : Nat := (c.sRd s.oracle a.sd).toNat % 2 ^ (8 * satomBytes a)

/-- The lesser or the greater of two w-bit values (R254). -/
def pick2 (w : Nat) (signed wantMax : Bool) (x y : Nat) : Nat :=
  let lt : Bool := if signed then sgn w x < sgn w y else x < y
  if lt = wantMax then y else x

def execSatomAdd (a : SM) (s : State) : Res := sAtomic s a [] (fun c old => (old + satomArg s a c) % 2 ^ (8 * satomBytes a))
def execSatomAnd (a : SM) (s : State) : Res := sAtomic s a [] (fun c old => old &&& satomArg s a c)
def execSatomOr (a : SM) (s : State) : Res := sAtomic s a [] (fun c old => old ||| satomArg s a c)
def execSatomXor (a : SM) (s : State) : Res := sAtomic s a [] (fun c old => old ^^^ satomArg s a c)
def execSatomMin (a : SM) (s : State) : Res := sAtomic s a [] (fun c old => pick2 (8 * satomBytes a) true false old (satomArg s a c))
def execSatomMax (a : SM) (s : State) : Res := sAtomic s a [] (fun c old => pick2 (8 * satomBytes a) true true old (satomArg s a c))
def execSatomMinn (a : SM) (s : State) : Res := sAtomic s a [] (fun c old => pick2 (8 * satomBytes a) false false old (satomArg s a c))
def execSatomMaxn (a : SM) (s : State) : Res := sAtomic s a [] (fun c old => pick2 (8 * satomBytes a) false true old (satomArg s a c))
def execSatomXchg (a : SM) (s : State) : Res := sAtomic s a [] (fun c _ => satomArg s a c)

/-- SCAS: compare value in s[d], new value in s[d+1]; d must be even (R224, R254). -/
def execScas (a : SM) (s : State) : Res :=
  sAtomic s a [(a.sd % 2 = 0, Trap.illegal)] (fun c old =>
    if old = satomArg s a c then (c.sRd s.oracle (a.sd + 1)).toNat % 2 ^ (8 * satomBytes a) else old)

end Sys2Proof.Machine
end

