-- ==== Sys2Proof/Machine/Dispatch.lean ====
section
/-! DEFINITION. The dispatch of an instruction or event to its meaning, one arm for each row of the opcode table. -/

namespace Sys2Proof.Machine

def exec (i : Instr) (s : State) : Host.Outcome State Fault Refusal :=
  match i with
  | .saddR a => Sys2Proof.Machine.execSaddR a s
  | .saddI a => Sys2Proof.Machine.execSaddI a s
  | .ssub a => Sys2Proof.Machine.execSsub a s
  | .smulR a => Sys2Proof.Machine.execSmulR a s
  | .smulI a => Sys2Proof.Machine.execSmulI a s
  | .smulhI a => Sys2Proof.Machine.execSmulhI a s
  | .smulhN a => Sys2Proof.Machine.execSmulhN a s
  | .sdivI a => Sys2Proof.Machine.execSdivI a s
  | .sdivN a => Sys2Proof.Machine.execSdivN a s
  | .sremI a => Sys2Proof.Machine.execSremI a s
  | .sremN a => Sys2Proof.Machine.execSremN a s
  | .sandR a => Sys2Proof.Machine.execSandR a s
  | .sandI a => Sys2Proof.Machine.execSandI a s
  | .sorR a => Sys2Proof.Machine.execSorR a s
  | .sorI a => Sys2Proof.Machine.execSorI a s
  | .sxorR a => Sys2Proof.Machine.execSxorR a s
  | .sxorI a => Sys2Proof.Machine.execSxorI a s
  | .sshlR a => Sys2Proof.Machine.execSshlR a s
  | .sshlI a => Sys2Proof.Machine.execSshlI a s
  | .sshrR a => Sys2Proof.Machine.execSshrR a s
  | .sshrI a => Sys2Proof.Machine.execSshrI a s
  | .ssraR a => Sys2Proof.Machine.execSsraR a s
  | .ssraI a => Sys2Proof.Machine.execSsraI a s
  | .sminI a => Sys2Proof.Machine.execSminI a s
  | .sminN a => Sys2Proof.Machine.execSminN a s
  | .smaxI a => Sys2Proof.Machine.execSmaxI a s
  | .smaxN a => Sys2Proof.Machine.execSmaxN a s
  | .ssetI a => Sys2Proof.Machine.execSsetI a s
  | .ssetN a => Sys2Proof.Machine.execSsetN a s
  | .sbit32 a => Sys2Proof.Machine.execSbit32 a s
  | .sbit64 a => Sys2Proof.Machine.execSbit64 a s
  | .sldiLo a => Sys2Proof.Machine.execSldiLo a s
  | .sldiHi a => Sys2Proof.Machine.execSldiHi a s
  | .sldiSx a => Sys2Proof.Machine.execSldiSx a s
  | .baddR a => Sys2Proof.Machine.execBaddR a s
  | .baddI a => Sys2Proof.Machine.execBaddI a s
  | .bsetLo a => Sys2Proof.Machine.execBsetLo a s
  | .bsetHi a => Sys2Proof.Machine.execBsetHi a s
  | .bgetLo a => Sys2Proof.Machine.execBgetLo a s
  | .bgetHi a => Sys2Proof.Machine.execBgetHi a s
  | .bmov a => Sys2Proof.Machine.execBmov a s
  | .sldN8 a => Sys2Proof.Machine.execSldN8 a s
  | .sldI8 a => Sys2Proof.Machine.execSldI8 a s
  | .sldN16 a => Sys2Proof.Machine.execSldN16 a s
  | .sldI16 a => Sys2Proof.Machine.execSldI16 a s
  | .sldN32 a => Sys2Proof.Machine.execSldN32 a s
  | .sldI32 a => Sys2Proof.Machine.execSldI32 a s
  | .sld64 a => Sys2Proof.Machine.execSld64 a s
  | .sst8 a => Sys2Proof.Machine.execSst8 a s
  | .sst16 a => Sys2Proof.Machine.execSst16 a s
  | .sst32 a => Sys2Proof.Machine.execSst32 a s
  | .sst64 a => Sys2Proof.Machine.execSst64 a s
  | .satomAdd a => Sys2Proof.Machine.execSatomAdd a s
  | .satomAnd a => Sys2Proof.Machine.execSatomAnd a s
  | .satomOr a => Sys2Proof.Machine.execSatomOr a s
  | .satomXor a => Sys2Proof.Machine.execSatomXor a s
  | .satomMin a => Sys2Proof.Machine.execSatomMin a s
  | .satomMax a => Sys2Proof.Machine.execSatomMax a s
  | .satomMinn a => Sys2Proof.Machine.execSatomMinn a s
  | .satomMaxn a => Sys2Proof.Machine.execSatomMaxn a s
  | .satomXchg a => Sys2Proof.Machine.execSatomXchg a s
  | .scas a => Sys2Proof.Machine.execScas a s
  | .jmp a => Sys2Proof.Machine.execJmp a s
  | .jmpcEqz a => Sys2Proof.Machine.execJmpcEqz a s
  | .jmpcNez a => Sys2Proof.Machine.execJmpcNez a s
  | .jmpcLtz a => Sys2Proof.Machine.execJmpcLtz a s
  | .jmpcGez a => Sys2Proof.Machine.execJmpcGez a s
  | .call a => Sys2Proof.Machine.execCall a s
  | .ret a => Sys2Proof.Machine.execRet a s
  | .brd a => Sys2Proof.Machine.execBrd a s
  | .join a => Sys2Proof.Machine.execJoin a s
  | .lrun a => Sys2Proof.Machine.execLrun a s
  | .bar a => Sys2Proof.Machine.execBar a s
  | .gbar a => Sys2Proof.Machine.execGbar a s
  | .peal a => Sys2Proof.Machine.execPeal a s
  | .tget a => Sys2Proof.Machine.execTget a s
  | .twait a => Sys2Proof.Machine.execTwait a s
  | .twaitPres a => Sys2Proof.Machine.execTwaitPres a s
  | .lnch a => Sys2Proof.Machine.execLnch a s
  | .lnchNb a => Sys2Proof.Machine.execLnchNb a s
  | .exit a => Sys2Proof.Machine.execExit a s
  | .gsetT a => Sys2Proof.Machine.execGsetT a s
  | .gsetF a => Sys2Proof.Machine.execGsetF a s
  | .gsetTrig a => Sys2Proof.Machine.execGsetTrig a s
  | .gclr a => Sys2Proof.Machine.execGclr a s
  | .binc a => Sys2Proof.Machine.execBinc a s
  | .rgrp a => Sys2Proof.Machine.execRgrp a s
  | .rhom a => Sys2Proof.Machine.execRhom a s
  | .sread a => Sys2Proof.Machine.execSread a s
  | .swrite a => Sys2Proof.Machine.execSwrite a s
  | .fence a => Sys2Proof.Machine.execFence a s
  | .yieldCrew a => Sys2Proof.Machine.execYieldCrew a s
  | .trap a => Sys2Proof.Machine.execTrap a s
  | .sysc a => Sys2Proof.Machine.execSysc a s
  | .brkpt a => Sys2Proof.Machine.execBrkpt a s
  | .nop a => Sys2Proof.Machine.execNop a s
  | .sHint op a => Sys2Proof.Machine.execSHint op a s
  | .sIllegalOpcode op a => Sys2Proof.Machine.execSIllegalOpcode op a s
  | .vadd f => Sys2Proof.Machine.execVadd f s
  | .vsub f => Sys2Proof.Machine.execVsub f s
  | .vmul f => Sys2Proof.Machine.execVmul f s
  | .vmulh f => Sys2Proof.Machine.execVmulh f s
  | .vmulw f => Sys2Proof.Machine.execVmulw f s
  | .vaddc k f => Sys2Proof.Machine.execVaddc k f s
  | .vfma k f => Sys2Proof.Machine.execVfma k f s
  | .vdiv k f => Sys2Proof.Machine.execVdiv k f s
  | .vdot k f => Sys2Proof.Machine.execVdot k f s
  | .vmin k f => Sys2Proof.Machine.execVmin k f s
  | .vmax k f => Sys2Proof.Machine.execVmax k f s
  | .vclamp f => Sys2Proof.Machine.execVclamp f s
  | .vmed3 f => Sys2Proof.Machine.execVmed3 f s
  | .vabs f => Sys2Proof.Machine.execVabs f s
  | .vneg f => Sys2Proof.Machine.execVneg f s
  | .vsel f => Sys2Proof.Machine.execVsel f s
  | .vlerp f => Sys2Proof.Machine.execVlerp f s
  | .vsad f => Sys2Proof.Machine.execVsad f s
  | .vcmp k f => Sys2Proof.Machine.execVcmp k f s
  | .vand f => Sys2Proof.Machine.execVand f s
  | .vor f => Sys2Proof.Machine.execVor f s
  | .vxor f => Sys2Proof.Machine.execVxor f s
  | .vnot f => Sys2Proof.Machine.execVnot f s
  | .vlop3 f => Sys2Proof.Machine.execVlop3 f s
  | .vshl f => Sys2Proof.Machine.execVshl f s
  | .vshr f => Sys2Proof.Machine.execVshr f s
  | .vsra f => Sys2Proof.Machine.execVsra f s
  | .vbfe f => Sys2Proof.Machine.execVbfe f s
  | .vbfi f => Sys2Proof.Machine.execVbfi f s
  | .vpopc f => Sys2Proof.Machine.execVpopc f s
  | .vclz k f => Sys2Proof.Machine.execVclz k f s
  | .vbrev f => Sys2Proof.Machine.execVbrev f s
  | .vprmt f => Sys2Proof.Machine.execVprmt f s
  | .vrcp f => Sys2Proof.Machine.execVrcp f s
  | .vrsq f => Sys2Proof.Machine.execVrsq f s
  | .vsqrt f => Sys2Proof.Machine.execVsqrt f s
  | .vexp2 f => Sys2Proof.Machine.execVexp2 f s
  | .vlog2 f => Sys2Proof.Machine.execVlog2 f s
  | .vsin k f => Sys2Proof.Machine.execVsin k f s
  | .vcos k f => Sys2Proof.Machine.execVcos k f s
  | .vtanh f => Sys2Proof.Machine.execVtanh f s
  | .vfrc f => Sys2Proof.Machine.execVfrc f s
  | .vrnd f => Sys2Proof.Machine.execVrnd f s
  | .vclass f => Sys2Proof.Machine.execVclass f s
  | .vldexp f => Sys2Proof.Machine.execVldexp f s
  | .vcvt k f => Sys2Proof.Machine.execVcvt k f s
  | .vpack k f => Sys2Proof.Machine.execVpack k f s
  | .vunpk k f => Sys2Proof.Machine.execVunpk k f s
  | .vbqnt f => Sys2Proof.Machine.execVbqnt f s
  | .vbscl f => Sys2Proof.Machine.execVbscl f s
  | .vmov f => Sys2Proof.Machine.execVmov f s
  | .vmovi f => Sys2Proof.Machine.execVmovi f s
  | .vmovs f => Sys2Proof.Machine.execVmovs f s
  | .vshfl k f => Sys2Proof.Machine.execVshfl k f s
  | .vshfu k f => Sys2Proof.Machine.execVshfu k f s
  | .vshfd k f => Sys2Proof.Machine.execVshfd k f s
  | .vshfx k f => Sys2Proof.Machine.execVshfx k f s
  | .vvote k f => Sys2Proof.Machine.execVvote k f s
  | .vbal f => Sys2Proof.Machine.execVbal f s
  | .vplog k f => Sys2Proof.Machine.execVplog k f s
  | .vpmov k f => Sys2Proof.Machine.execVpmov k f s
  | .vred k f => Sys2Proof.Machine.execVred k f s
  | .vscanInc k f => Sys2Proof.Machine.execVscanInc k f s
  | .vscanExc k f => Sys2Proof.Machine.execVscanExc k f s
  | .vmatch f => Sys2Proof.Machine.execVmatch f s
  | .vld k f => Sys2Proof.Machine.execVld k f s
  | .vst k f => Sys2Proof.Machine.execVst k f s
  | .vsmp f => Sys2Proof.Machine.execVsmp f s
  | .atom k f => Sys2Proof.Machine.execAtom k f s
  | .cas k f => Sys2Proof.Machine.execCas k f s
  | .vfence f => Sys2Proof.Machine.execVfence f s
  | .cpy f => Sys2Proof.Machine.execCpy f s
  | .cseal f => Sys2Proof.Machine.execCseal f s
  | .cwait f => Sys2Proof.Machine.execCwait f s
  | .srd f => Sys2Proof.Machine.execSrd f s
  | .swr f => Sys2Proof.Machine.execSwr f s
  | .sstatGet f => Sys2Proof.Machine.execSstatGet f s
  | .sstatSet f => Sys2Proof.Machine.execSstatSet f s
  | .ralloc f => Sys2Proof.Machine.execRalloc f s
  | .rallocNb f => Sys2Proof.Machine.execRallocNb f s
  | .rpush f => Sys2Proof.Machine.execRpush f s
  | .qpop f => Sys2Proof.Machine.execQpop f s
  | .mldb k f => Sys2Proof.Machine.execMldb k f s
  | .smcp f => Sys2Proof.Machine.execSmcp f s
  | .mma k f => Sys2Proof.Machine.execMma k f s
  | .msca f => Sys2Proof.Machine.execMsca f s
  | .macz f => Sys2Proof.Machine.execMacz f s
  | .macrd k f => Sys2Proof.Machine.execMacrd k f s
  | .macwr f => Sys2Proof.Machine.execMacwr f s
  | .collAdd f => Sys2Proof.Machine.execCollAdd f s
  | .collWr f => Sys2Proof.Machine.execCollWr f s
  | .trav f => Sys2Proof.Machine.execTrav f s
  | .rast f => Sys2Proof.Machine.execRast f s
  | .rcq f => Sys2Proof.Machine.execRcq f s
  | .rcqTrain f => Sys2Proof.Machine.execRcqTrain f s
  | .lHint op f => Sys2Proof.Machine.execLHint op f s
  | .lIllegalOpcode op f => Sys2Proof.Machine.execLIllegalOpcode op f s
  | .crewRetire cid => Sys2Proof.Machine.execCrewRetire cid s
  | .barrierTimeout b => Sys2Proof.Machine.execBarrierTimeout b s
  | .twaitWake cid => Sys2Proof.Machine.execTwaitWake cid s
  | .copyLeaveHead cid => Sys2Proof.Machine.execCopyLeaveHead cid s
  | .copyLand op lane => Sys2Proof.Machine.execCopyLand op lane s
  | .passGrant quad => Sys2Proof.Machine.execPassGrant quad s
  | .passComplete quad mismatch row => Sys2Proof.Machine.execPassComplete quad mismatch row s
  | .foldGrant quad => Sys2Proof.Machine.execFoldGrant quad s
  | .scaleUnitFill quad => Sys2Proof.Machine.execScaleUnitFill quad s
  | .mldbLeaveHead cmd => Sys2Proof.Machine.execMldbLeaveHead cmd s
  | .mldbCommit cmd => Sys2Proof.Machine.execMldbCommit cmd s
  | .smcpCommit cmd => Sys2Proof.Machine.execSmcpCommit cmd s
  | .regroupRoundTimeout round => Sys2Proof.Machine.execRegroupRoundTimeout round s
  | .regroupCommit round moved => Sys2Proof.Machine.execRegroupCommit round moved s
  | .guardWatchRead w => Sys2Proof.Machine.execGuardWatchRead w s
  | .rcqGrant quad => Sys2Proof.Machine.execRcqGrant quad s
  | .rcqComplete quad => Sys2Proof.Machine.execRcqComplete quad s
  | .travComplete cmd => Sys2Proof.Machine.execTravComplete cmd s
  | .rasteriseTriangle cmd lane view => Sys2Proof.Machine.execRasteriseTriangle cmd lane view s
  | .rastReturn cmd => Sys2Proof.Machine.execRastReturn cmd s
  | .kilnStep slot => Sys2Proof.Machine.execKilnStep slot s
  | .kilnSwitchDue slot => Sys2Proof.Machine.execKilnSwitchDue slot s
  | .kilnSwitchWrite slot => Sys2Proof.Machine.execKilnSwitchWrite slot s
  | .rcuWritebackRetry slot => Sys2Proof.Machine.execRcuWritebackRetry slot s
  | .bindRco slot value => Sys2Proof.Machine.execBindRco slot value s
  | .unbindRco slot value => Sys2Proof.Machine.execUnbindRco slot value s
  | .unbindComplete slot => Sys2Proof.Machine.execUnbindComplete slot s
  | .pauseKiln value => Sys2Proof.Machine.execPauseKiln value s
  | .rxPacket port p => Sys2Proof.Machine.execRxPacket port p s
  | .rxRecordPacket port p => Sys2Proof.Machine.execRxRecordPacket port p s
  | .lineDeadline flow slot row => Sys2Proof.Machine.execLineDeadline flow slot row s
  | .jxsLineDecoded flow seq row engine => Sys2Proof.Machine.execJxsLineDecoded flow seq row engine s
  | .txRowDue flow => Sys2Proof.Machine.execTxRowDue flow s
  | .flowEnable tx flow value => Sys2Proof.Machine.execFlowEnable tx flow value s
  | .flowDisable tx flow value => Sys2Proof.Machine.execFlowDisable tx flow value s
  | .nodeBatchTimeout node => Sys2Proof.Machine.execNodeBatchTimeout node s
  | .recordCopyLand op => Sys2Proof.Machine.execRecordCopyLand op s
  | .collSend cid => Sys2Proof.Machine.execCollSend cid s
  | .gpxData entry header payload => Sys2Proof.Machine.execGpxData entry header payload s
  | .gpxAck entry packet => Sys2Proof.Machine.execGpxAck entry packet s
  | .gpxResendTimeout entry => Sys2Proof.Machine.execGpxResendTimeout entry s
  | .arrive entry header payload => Sys2Proof.Machine.execArrive entry header payload s
  | .decideMsg entry header payload => Sys2Proof.Machine.execDecideMsg entry header payload s
  | .pealCollectionClose frame => Sys2Proof.Machine.execPealCollectionClose frame s
  | .pealDecideResend frame => Sys2Proof.Machine.execPealDecideResend frame s
  | .pealFrameStart frame => Sys2Proof.Machine.execPealFrameStart frame s
  | .pealArm value => Sys2Proof.Machine.execPealArm value s
  | .pealEnable value => Sys2Proof.Machine.execPealEnable value s
  | .peerRevalidate entry value => Sys2Proof.Machine.execPeerRevalidate entry value s
  | .doorbell queue value => Sys2Proof.Machine.execDoorbell queue value s
  | .launchTake queue => Sys2Proof.Machine.execLaunchTake queue s
  | .launchSlackExpiry lid => Sys2Proof.Machine.execLaunchSlackExpiry lid s
  | .workgroupPlace lid places => Sys2Proof.Machine.execWorkgroupPlace lid places s
  | .gangReserve lid => Sys2Proof.Machine.execGangReserve lid s
  | .queueEnable queue value => Sys2Proof.Machine.execQueueEnable queue value s
  | .queueDisable queue value => Sys2Proof.Machine.execQueueDisable queue value s
  | .crfaultClear queue => Sys2Proof.Machine.execCrfaultClear queue s
  | .poolEnable pool value => Sys2Proof.Machine.execPoolEnable pool value s
  | .poolDisable pool value => Sys2Proof.Machine.execPoolDisable pool value s
  | .nodeEnable node value => Sys2Proof.Machine.execNodeEnable node value s
  | .nodeDisable node value => Sys2Proof.Machine.execNodeDisable node value s
  | .hwqEnable queue value => Sys2Proof.Machine.execHwqEnable queue value s
  | .hwqDisable queue value => Sys2Proof.Machine.execHwqDisable queue value s
  | .trapRecordWrite ctx => Sys2Proof.Machine.execTrapRecordWrite ctx s
  | .trgetWrite ctx value => Sys2Proof.Machine.execTrgetWrite ctx value s
  | .replay ctx entry => Sys2Proof.Machine.execReplay ctx entry s
  | .killStop ctx seq => Sys2Proof.Machine.execKillStop ctx seq s
  | .debugStop ctx seq => Sys2Proof.Machine.execDebugStop ctx seq s
  | .deferredMemoryError line retired ctx slot => Sys2Proof.Machine.execDeferredMemoryError line retired ctx slot s
  | .eviction core lid victims => Sys2Proof.Machine.execEviction core lid victims s
  | .saveComplete wg => Sys2Proof.Machine.execSaveComplete wg s
  | .saveFault wg addr => Sys2Proof.Machine.execSaveFault wg addr s
  | .emergencyCopyDone wg => Sys2Proof.Machine.execEmergencyCopyDone wg s
  | .workgroupRestore p wgs => Sys2Proof.Machine.execWorkgroupRestore p wgs s
  | .restoreComplete wg => Sys2Proof.Machine.execRestoreComplete wg s
  | .mmuInvalidate value => Sys2Proof.Machine.execMmuInvalidate value s
  | .mmuInvalidateDone => Sys2Proof.Machine.execMmuInvalidateDone s
  | .scinvGo quad value => Sys2Proof.Machine.execScinvGo quad value s
  | .scinvDone quad => Sys2Proof.Machine.execScinvDone quad s
  | .powerOnReset => Sys2Proof.Machine.execPowerOnReset s
  | .bringupStepEnd r => Sys2Proof.Machine.execBringupStepEnd r s
  | .ptplockTimeout => Sys2Proof.Machine.execPtplockTimeout s
  | .ptpSync m => Sys2Proof.Machine.execPtpSync m s
  | .ptpAnnounce port domain => Sys2Proof.Machine.execPtpAnnounce port domain s
  | .ptpSyncLoss => Sys2Proof.Machine.execPtpSyncLoss s
  | .holdoverExpiry => Sys2Proof.Machine.execHoldoverExpiry s
  | .ptpcDisable => Sys2Proof.Machine.execPtpcDisable s
  | .ptpcStep value => Sys2Proof.Machine.execPtpcStep value s
  | .ethmodeSet value => Sys2Proof.Machine.execEthmodeSet value s
  | .portTrain port value => Sys2Proof.Machine.execPortTrain port value s
  | .portTrainDone port up => Sys2Proof.Machine.execPortTrainDone port up s
  | .portDisable port value => Sys2Proof.Machine.execPortDisable port value s
  | .wallEnable value => Sys2Proof.Machine.execWallEnable value s
  | .badHostAccess a => Sys2Proof.Machine.execBadHostAccess a s
  | .hostMemoryAccess a => Sys2Proof.Machine.execHostMemoryAccess a s
  | .msixUnmask vector => Sys2Proof.Machine.execMsixUnmask vector s
  | .registerWrite a => Sys2Proof.Machine.execRegisterWrite a s
  | .continueStop ctx target => Sys2Proof.Machine.execContinueStop ctx target s
  | .stepS ctx target => Sys2Proof.Machine.execStepS ctx target s
  | .stepL ctx target => Sys2Proof.Machine.execStepL ctx target s
  | .commitDump ctx target => Sys2Proof.Machine.execCommitDump ctx target s
  | .stopPartition ctx target => Sys2Proof.Machine.execStopPartition ctx target s
  | .debugKill ctx target => Sys2Proof.Machine.execDebugKill ctx target s
  | .debugRevoke ctx value => Sys2Proof.Machine.execDebugRevoke ctx value s
  | .releaseTaint ctx value => Sys2Proof.Machine.execReleaseTaint ctx value s
  | .icinvGo => Sys2Proof.Machine.execIcinvGo s
  | .icinvDone => Sys2Proof.Machine.execIcinvDone s
  | .capCounters ctx => Sys2Proof.Machine.execCapCounters ctx s
  | .clrCounters ctx => Sys2Proof.Machine.execClrCounters ctx s
  | .sensorSample readings levels => Sys2Proof.Machine.execSensorSample readings levels s
  | .arrayError e => Sys2Proof.Machine.execArrayError e s
  | .rowTestDone array row lasting => Sys2Proof.Machine.execRowTestDone array row lasting s
  | .updateCmd => Sys2Proof.Machine.execUpdateCmd s
  | .kilnUpdateApply => Sys2Proof.Machine.execKilnUpdateApply s
  | .retireCmd => Sys2Proof.Machine.execRetireCmd s
  | .quoteCmd => Sys2Proof.Machine.execQuoteCmd s
  | .logreadCmd => Sys2Proof.Machine.execLogreadCmd s
  | .reeveCommandDone => Sys2Proof.Machine.execReeveCommandDone s
  | .pendingWriteReturn cid pid => Sys2Proof.Machine.execPendingWriteReturn cid pid s
  | .restoreFault wg addr => Sys2Proof.Machine.execRestoreFault wg addr s
  | .kilnUpdateDone => Sys2Proof.Machine.execKilnUpdateDone s

end Sys2Proof.Machine
end

