-- ==== Sys2Proof/Machine/Issue.lean ====
section
/-! DEFINITION. Fetch with its break bits, the issue of one word of a crew's stream (01 R25 to R29, R35, R38; 12 R220,
R236; 22 R377; 24 R406 to R415, R421). -/

namespace Sys2Proof.Machine

/-! ### Break bits (R407 to R409) -/

/-- The bitmap bit of a word, if a window holds it. -/
def State.breakIndex (s : State) (ctx : Nat) (st : Stream) (a : Nat) : Option Nat :=
  let blk := dbgBlk ctx
  let sn := s.r32 (blk + 0x24)
  let (base, n, w, first) := match st with
    | .s => ((s.addr72 (blk + 0x18) (blk + 0x20)).toNat, sn, 4, 0)
    | .l => ((s.addr72 (blk + 0x28) (blk + 0x30)).toNat, s.r32 (blk + 0x34), 12, 64 * ceilDiv sn 64)
  let d := (a + 2 ^ 72 - base) % 2 ^ 72
  if d % w = 0 && decide (d / w < n) then some (first + d / w) else none

/-- The break bit of a word, as the line of the instruction cache that holds it has it: as the bitmap stands, or as it stood since the last
invalidation completed. When a line is filled (at its first fetch, and again when the device chooses) and its bits cannot be read, they stay
clear until it is filled anew, and the fault is reported (R407, R409). -/
def State.breakBit (s : State) (core ctx : Nat) (st : Stream) (a : Nat) : State × Bool :=
  match s.breakIndex ctx st a with
  | none => (s, false)
  | some j =>
    let key := ((core * 64 + ctx) * 2 + (if st = .s then 0 else 1)) * 2 ^ 65 + a / 128
    let js := (List.range 128).filterMap (fun i => s.breakIndex ctx st (a / 128 * 128 + i))
    let first := js.foldl min j / 8
    let last := js.foldl max j / 8
    let kept := (tget? s.icLines key).isSome && Config.free s.oracle 17 (2 ^ 80) % 2 = 0
    if kept && tget? s.icLines key = some true then (s, false)
    else match s.access ctx .engine (((s.addr72 (dbgBlk ctx + 0x38) (dbgBlk ctx + 0x40)).toNat + first) % 2 ^ 72) (last + 1 - first) with
      | .error f =>
        if kept then (s, Config.free s.oracle 17 (2 ^ 80 + 1) % 2 = 1)
        else ({ s with icLines := tset s.icLines key true }.report ctx 40 0 0 0 0 0 0 0 ⟨0, none⟩ f.addr [(64, 1, 7), (65, 1, f.level)] none none none false, false)
      | .ok ps =>
        let pa := (paList ps).getD (j / 8 - first) 0
        let at_ (i : Nat) : Bool := (s.rdAt i pa).getLsbD (j % 8)
        ({ s with icLines := tset s.icLines key false },
          choose s.oracle 17 j false (at_ s.hist.length :: (List.range (s.hist.length - s.icMark)).map (fun k => at_ (s.icMark + k))))

/-- Break bits of a stream act on the crew (R406, R408); a word passes once after a stop at its bit (R415). -/
def State.breaksOn (s : State) (st : Stream) (c : Crew) : Bool :=
  let ctx := s.ctxOf c
  s.debugRight ctx && bitAt (s.r32 (dbgBlk ctx)) 29 && bitAt (s.r64 (dbgBlk ctx + 8)) ((s.launchOf c).elim 0 (fun l => l.queue))
    && bitAt (s.r32 (dbgBlk ctx + 0x10)) c.id && !c.breakOnce.contains st

/-! ### Readiness (R35) -/

/-- The crew is to step one word of the stream (R415). -/
def State.stepping (s : State) (cid : Nat) (st : Stream) (c : Crew) : Bool :=
  s.dbg.any (fun d => d.core = s.coreOf c && d.part = c.part && d.step = some (cid, st) && d.dumpFault.isNone)

/-- The crew may issue: it is resident, no stop holds it or its partition, and it has let the crews that its YIELD named go first (R35,
R268, R377, R410). -/
def State.mayIssue (s : State) (cid : Nat) (st : Stream) (c : Crew) : Bool :=
  c.stop.isNone && (s.wg? c.g).elim false (fun w => w.phase = .resident)
    && (!s.partStopped (s.coreOf c) c.part || s.stepping cid st c)
    && (s.stepping cid st c || !(c.yielded.any (fun x => (s.peers cid c).contains x)))

/-! ### Whose turn it is (R35, R341) -/

/-- The class in which a crew issues: 1 for D-class, and for a crew that has not issued for 4,096 cycles. -/
def State.issueClass (s : State) (c : Crew) : Nat :=
  if (s.launchOf c).elim false (fun l => l.record.classD) || decide (c.lastIssue + 4096 ≤ s.cycle) then 1 else 0

/-- Where the slot that a stream's issue has served last is kept, for a partition and class. -/
def State.turnKey (s : State) (st : Stream) (c : Crew) : Nat :=
  4 * (4 * s.coreOf c + c.part) + 2 * s.issueClass c + (if st = .s then 0 else 1)

/-- Slots between the one served last and the crew's, going round. -/
def State.turnDist (s : State) (st : Stream) (c : Crew) : Nat := (c.idx + 16 - tget 0 s.rr (s.turnKey st c)) % 16

/-- The crew is ready to issue a word of the stream and may, and four cycles have passed since its last L-word. -/
def State.contends (s : State) (cid : Nat) (st : Stream) (c : Crew) : Bool :=
  c.keen st && s.mayIssue cid st c && (st = .s || c.lastWord = 0 || decide (c.lastWord + 3 ≤ s.cycle))

/-- No other crew of the partition has its turn before this one. A crew whose wait has ended takes its turn from when it looks again
(notes/assumptions/98). -/
def State.hasTurn (s : State) (cid : Nat) (st : Stream) (c : Crew) : Bool :=
  s.crews.all (fun y => y.1 = cid || s.coreOf y.2 ≠ s.coreOf c || y.2.part ≠ c.part || !s.contends y.1 st y.2
    || decide (s.issueClass y.2 < s.issueClass c)
    || s.issueClass y.2 = s.issueClass c && decide (s.turnDist st c ≤ s.turnDist st y.2))

/-- Bytes fetched by a crew (R58, R378: access kind fetch). -/
def State.fetch (s : State) (c : Crew) (va n : Nat) : Except AccFault (List Byte) := s.vread (s.ctxOf c) .fetch va n

/-- The address of the next L-word (R21, R27). -/
def State.lAddr (s : State) (c : Crew) : Nat :=
  match c.runs with
  | r :: _ => ((s.kernOf c).lbase.toNat + 12 * (r.loff + r.done)) % 2 ^ 72
  | [] => 0

/-- The bytes and the instruction at the S-PC; an SX form takes its second word too (R222). -/
def State.fetchS (s : State) (c : Crew) : Except AccFault (List Byte × Instr) :=
  match s.fetch c c.pc.toNat 4 with
  | .error f => .error f
  | .ok bs =>
    match decodeSBytes bs with
    | .ok (i, _) => .ok (bs, i)
    | .error _ =>
      match s.fetch c ((c.pc.toNat + 4) % 2 ^ 72) 4 with
      | .error f => .error f
      | .ok more => .ok (bs ++ more, decodeS (leNat bs) (leNat more))

/-- The bytes and the instruction of the next L-word. -/
def State.fetchL (s : State) (c : Crew) : Except AccFault (List Byte × Instr) :=
  match s.fetch c (s.lAddr c) 12 with
  | .error f => .error f
  | .ok bs => .ok (bs, decodeL (leNat bs))

/-- The 32-bit words of fetched bytes. -/
def wordsOf (bs : List Byte) : List Nat := (List.range (bs.length / 4)).map (fun i => leNat ((bs.drop (4 * i)).take 4))

/-! ### Registers of the S-stream that queued words read (R344) -/

/-- The s- and b-registers of an instruction: those that an S-instruction writes, or that an L-word reads. -/
structure Uniforms where
  s : List Nat
  b : List Nat
deriving DecidableEq, Repr

/-- The s- and b-registers that an S-instruction writes. -/
def sWrites : Instr → Uniforms
  | .saddR a | .ssub a | .smulR a | .smulhI a | .smulhN a | .sdivI a | .sdivN a | .sremI a | .sremN a | .sandR a | .sorR a | .sxorR a | .sshlR a | .sshrR a
  | .ssraR a | .sminI a | .sminN a | .smaxI a | .smaxN a | .ssetI a | .ssetN a | .sbit32 a | .sbit64 a | .bgetLo a | .bgetHi a => ⟨[a.sd], []⟩
  | .saddI a | .smulI a | .sandI a | .sorI a | .sxorI a | .sshlI a | .sshrI a | .ssraI a => ⟨[a.sd], []⟩
  | .sldiLo a | .sldiHi a | .sldiSx a => ⟨[a.sd], []⟩
  | .baddR a | .bsetLo a | .bsetHi a | .bmov a => ⟨[], [a.sd % 16]⟩
  | .baddI a => ⟨[], [a.sd % 16]⟩
  | .sldN8 a | .sldI8 a | .sldN16 a | .sldI16 a | .sldN32 a | .sldI32 a | .sld64 a | .satomAdd a | .satomAnd a | .satomOr a | .satomXor a | .satomMin a
  | .satomMax a | .satomMinn a | .satomMaxn a | .satomXchg a | .scas a => ⟨[a.sd], []⟩
  | .call _ => ⟨[], [15]⟩
  | .tget a => ⟨if a.imm % 16 = 1 then [a.sd, a.sd + 1] else [a.sd], []⟩
  | .lnchNb a => ⟨[a.sd], []⟩
  | .sread a => ⟨if isUniform a.num then [a.dst % 64] else [], []⟩
  | _ => ⟨[], []⟩

/-- Operand b from an s-register (R226). -/
def uniB (f : LF) : Uniforms := ⟨if sbB f then [f.vb % 64] else [], []⟩

/-- The base of a lane access, and its uniform offset (R229). -/
def uniEa (f : LF) : Uniforms := ⟨if mOfsk f = 0 then [bits f.low 25 20] else [], [bits f.low 31 28]⟩

/-- The s- and b-registers that an L-word reads. -/
def lReads : Instr → Uniforms
  | .vadd f | .vsub f | .vmul f | .vmulh f | .vmulw f | .vaddc _ f | .vfma _ f | .vdiv _ f | .vdot _ f | .vmin _ f | .vmax _ f | .vclamp f | .vmed3 f | .vsel f
  | .vlerp f | .vsad f | .vcmp _ f | .vand f | .vor f | .vxor f | .vnot f | .vlop3 f | .vshl f | .vshr f | .vsra f | .vbfe f | .vbfi f | .vprmt f | .vldexp f
  | .vpack _ f | .vbscl f | .vshfl _ f | .vshfu _ f | .vshfd _ f | .vshfx _ f => uniB f
  | .vmovs f => ⟨[f.va % 64], []⟩
  | .vld _ f | .vst _ f | .vsmp f | .atom _ f | .cas _ f => uniEa f
  | .cpy f => ⟨if bitAt f.low 13 then [] else [bits f.low 19 14], [bits f.low 31 28, bits f.low 27 24]⟩
  | .mldb _ f => ⟨[bits f.low 27 22, bits f.low 27 22 + 1], [bits f.low 31 28]⟩
  | .smcp f => ⟨[bits f.low 27 22], [bits f.low 31 28]⟩
  | .msca f => ⟨[bits f.low 23 18, bits f.low 23 18 + 1], [bits f.low 31 28, bits f.low 27 24]⟩
  | .collAdd f => ⟨[], [bits f.low 31 28]⟩
  | .collWr f => ⟨if bitAt f.low 21 then [] else [bits f.low 27 22], [bits f.low 31 28]⟩
  | .trav f | .rast f => ⟨[bits f.low 27 22], [bits f.low 31 28]⟩
  | _ => ⟨[], []⟩

/-- The words of a run that have not issued. A word that cannot be fetched reads nothing. -/
def State.queuedWords (s : State) (c : Crew) (r : LRun) : List Instr :=
  ((List.range r.count).drop r.done).filterMap (fun i =>
    match s.fetch c (((s.kernOf c).lbase.toNat + 12 * (r.loff + i)) % 2 ^ 72) 12 with
    | .ok bs => some (decodeL (leNat bs))
    | .error _ => none)

/-- The s-registers that had a pending S write when the run's LRUN issued. -/
def Crew.pendingAt (c : Crew) (r : LRun) : List Nat :=
  r.sAlt.map (fun e => e.1) ++ (c.pend.filter (fun p => r.sPend.contains p.id)).flatMap (fun p => p.ss.map (fun e => e.1))

/-- An S-instruction would write a register that a queued, unissued word reads as it stood at its LRUN (R344). -/
def State.blocked (s : State) (c : Crew) (i : Instr) : Bool :=
  let w := sWrites i
  (!w.s.isEmpty || !w.b.isEmpty) && c.runs.any (fun r => (s.queuedWords c r).any (fun q =>
    w.b.any (fun n => (lReads q).b.contains n) || w.s.any (fun n => (lReads q).s.contains n && !(c.pendingAt r).contains n)))

/-! ### Issue -/

/-- The crew still waits with the word of the stream that it tried to issue. -/
def Crew.waitsAt (c : Crew) (st : Stream) : Bool :=
  match c.wait, st with
  | .marker .s, .s | .stall .s, .s | .again .s, .s | .lnch _, .s | .checked, .s | .marker .l, .l | .stall .l, .l | .again .l, .l | .dry, .l | .queue _ _, .l
  | .pixels _, .l => true
  | _, _ => false

/-- The word has issued: it does not wait, and has not stopped its crew in its place (TRAP, SYSC and BRKPT have issued when they stop it; a break bit's
word has not). -/
def Crew.hasIssued (c : Crew) (st : Stream) : Bool :=
  !c.waitsAt st && c.stop.elim true (fun x => x.len ≠ 0 && (x.trap.cls = 12 || x.trap.cls = 13 || x.trap.cls = 14))

/-- What follows an attempt to issue: the crew has had its slot and its turn, a break passed once is over, writes that a stop held are in its registers
if the word has issued and held as before if not, and a stepped crew stops again (R35, R268, R412, R415). -/
def State.issued (s : State) (cid : Nat) (st : Stream) (step : Bool) (core part key slot : Nat) (held : List Nat) : State :=
  let s := { s with crews := s.crews.map (fun (c : Nat × Crew) => if c.2.yielded.isEmpty then c else (c.1, { c.2 with yielded := c.2.yielded.filter (fun x => x ≠ cid) })) }
  let went := (s.crew? cid).elim true (fun c => c.hasIssued st)
  let s := s.modCrew cid (fun c =>
    if !went then { c with pend := c.pend.map (fun (p : Pending) => if held.contains p.id then { p with held := true } else p) }
    else { c with breakOnce := c.breakOnce.filter (fun x => x ≠ st), lastIssue := s.cycle, lastWord := if st = .l then s.cycle + 1 else c.lastWord })
  let s := if went then { s with rr := tset s.rr key (slot + 1) } else s
  if !step then s
  else
    match s.crew? cid, s.dbg.find? (fun d => d.core = core && d.part = part) with
    | some c, some d => if d.step.isNone then s else s.partitionStop core part [(cid, s.ctxOf c)] []
    | _, _ => s

/-- An outcome continued. -/
def Res.after (r : Res) (f : State → State) : Res :=
  match r with
  | .next s => fin (f s)
  | .fault x => .fault x
  | .refused x => .refused x

/-- One word of a crew's stream issues: it is fetched, its break bit is looked at, and it executes. Where the stream cannot issue, or another crew
has its turn, nothing happens; a crew that is stepped issues whatever the turn. -/
def State.issue (s0 : State) (cid : Nat) (st : Stream) : Res :=
  let s := { s0 with focus := cid }
  match s.crew? cid with
  | none => fin s
  | some c =>
    let step := s.stepping cid st c
    if !(c.ready st && s.mayIssue cid st c && (step || s.hasTurn cid st c)) then fin s
    else
      let held := (c.pend.filter (fun p => p.held)).map (fun p => p.id)
      let after (t : State) : State := t.issued cid st step (s.coreOf c) c.part (s.turnKey st c) c.idx held
      let lanes : W32 := match st with
        | .s => 0
        | .l => (c.runs.head?).elim 0 (fun r => r.mask)
      let f := match st with
        | .s => s.fetchS c
        | .l => s.fetchL c
      match f with
      | .error e => (fin (s.takeTrap cid st 4 (Trap.access .fetch e lanes))).after after
      | .ok (bs, i) =>
        let addr := match st with
          | .s => c.pc.toNat
          | .l => s.lAddr c
        let sb := s.breakBit (s.coreOf c) (s.ctxOf c) st addr
        let c1 : Crew := { c with ir := wordsOf bs }
        let s := sb.1.setCrew cid c1
        if sb.2 && s.breaksOn st c then (fin (s.takeTrap cid st 0 (Trap.plain 12))).after after
        else if st = .s && s.blocked c i then (fin (s.park cid c1 (.stall .s))).after after
        else Res.after (exec i (s.setCrew cid c1.release)) after

end Sys2Proof.Machine
end

