-- ==== Sys2Proof/Machine/Step.lean ====
section
/-! DEFINITION. One step of the machine, and how an instruction is placed where a step fetches it. -/

namespace Sys2Proof.Machine

/-- What the head of the agenda does. An event is a row of the opcode table that has no encoding. -/
def perform (a : Act) (s : State) : Host.Outcome State Fault Refusal :=
  match a with
  | .time ns frac cycles => fin (s.passTimeTo ns frac cycles)
  | .issueS cid => s.issue cid .s
  | .issueL cid => s.issue cid .l
  | .event i => if (encode i).isNone then exec i s else fin s

/-- The act of a step: the next of the agenda; with an empty agenda the focused crew issues, an L-word before an S-instruction. -/
def act (s : State) : Host.Outcome State Fault Refusal :=
  match s.agenda with
  | a :: rest => perform a { s with agenda := rest }
  | [] => s.issue s.focus (if (s.crew? s.focus).elim false (fun c => c.lReady) then .l else .s)

/-- One step: copies under way move on, an act takes place, and what is due then follows (R43, R96). -/
def step (s : State) : Host.Outcome State Fault Refusal := Res.after (act { s with oracle := s.oracle + 1 }.drift) State.settle

/-- Where placed code lies, in context 0: physical and virtual address. -/
def placedAt : Nat := 0x40000

/-- A page table of context 0 whose first TiB maps onto physical memory, readable, writable, sampled and executable. -/
def placedTables : List (Nat × List Byte) :=
  [(0x10000, leBytes 8 0x20001), (0x20000, leBytes 8 0x30001), (0x30000, leBytes 8 0x873)]

/-- The kernel under which a placed instruction runs. -/
def placedKernel : Kernel :=
  { sentry := BitVec.ofNat 72 placedAt, lbase := BitVec.ofNat 72 placedAt, pstack := 0x100000, pstackKib := 1, vregs8 := 32, ftz := false,
    rgrpOk := true, rgrpCore := false, poolB1 := 4, poolB2 := 8, poolB3 := 8, yq := 0, bto := 0, rdepth := 0, payload := 0, sslots := 256,
    acct := 32, ptiles := 8 }

/-- The launch of one crew that stands for a program loaded from outside (notes/assumptions/3). -/
def placedLaunch : Launch :=
  { lid := 0, queue := 0, ring := none, ctx := 0,
    record := { kdesc := 0, args := 0x80000, frame := 0, crews := 1, gang := 0, gx := 1, gy := 1, gz := 1, deadline := 0, est := 0, classD := false,
                shed := false, serial := false, irq := false, bind := 0 },
    bind := Binding.none, kern := placedKernel, frame := none, versions := [], deferred := [], est := 0, tstart := 0, charge := 0, nextWg := 1,
    doneWgs := 0, lateDone := false, gangWait := none, batch := none }

/-- Its workgroup, on core 0. -/
def placedWg : Workgroup :=
  { lid := 0, wgi := 0, core := 0, phase := .resident, block := none, fault := none, scratch := [], lines := [], bars := [], gregs := [], xregs := [],
    mx := Matrix.empty, crews := [0], granules := 32, resident := 0, order := 0, heldSubs := [],
    slots := [(0, 0)] }

/-- The state with an instruction stored where the next step fetches: memory size, a page table and the word in memory; a launch with one
crew, focused, about to issue it from its S-PC (S-words) or from a queued L-run of one word (L-words). The records of what memory held
before and of the accesses to it begin afresh, so that no older translation and no older value may be used. -/
def State.withFetchWord (s : State) (nbits w : Nat) : State :=
  let isL := decide (64 < nbits)
  let c := newCrew placedLaunch 0 0 0 (0, 0) 0 0
  let run : LRun := { loff := 0, count := 1, done := 0, mask := 0xFFFFFFFF, spc := BitVec.ofNat 72 placedAt, sAt := c.s, sAlt := [], bAt := c.b }
  let s1 := (s.w64 0x0010 180000000000).w64 (mmuBlk 0) 0x10001
  let s2 := (placedTables.foldl (fun (t : State) e => t.pwrite e.1 e.2) s1).pwrite placedAt (leBytes 12 w)
  { s2.commit with
    hist := []
    evs := []
    orders := []
    scs := []
    joins := []
    smpSince := []
    invals := []
    oldRoots := []
    icMark := 0
    icLines := []
    agenda := []
    focus := 0
    nextHandle := max 1 s.nextHandle
    launches := [(0, placedLaunch)]
    wgs := [(0, placedWg)]
    crews := [(0, { c with runs := if isL then [run] else [] })] }

end Sys2Proof.Machine
end

