-- ==== Sys2Proof/Safety.lean ====
section
/-! DEFINITION. What counts as a good state and a safe step, in the terms the statements use. -/

namespace Sys2Proof.Machine

/-- What holds between steps: memory in its one canonical form and every byte written by the last step in it. -/
def State.Settled (s : State) : Prop := Memory.wf s.mem = true ∧ s.writes = []

/-- The step goes on: the device itself never stops, a trap of a crew is a next state (R377). -/
def State.GoesOn (s : State) : Prop := ∃ t, step s = .next t

/-- A run of k steps goes on, each from a settled state to a settled state. -/
def State.SafeFor : Nat → State → Prop
  | 0, s => s.Settled
  | k + 1, s => s.Settled ∧ ∃ t, step s = .next t ∧ t.SafeFor k

/-- Only a wait of R28 keeps an S-instruction from its checks. -/
def mayGo (c : Crew) (w drain : Bool) : Bool := !((w || drain) && !c.drained || w && !(c.out .s).isEmpty)

/-- The crew as the checks and effect of an S-instruction see it: markers have delivered what has returned (R345, R346). -/
def waited (o : Nat) (c : Crew) (w drain : Bool) : Crew := if w then (c.mark o .l).mark o .s else if drain then c.mark o .l else c

/-- The crew as an L-word sees it. -/
def waitedL (o : Nat) (c : Crew) (f : LF) : Crew := if f.w then c.mark o .l else c

end Sys2Proof.Machine

namespace Sys2Proof.Claims
open Sys2Proof.Machine

/-! ### What an instruction changes and what it leaves -/

/-- Crew c is in focus with a running path, between steps; its stack is all in the core (R30; a deeper one is `SpilledStack`'s). -/
structure Focus (s : State) (c : Crew) : Prop where
  crew : s.crew? s.focus = some c
  path : c.runPath.isSome = true
  near : c.stack.length ≤ 32
  clean : s.writes = []

/-- Nothing of the device changes but the crew in focus, the event counters of R421 and, at a marker, the places in the order of
memory that it gives (R79, R185). -/
def OnlyCrew (s t : State) (c' : Crew) : Prop := ∃ k v j, t = { s with crews := tset s.crews s.focus c', counters := k, evs := v, joins := j }

/-- The crew has gone on by n bytes of its S-stream; where it stands, what it holds and what it waits for is otherwise as before. A crew
whose path is due to rotate (R34) goes on with another path. -/
structure GoesPast (c c' : Crew) (n : Nat) : Prop where
  pc : c.rotDue = false → c'.pc = c.pc + BitVec.ofNat 72 n
  active : c.rotDue = false → c'.active = c.active
  depth : c'.stack.length = c.stack.length
  threads : c'.threads = c.threads
  runs : c'.runs = c.runs
  key : c'.key = c.key
  stop : c'.stop = c.stop
  slot : c'.g = c.g ∧ c'.id = c.id ∧ c'.part = c.part ∧ c'.idx = c.idx
  wait : c'.wait = .none

/-- The lane registers, predicates, base registers, guard slots and bins are as before. -/
structure KeepsRest (c c' : Crew) : Prop where
  v : c'.v = c.v
  p : c'.p = c.p
  b : c'.b = c.b
  guards : c'.guards = c.guards
  bins : c'.bins = c.bins

/-- The scalar registers and the pending writes are as before. -/
structure KeepsS (c c' : Crew) : Prop where
  s : c'.s = c.s
  pend : c'.pend = c.pend

/-- s[sd] holds x and every other scalar register what it held; a pending write to s[sd] is contested (R345) and no other. -/
structure SetsS (c c' : Crew) (sd : Nat) (x : W64) : Prop where
  value : tget 0 c'.s sd = x
  others : ∀ r, r ≠ sd → tget 0 c'.s r = tget 0 c.s r
  pend : c'.pend = c.pend.map (fun p => p.contest (some sd) none none)

/-- An S-instruction of n bytes completes by writing x to s[sd], and changes nothing else. -/
def WritesS (s : State) (c : Crew) (n sd : Nat) (x : W64) (res : Res) : Prop :=
  ∃ t c', res = .next t ∧ OnlyCrew s t c' ∧ GoesPast c c' n ∧ KeepsRest c c' ∧ SetsS c c' sd x

/-- An S-instruction of 4 bytes completes by writing x to b[bd], and changes nothing else. -/
def WritesB (s : State) (c : Crew) (bd : Nat) (x : VA) (res : Res) : Prop :=
  ∃ t c', res = .next t ∧ OnlyCrew s t c' ∧ GoesPast c c' 4 ∧ KeepsS c c' ∧ tget 0 c'.b bd = x ∧ (∀ r, r ≠ bd → tget 0 c'.b r = tget 0 c.b r)
    ∧ c'.v = c.v ∧ c'.p = c.p ∧ c'.guards = c.guards ∧ c'.bins = c.bins

end Sys2Proof.Claims

namespace Sys2Proof.Claims
open Sys2Proof.Machine

/-- The state as the checks and effect of an S-instruction see it: a marker or drain orders what the crew's threads have done (R79, R185). -/
def seenS (s : State) (c : Crew) (w drain : Bool) : State :=
  let s1 := s.setCrew s.focus (waited s.oracle c w drain)
  if w || drain then (s1.placeRasts c .s).joinStreams s.focus else s1

/-- A new pending write of the S-stream: s[sd] is to get x, poisoned or not (R248, R343). A destination with a pending write already is
contested: which of the two values it keeps is settled at a marker (R345). -/
structure Awaits (c c' : Crew) (sd : Nat) (x : W64) (poison : Bool) : Prop where
  s : c'.s = c.s
  pend : ∃ q, c'.pend = c.pend ++ [q] ∧ q.strm = .s ∧ q.returned = false ∧ q.ready = !poison
    ∧ q.poison = poison ∧ q.vs = [] ∧ q.ps = [] ∧ q.ss = [(sd, x)] ∧ (q.sc = [sd] ∨ q.sc = [] ∧ ∀ p ∈ c.pend, tget? p.ss sd = none)

/-! ### The order of memory (R78 to R95) -/

/-- The graph's form: an event's number is its place, and a byte's order names events of the graph, each once. -/
structure GraphOk (s : State) : Prop where
  ids : ∀ (i : Nat) (e : Ev), s.evs[i]? = some e → e.id = i
  orders : ∀ key, (s.order key).Nodup ∧ ∀ w ∈ s.order key, w < s.evs.length

/-- The bytes have names in the graph: those of memory, and those of scratch within the sizes that R19 and R63 allow. -/
def Named (ls : List Loc) : Prop := ∀ l ∈ ls, locOf l.key = l

/-- Event a is before event e by R87's rules for program order and its table, synchronisation apart. -/
def Precedes (s : State) (a e : Ev) : Prop := a ∈ s.evs ∧ s.edge false [] a e = true

/-- An event that an access from a place has brought into the graph since state s. -/
structure Enters (s t : State) (place : Ev) (y : Sync) (e : Ev) : Prop where
  new : s.evs.length ≤ e.id ∧ e ∈ t.evs
  thr : e.thr = place.thr
  place : e.strm = place.strm ∧ e.start = place.start ∧ e.seen = place.seen ∧ e.fin = place.fin
  what : e.what = .access ∧ e.acq = y.acq ∧ e.rel = y.rel ∧ e.scope = y.scope

/-- A read of bytes returns these values (R88 to R91): each is that of a write to its byte or what it held at first, as an event of the graph says; a
write that precedes the read is not newer than what it returns; and bytes that nothing has written in the graph read as they stand. -/
structure Gets (s t : State) (place : Ev) (y : Sync) (bs : List ByteAt) (got : List Byte) : Prop where
  length : got.length = bs.length
  each : ∀ (i : Nat) (b : ByteAt), bs[i]? = some b → ∃ e x rf, Enters s t place y e ∧ x ∈ e.bytes ∧ x.key = b.key ∧ x.rf = some rf
    ∧ got[i]? = some (s.valueOf b.key rf) ∧ (∀ w, rf = some w → w ∈ s.order b.key)
    ∧ ((∀ a ∈ t.evs, e.po a = false) → e.kind ≠ 2 → ∀ a, Precedes s a e → a.id ∈ s.order b.key → s.rank b.key (some a.id) ≤ s.rank b.key rf)
  still : (∀ b ∈ bs, tget? s.orders b.key = none) → got = bs.map (fun b => s.getLoc (locOf b.key))

/-- A byte is written (R80, R90): its write takes a place in the byte's order, after the lower lanes' writes of its instruction, and the writes that
stood there stay as they were; it is last where all of these precede it or the page is UO; and the byte holds what is last. -/
def Wrote (s t : State) (place : Ev) (y : Sync) (l : Loc) (v : Byte) : Prop :=
  ∃ e x pre mid post, Enters s t place y e ∧ x ∈ e.bytes ∧ x.key = l.key ∧ x.wr = some v
    ∧ t.order l.key = pre ++ mid ++ e.id :: post ∧ pre ++ post = s.order l.key ∧ (∀ m ∈ mid, s.evs.length ≤ m ∧ m < e.id)
    ∧ (e.kind = 2 ∨ (∀ w ∈ s.order l.key, ∃ a, Precedes s a e ∧ a.id = w) → post = [])
    ∧ t.getLoc l = if post = [] then v else s.getLoc l

/-- Bytes are read and written in one step (R94): what is read is the write next before the update's own in each byte's order (R90; on a UO page any
that R91 permits), and the byte holds what is last. -/
def Updates (s t : State) (place : Ev) (y : Sync) (ls : List Loc) (old new : List Byte) : Prop :=
  old.length = ls.length ∧ ∃ e, Enters s t place y e ∧ e.atomic = true ∧ ∀ (i : Nat) (l : Loc), ls[i]? = some l →
    ∃ x rf pre post, x ∈ e.bytes ∧ x.key = l.key ∧ x.rf = some rf ∧ x.wr = new[i]? ∧ old[i]? = some (s.valueOf l.key rf)
      ∧ t.order l.key = pre ++ e.id :: post ∧ pre ++ post = s.order l.key ∧ (if e.kind = 2 then post = [] else rf = pre.getLast?)
      ∧ ((∀ w ∈ s.order l.key, ∃ a, Precedes s a e ∧ a.id = w) → post = [])
      ∧ t.getLoc l = if post = [] then new.getD i 0 else s.getLoc l

/-- The line of scratch stands: its workgroup, or what a retired gang member left. -/
def lineStands (s : State) (x : Nat × Nat) : Bool := if x.1 % 2 = 0 then (s.wg? (x.1 / 2)).isSome else (tget? s.gangs (x.1 / 32)).isSome

/-- The place exists: its workgroup or gang stands. -/
def placeStands (s : State) : Loc → Bool
  | .mem _ => true
  | .scr g _ => (s.wg? g).isSome
  | .left k _ _ => (tget? s.gangs k).isSome

/-- Every byte outside the given places reads as before, other crews stand as before, and no control register changes. -/
structure StoresOnly (s t : State) (ls : List Loc) : Prop where
  bytes : ∀ l, l ∉ ls → t.getLoc l = s.getLoc l
  crews : ∀ k, k ≠ s.focus → t.crew? k = s.crew? k
  regs : t.regs = s.regs
  launches : t.launches = s.launches

/-- An S-instruction takes the given trap with nothing else changed (R377): the crew stops at it. -/
def TrapsS (s : State) (c : Crew) (w drain : Bool) (len : Nat) (x : Trap) (res : Res) : Prop :=
  res = fin ((seenS s c w drain).takeTrap s.focus .s len x)

/-- An S-instruction completes by moving the running path to a target; a taken backward branch lets a path past its quantum rotate (R34). -/
def JumpsTo (s : State) (c c1 : Crew) (pc : VA) (rotates : Bool) (res : Res) (bs : Tbl VA) : Prop :=
  ∃ t c', res = .next t ∧ OnlyCrew s t c' ∧ (rotates = false → c'.pc = pc ∧ c'.active = c1.active) ∧ c'.stack.length = c1.stack.length ∧ KeepsS c1 c'
    ∧ c'.v = c1.v ∧ c'.p = c1.p ∧ c'.b = bs ∧ c'.guards = c1.guards ∧ c'.bins = c1.bins ∧ c'.threads = c1.threads ∧ c'.runs = c1.runs
    ∧ c'.wait = .none ∧ c.g = c'.g

end Sys2Proof.Claims

namespace Sys2Proof.Claims
open Sys2Proof.Machine

/-- An S-instruction of n bytes completes with the crew gone past it and its registers as before, whatever else it did to the device. -/
def PassesS (s : State) (c1 : Crew) (n : Nat) (res : Res) (after : State → Prop) : Prop :=
  ∃ t c', res = .next t ∧ t.crew? s.focus = some c' ∧ GoesPast c1 c' n ∧ KeepsRest c1 c' ∧ KeepsS c1 c' ∧ after t

/-- An S-instruction of 4 bytes completes by writing x to s[sd], whatever else it did to the device. -/
def PassesWriting (s : State) (c1 : Crew) (sd : Nat) (x : W64) (res : Res) (after : State → Prop) : Prop :=
  ∃ t c', res = .next t ∧ t.crew? s.focus = some c' ∧ GoesPast c1 c' 4 ∧ KeepsRest c1 c' ∧ SetsS c1 c' sd x ∧ after t

/-- The launch record stands in the ring's entry and TAIL has advanced (R356, R358). -/
def Appended (s : State) (q : Nat) (bs : List Byte) (ps : List (Nat × Nat)) (t : State) : Prop :=
  t.r32 (qBlk q + 0x28) = (s.r32 (qBlk q + 0x28) + 1) % 2 ^ 32 ∧ ((paList ps).Nodup → (paList ps).map t.rd = bs)
    ∧ (∀ a, a ∉ paList ps → t.rd a = s.rd a) ∧ t.r32 (qBlk q + 0x2C) = s.r32 (qBlk q + 0x2C)

/-- Address of the ring entry at TAIL. -/
def tailVa (s : State) (q : Nat) : Nat :=
  ((s.addr72 (qBlk q + 0x08) (qBlk q + 0x10)).toNat + 64 * (s.r32 (qBlk q + 0x28) % s.qSize q)) % 2 ^ 72

end Sys2Proof.Claims

namespace Sys2Proof.Claims
open Sys2Proof.Machine

/-! ### L-words -/

/-- Crew c is in focus with a run at the head of its queue, between steps, and no wait of its W bit is left (R28). -/
structure FocusL (s : State) (c : Crew) (r : LRun) (rs : List LRun) (f : LF) : Prop where
  crew : s.crew? s.focus = some c
  runs : c.runs = r :: rs
  clean : s.writes = []
  waits : f.w = true → c.out .l = []

/-- The state as the checks and effect of an L-word see it. -/
def seenL (s : State) (c : Crew) (f : LF) : State := (if f.w then s.placeRasts c .l else s).setCrew s.focus (waitedL s.oracle c f)

/-- The lanes of Active (R14, R225). -/
def activeL (s : State) (c : Crew) (r : LRun) (f : LF) : W32 := (waitedL s.oracle c f).activeFor s.oracle r f

/-- The word has issued: its run goes on, or is over (R27); the S-stream's registers and position are as before. -/
structure WordIssued (c c' : Crew) (r : LRun) (rs : List LRun) : Prop where
  runs : c'.runs = if r.done + 1 < r.count then { r with done := r.done + 1 } :: rs else rs
  pc : c'.pc = c.pc
  active : c'.active = c.active
  s : c'.s = c.s
  b : c'.b = c.b
  guards : c'.guards = c.guards
  bins : c'.bins = c.bins
  threads : c'.threads = c.threads
  stop : c'.stop = c.stop

/-- In every lane of Active the n registers from vd hold the value, low register first; every other lane register and every predicate is as
before (R271). -/
structure SetsLanes (c c' : Crew) (act : W32) (n vd : Nat) (val : Nat → Nat) : Prop where
  value : ∀ l < 32, act.getLsbD l = true → ∀ i < n, tget 0 c'.v (32 * (vd + i) + l) = BitVec.ofNat 32 (val l / 2 ^ (32 * i))
  others : ∀ k, (∀ l < 32, act.getLsbD l = true → ∀ i < n, k ≠ 32 * (vd + i) + l) → tget 0 c'.v k = tget 0 c.v k
  p : c'.p = c.p

/-- An L-word of fixed latency completes by writing n registers of every active lane, and changes nothing else. -/
def WritesLanes (s : State) (c : Crew) (r : LRun) (rs : List LRun) (f : LF) (n : Nat) (val : Nat → Nat) (res : Res) : Prop :=
  ∃ t c', res = .next t ∧ OnlyCrew s t c' ∧ WordIssued (waitedL s.oracle c f) c' r rs ∧ SetsLanes (waitedL s.oracle c f) c' (activeL s c r f) n f.vd val

/-- A new pending write of the L-stream for the given registers and predicates (R343); registers keep what they hold until a marker. -/
structure AwaitsLanes (c c' : Crew) (vs : Tbl W32) (ps : Tbl Bool) (poison : Bool) : Prop where
  v : c'.v = c.v
  p : c'.p = c.p
  pend : ∃ q, c'.pend = c.pend ++ [q] ∧ q.strm = .l ∧ q.returned = false ∧ q.ready = !poison ∧ q.poison = poison ∧ q.ss = [] ∧ q.vs = vs ∧ q.ps = ps

/-- An L-word of long latency completes by putting its destinations on their way; with no active lane it changes no register. -/
def AwaitsResult (s : State) (c : Crew) (r : LRun) (rs : List LRun) (f : LF) (vs : Tbl W32) (ps : Tbl Bool) (poison : Bool) (res : Res) : Prop :=
  ∃ t c', res = .next t ∧ OnlyCrew s t c' ∧ WordIssued (waitedL s.oracle c f) c' r rs ∧
    (if activeL s c r f = 0 then c'.v = (waitedL s.oracle c f).v ∧ c'.p = (waitedL s.oracle c f).p ∧ c'.pend = (waitedL s.oracle c f).pend
     else AwaitsLanes (waitedL s.oracle c f) c' vs ps poison)

/-- An L-word takes the given trap with nothing else changed (R377). -/
def TrapsL (s : State) (c : Crew) (f : LF) (x : Trap) (res : Res) : Prop := res = fin ((seenL s c f).takeTrap s.focus .l 12 x)

/-- A lane form as one statement speaks of it: the instruction, whether its fields are defined, the registers it uses, the registers of its
result, and the result of a lane. -/
structure LaneForm where
  instr : Instr
  ok : Bool
  regs : List RBlk
  n : Nat
  val : State → Crew → LRun → Nat → Nat

end Sys2Proof.Claims
end

