-- ==== Sys2Proof/Certificates/Slice0/Obligations.lean ====
section
/-! DEFINITION. The statements for the provers. They use the terms of Safety.lean; the tables of instructions that
one statement speaks of stand here. -/

namespace Sys2Proof.Claims
open Sys2Proof.Machine

/-- R249, register forms: each with the value it writes from s[sa] and s[sb]. -/
def scalarOps (a : SA) : List (Instr × (W64 → W64 → W64)) :=
  [(.saddR a, fun x y => x + y), (.ssub a, fun x y => x - y), (.smulR a, fun x y => x * y),
   (.smulhI a, fun x y => BitVec.ofInt 64 (x.toInt * y.toInt / 2 ^ 64)), (.smulhN a, fun x y => BitVec.ofNat 64 (x.toNat * y.toNat / 2 ^ 64)),
   (.sdivI a, fun x y => if y = 0 then BitVec.allOnes 64 else BitVec.ofInt 64 (x.toInt.tdiv y.toInt)),
   (.sdivN a, fun x y => if y = 0 then BitVec.allOnes 64 else x / y),
   (.sremI a, fun x y => if y = 0 then x else BitVec.ofInt 64 (x.toInt.tmod y.toInt)), (.sremN a, fun x y => if y = 0 then x else x % y),
   (.sandR a, fun x y => x &&& y), (.sorR a, fun x y => x ||| y), (.sxorR a, fun x y => x ^^^ y),
   (.sshlR a, fun x y => x <<< (y.toNat % 64)), (.sshrR a, fun x y => x >>> (y.toNat % 64)), (.ssraR a, fun x y => x.sshiftRight (y.toNat % 64)),
   (.sminI a, fun x y => if x.slt y then x else y), (.sminN a, fun x y => if x < y then x else y),
   (.smaxI a, fun x y => if y.slt x then x else y), (.smaxN a, fun x y => if y < x then x else y)]

/-- R249, SSET and SBIT: the condition or count that func[1:0] names. -/
def scalarTests (a : SA) : List (Instr × (W64 → W64 → W64)) :=
  [(.ssetI a, fun x y => match a.func % 4 with
      | 0 => if x = y then 1 else 0
      | 1 => if x = y then 0 else 1
      | 2 => if x.slt y then 1 else 0
      | _ => if x.slt y then 0 else 1),
   (.ssetN a, fun x y => match a.func % 4 with
      | 0 => if x = y then 1 else 0
      | 1 => if x = y then 0 else 1
      | 2 => if x < y then 1 else 0
      | _ => if x < y then 0 else 1),
   (.sbit32 a, fun x _ => BitVec.ofNat 64 (sbitOp 32 a.func x.toNat)), (.sbit64 a, fun x _ => BitVec.ofNat 64 (sbitOp 64 a.func x.toNat))]

/-- R249, immediate forms: operand b is imm12 sign-extended. -/
def scalarImms (a : SI) : List (Instr × (W64 → W64 → W64)) :=
  [(.saddI a, fun x y => x + y), (.smulI a, fun x y => x * y), (.sandI a, fun x y => x &&& y), (.sorI a, fun x y => x ||| y),
   (.sxorI a, fun x y => x ^^^ y), (.sshlI a, fun x y => x <<< (y.toNat % 64)), (.sshrI a, fun x y => x >>> (y.toNat % 64)),
   (.ssraI a, fun x y => x.sshiftRight (y.toNat % 64))]

/-- R253: bytes and sign of each scalar load. -/
def scalarLoads (a : SM) : List (Instr × Nat × Bool) :=
  [(.sldN8 a, 1, false), (.sldI8 a, 1, true), (.sldN16 a, 2, false), (.sldI16 a, 2, true), (.sldN32 a, 4, false), (.sldI32 a, 4, true),
   (.sld64 a, 8, false)]

/-- R253: bytes of each scalar store. -/
def scalarStores (a : SM) : List (Instr × Nat) := [(.sst8 a, 1), (.sst16 a, 2), (.sst32 a, 4), (.sst64 a, 8)]

/-- R254: what each read-modify-write stores for the old value and its operand. -/
def scalarAtomics (a : SM) (w : Nat) : List (Instr × (BitVec w → BitVec w → BitVec w)) :=
  [(.satomAdd a, fun x y => x + y), (.satomAnd a, fun x y => x &&& y), (.satomOr a, fun x y => x ||| y), (.satomXor a, fun x y => x ^^^ y),
   (.satomMin a, fun x y => if x.slt y then x else y), (.satomMax a, fun x y => if x.slt y then y else x),
   (.satomMinn a, fun x y => if x < y then x else y), (.satomMaxn a, fun x y => if x < y then y else x), (.satomXchg a, fun _ y => y)]

/-- R255: the condition of each JMPC. -/
def jumpConds (a : SJ) : List (Instr × (W64 → Bool)) :=
  [(.jmpcEqz a, fun x => x = 0), (.jmpcNez a, fun x => x ≠ 0), (.jmpcLtz a, fun x => x.slt 0), (.jmpcGez a, fun x => !(x.slt 0))]

/-- Where a JMP, JMPC or CALL goes (R224). -/
def jumpTarget (c : Crew) (a : SJ) : VA := c.pc + (BitVec.ofNat 21 a.off).signExtend 72 * 4

/-- A taken branch rotates its path (R34). -/
def rotatesOn (s : State) (c : Crew) (backward : Bool) : Bool := backward && decide ((s.kernOf c).quantum ≤ (c.runPath.elim 0 Entry.age))

end Sys2Proof.Claims

open Sys2Proof Sys2Proof.Machine Sys2Proof.Claims

/-! ### The scalar unit -/

/-- R249, R250: each register form completes with the value of its row in s[sd], and changes nothing else. -/
def Sys2Proof.Claims.ScalarRegisterForms : Prop :=
  ∀ (s : State) (c : Crew) (a : SA), Focus s c → mayGo c a.w false = true →
    ∀ e ∈ scalarOps a, WritesS s (waited s.oracle c a.w false) 4 a.sd
      (e.2 ((waited s.oracle c a.w false).sRd s.oracle a.sa) ((waited s.oracle c a.w false).sRd s.oracle a.sb)) (exec e.1 s)

/-- R249: SSET writes 1 where its condition holds and else 0; SBIT writes its count or reversal. -/
def Sys2Proof.Claims.ScalarTestsAndBitCounts : Prop :=
  ∀ (s : State) (c : Crew) (a : SA), Focus s c → mayGo c a.w false = true →
    ∀ e ∈ scalarTests a, WritesS s (waited s.oracle c a.w false) 4 a.sd
      (e.2 ((waited s.oracle c a.w false).sRd s.oracle a.sa) ((waited s.oracle c a.w false).sRd s.oracle a.sb)) (exec e.1 s)

/-- R224, R249: each immediate form takes imm12 sign-extended as operand b. -/
def Sys2Proof.Claims.ScalarImmediateForms : Prop :=
  ∀ (s : State) (c : Crew) (a : SI), Focus s c → mayGo c a.w false = true →
    ∀ e ∈ scalarImms a, WritesS s (waited s.oracle c a.w false) 4 a.sd
      (e.2 ((waited s.oracle c a.w false).sRd s.oracle a.sa) ((BitVec.ofNat 12 a.imm).signExtend 64)) (exec e.1 s)

/-- R251: SLDI sets the low half with zeros above, the high half alone, or the whole register by sign extension, and takes 8 bytes. -/
def Sys2Proof.Claims.ScalarLoadImmediate : Prop :=
  ∀ (s : State) (c : Crew) (a : SX), Focus s c → a.wf = true → mayGo c a.w false = true →
    let c1 := waited s.oracle c a.w false
    WritesS s c1 8 a.sd ((BitVec.ofNat 32 a.imm).zeroExtend 64) (exec (.sldiLo a) s)
    ∧ WritesS s c1 8 a.sd (BitVec.ofNat 32 a.imm ++ (c1.sRd s.oracle a.sd).extractLsb' 0 32) (exec (.sldiHi a) s)
    ∧ WritesS s c1 8 a.sd ((BitVec.ofNat 32 a.imm).signExtend 64) (exec (.sldiSx a) s)

/-- R252, R224: the base-register forms; the fields that name base registers use their low 4 bits. -/
def Obligations.BaseRegisterForms : Prop :=
  ∀ (s : State) (c : Crew) (a : SA) (k : SI), Focus s c → mayGo c a.w false = true → k.w = a.w →
    let c1 := waited s.oracle c a.w false
    WritesB s c1 (a.sd % 16) (c1.bRd (a.sa % 16) + (c1.sRd s.oracle a.sb).signExtend 72) (exec (.baddR a) s)
    ∧ WritesB s c1 (k.sd % 16) (c1.bRd (k.sa % 16) + (BitVec.ofNat 12 k.imm).signExtend 72) (exec (.baddI k) s)
    ∧ WritesB s c1 (a.sd % 16) ((c1.sRd s.oracle a.sa).zeroExtend 72) (exec (.bsetLo a) s)
    ∧ WritesB s c1 (a.sd % 16) ((c1.sRd s.oracle a.sa).extractLsb' 0 8 ++ (c1.bRd (a.sd % 16)).extractLsb' 0 64) (exec (.bsetHi a) s)
    ∧ WritesB s c1 (a.sd % 16) (c1.bRd (a.sa % 16)) (exec (.bmov a) s)
    ∧ WritesS s c1 4 a.sd ((c1.bRd (a.sa % 16)).extractLsb' 0 64) (exec (.bgetLo a) s)
    ∧ WritesS s c1 4 a.sd (((c1.bRd (a.sa % 16)).extractLsb' 64 8).zeroExtend 64) (exec (.bgetHi a) s)

/-! ### Scalar memory -/

/-- R253, R248: a scalar load whose bytes lie at present places with permission completes with its value, extended, on its way to s[sd]; the
bytes are among those that R88 to R91 let its threads read, as they stand where nothing has written them in the graph.
The model's own choices in it: log entry 5. -/
def Obligations.ScalarLoads : Prop :=
  ∀ (s : State) (c : Crew) (a : SM), Focus s c → GraphOk s → mayGo c a.w false = true → ordOk .load a.ordk = true → scopeOk a.ordk a.scope = true →
    let c1 := waited s.oracle c a.w false
    let s1 := seenS s c a.w false
    (a.space = 0 ∨ s1.displaced c1 = false) → c1.tableFull .s = false →
    ∀ e ∈ scalarLoads a, ∀ ls, s1.locate c1 (smSpace a) .load (smEa s.oracle c1 a) e.2.1 = .ok ls → s1.absent ls = false →
      ∃ t c' got, exec e.1 s = .next t ∧ OnlyCrew s t c' ∧ GoesPast c1 c' 4 ∧ KeepsRest c1 c'
        ∧ Gets s1 t (s1.sPlace c1) (smSync a) (s1.bytesAt (s1.ctxOf c1) (smSpace a) (smEa s.oracle c1 a) ls) got
        ∧ (Named ls → (∀ l ∈ ls, tget? s.orders l.key = none) → leNat got = s1.getLocs ls)
        ∧ Awaits c1 c' a.sd (if e.2.2 then (BitVec.ofNat (8 * e.2.1) (leNat got)).signExtend 64
          else (BitVec.ofNat (8 * e.2.1) (leNat got)).zeroExtend 64) (s1.poisonedLocs ls)

/-- R253: a scalar store writes the low bytes of s[sd] at its effective address, and no other byte changes. Each byte takes its place in the order
of the writes to it, and holds the store's value unless a write that nothing puts before the store stands after it (R90).
The model's own choices in it: log entry 5. -/
def Obligations.ScalarStores : Prop :=
  ∀ (s : State) (c : Crew) (a : SM), Focus s c → GraphOk s → s.Settled → mayGo c a.w false = true → ordOk .store a.ordk = true →
    scopeOk a.ordk a.scope = true →
    let c1 := waited s.oracle c a.w false
    let s1 := seenS s c a.w false
    (a.space = 0 ∨ s1.displaced c1 = false) →
    ∀ e ∈ scalarStores a, ∀ ls, s1.locate c1 (smSpace a) .store (smEa s.oracle c1 a) e.2 = .ok ls → s1.absent ls = false →
      s1.poisonedLocs ls = false → Named ls → (∀ l ∈ ls, placeStands s1 l = true) →
      ∃ t c', exec e.1 s = .next t ∧ t.crew? s.focus = some c' ∧ StoresOnly s t ls ∧ GoesPast c1 c' 4 ∧ KeepsRest c1 c' ∧ KeepsS c1 c' ∧
        (ls.Nodup → ∀ (i : Nat) (l : Loc), ls[i]? = some l →
          Wrote s1 t (s1.sPlace c1) (smSync a) l (BitVec.ofNat 8 ((c1.sRd s.oracle a.sd).toNat / 2 ^ (8 * i))))

/-- R254: a scalar read-modify-write stores its row's value of the old word and s[sd], and the old word is on its way to s[sd].
The model's own choices in it: log entry 5. -/
def Obligations.ScalarAtomics : Prop :=
  ∀ (s : State) (c : Crew) (a : SM), Focus s c → GraphOk s → s.Settled → mayGo c a.w false = true → scopeOk a.ordk a.scope = true →
    let c1 := waited s.oracle c a.w false
    let s1 := seenS s c a.w false
    let n := if a.w64 = 1 then 8 else 4
    (a.space = 0 ∨ s1.displaced c1 = false) → c1.tableFull .s = false → smEa s.oracle c1 a % n = 0 →
    ∀ ls, s1.locate c1 (smSpace a) .atomic (smEa s.oracle c1 a) n = .ok ls → s1.absent ls = false → s1.poisonedLocs ls = false → ls.Nodup → Named ls →
      (∀ l ∈ ls, placeStands s1 l = true) →
      let arg := BitVec.ofNat (8 * n) (c1.sRd s.oracle a.sd).toNat
      let goes (i : Instr) (f : BitVec (8 * n) → BitVec (8 * n)) : Prop := ∃ t c' old, exec i s = .next t ∧ t.crew? s.focus = some c' ∧ StoresOnly s t ls
        ∧ GoesPast c1 c' 4 ∧ KeepsRest c1 c' ∧ Updates s1 t (s1.sPlace c1) (smSync a) ls old (leBytes n (f (BitVec.ofNat (8 * n) (leNat old))).toNat)
        ∧ ((∀ l ∈ ls, tget? s.orders l.key = none) → leNat old = s1.getLocs ls) ∧ Awaits c1 c' a.sd ((BitVec.ofNat (8 * n) (leNat old)).zeroExtend 64) false
      (∀ e ∈ scalarAtomics a (8 * n), goes e.1 (fun old => e.2 old arg))
      ∧ (a.sd % 2 = 0 → goes (.scas a) (fun old => if old = arg then BitVec.ofNat (8 * n) (c1.sRd s.oracle (a.sd + 1)).toNat else old))

/-! ### Uniform control flow -/

/-- R255, R34: JMP goes to its target; JMPC goes there when its condition holds of s[56 + COND], and else past itself. -/
def Sys2Proof.Claims.UniformJumps : Prop :=
  ∀ (s : State) (c : Crew) (a : SJ), Focus s c → a.wf = true → mayGo c a.w false = true →
    let c1 := waited s.oracle c a.w false
    let back := (BitVec.ofNat 21 a.off).slt 0
    JumpsTo s c c1 (jumpTarget c1 a) (rotatesOn (seenS s c a.w false) c1 back) (exec (.jmp a) s) c1.b
    ∧ ∀ e ∈ jumpConds a,
        (e.2 (c1.sRd s.oracle (56 + a.cond)) = true →
          JumpsTo s c c1 (jumpTarget c1 a) (rotatesOn (seenS s c a.w false) c1 back) (exec e.1 s) c1.b)
        ∧ (e.2 (c1.sRd s.oracle (56 + a.cond)) = false →
          ∃ t c', exec e.1 s = .next t ∧ OnlyCrew s t c' ∧ GoesPast c1 c' 4 ∧ KeepsRest c1 c' ∧ KeepsS c1 c')

/-- R255: CALL writes the S-PC of the next instruction to b15 and jumps; RET goes to b[sa], and a target that is not a multiple of 4 is an
alignment fault at the RET. -/
def Sys2Proof.Claims.CallAndReturn : Prop :=
  ∀ (s : State) (c : Crew) (a : SJ) (r : SA), Focus s c → a.wf = true → mayGo c a.w false = true → r.w = a.w →
    let c1 := waited s.oracle c a.w false
    let dest := c1.bRd (r.sa % 16)
    JumpsTo s c c1 (jumpTarget c1 a) false (exec (.call a) s) (tset c1.b 15 (c1.pc + 4))
    ∧ (dest.toNat % 4 = 0 → JumpsTo s c c1 dest false (exec (.ret r) s) c1.b)
    ∧ (dest.toNat % 4 ≠ 0 → TrapsS s c r.w false 4 (Trap.align .fetch dest.toNat 0) (exec (.ret r) s))

/-! ### Divergence, runs, exit -/

/-- R31: BRD with no lane taking, with every lane taking, and with both: then a join entry and the two paths stand on the stack, the
taken one on top, unless the stack is full. -/
def Sys2Proof.Claims.BranchDivergent : Prop :=
  ∀ (s : State) (c : Crew) (a : SB), Focus s c → mayGo c a.w true = true → a.xoff ≠ 0 →
    let c1 := waited s.oracle c a.w true
    let s1 := seenS s c a.w true
    let taken := c1.active &&& c1.pMask s.oracle a.p
    let goes := c1.active &&& ~~~taken
    let dest := c1.pc + (BitVec.ofNat 10 a.off).signExtend 72 * 4
    (taken = 0 → ∃ t c', exec (.brd a) s = .next t ∧ OnlyCrew s t c' ∧ GoesPast c1 c' 4 ∧ KeepsRest c1 c' ∧ KeepsS c1 c')
    ∧ (taken ≠ 0 → goes = 0 → JumpsTo s c c1 dest (rotatesOn s1 c1 ((BitVec.ofNat 10 a.off).slt 0)) (exec (.brd a) s) c1.b)
    ∧ (taken ≠ 0 → goes ≠ 0 → c1.stack.length ≤ 30 →
        ∃ t c' rest, exec (.brd a) s = .next t ∧ OnlyCrew s t c'
          ∧ c'.stack = .path dest taken (some c1.nextJoin) 0 none :: .path (c1.pc + 4) goes (some c1.nextJoin) 0 none :: rest
          ∧ rest.length = c1.stack.length ∧ (∃ l, Entry.join c1.nextJoin (c1.pc + BitVec.ofNat 72 (4 * a.xoff)) 0 2 l ∈ rest)
          ∧ KeepsRest c1 c' ∧ KeepsS c1 c' ∧ c'.threads = c1.threads ∧ c'.nextJoin = c1.nextJoin + 1)

/-- R32: JOIN of a path that has no join entry, or one with another reconvergence point, goes past itself; at its own reconvergence point
the path leaves the stack and its lanes reach the join entry. -/
def Sys2Proof.Claims.JoinReconverges : Prop :=
  ∀ (s : State) (c : Crew) (a : SR), Focus s c → mayGo c a.w true = true →
    let c1 := waited s.oracle c a.w true
    let mine := c1.runPath.bind (fun e => c1.joinOf e.link)
    ((∀ j, mine = some j → j.pc ≠ c1.pc) →
      ∃ t c', exec (.join a) s = .next t ∧ OnlyCrew s t c' ∧ GoesPast c1 c' 4 ∧ KeepsRest c1 c' ∧ KeepsS c1 c')
    ∧ (∀ j, mine = some j → j.pc = c1.pc →
      ∃ t c', exec (.join a) s = .next t ∧ OnlyCrew s t c' ∧ c'.stack = (c1.leave c1.active).stack ∧ KeepsRest c1 c' ∧ KeepsS c1 c'
        ∧ c'.threads = c1.threads ∧ c'.runs = c1.runs)

/-- R30, R23, R384: of a stack deeper than 32 entries those below the top 32 lie in the crew's private area: an S-instruction finds them there and
leaves them there as they are after it, or takes the fault of reading them, or the machine check of reading poisoned data. -/
def Sys2Proof.Claims.SpilledStack : Prop :=
  ∀ (s : State) (c : Crew) (a : SA), s.crew? s.focus = some c → c.runPath.isSome = true → 32 < c.stack.length → s.writes = [] → mayGo c a.w false = true →
    let c1 := waited s.oracle c a.w false
    let s1 := seenS s c a.w false
    let area := (s.privateArea c).1
    let n := 32 * (c.stack.length - 32)
    ∀ e ∈ scalarOps a,
      (∀ f, s.access (s.ctxOf c) .load area n = .error f → TrapsS s c a.w false 4 (Trap.access .load f 0) (exec e.1 s))
      ∧ (∀ ps, s.access (s.ctxOf c) .load area n = .ok ps → s.touchesPoison ps = true → TrapsS s c a.w false 4 (poisonTrap (s1.coreOf c1)) (exec e.1 s))
      ∧ (∀ ps qs, s.access (s.ctxOf c) .load area n = .ok ps → s.touchesPoison ps = false → s.rdPieces ps = spillBytes c.stack →
        s.access (s.ctxOf c) .store area n = .ok qs → (paList qs).Nodup →
        ∃ t c', exec e.1 s = .next t ∧ t.crew? s.focus = some c' ∧ GoesPast c1 c' 4 ∧ KeepsRest c1 c' ∧ SetsS c1 c' a.sd (e.2 (c1.sRd s.oracle a.sa) (c1.sRd s.oracle a.sb))
          ∧ (paList qs).map t.rd = spillBytes c'.stack ∧ (∀ x, x ∉ paList qs → t.rd x = s.rd x) ∧ t.launches = s.launches ∧ t.regs = s.regs)

namespace Sys2Proof.Claims

/-- Each of some threads has made a fence (R83 to R86), of kind 0 ACQ, 1 REL, 2 AR or 3 SC; the SC fences have their places in their one order. -/
def FencesOf (t : State) (n : Nat) (ts : List Thread) (kind scope mask : Nat) (u : Bool) : Prop :=
  ∀ x ∈ ts, ∃ e ∈ t.evs, n ≤ e.id ∧ e.thr = [.thread x] ∧ e.what = (if kind = 3 then .sc else .fence) ∧ e.acq = decide (kind ≠ 1)
    ∧ e.rel = decide (kind ≠ 0) ∧ e.scope = scope ∧ e.mask = mask ∧ e.u = u ∧ (kind = 3 → e.id ∈ t.scs)

end Sys2Proof.Claims

/-- R27, R79, R344: LRUN appends a run with the mask of the running path and s and b as they stand, and goes past itself; FENCE, NOP and every
hint go past themselves, a fence being one of each thread of the running path, and one that acquires with SMP in its mask invalidating its core's sampler cache (R267, R270,
R236).
The model's own choices in it: log entries 5, 25. -/
def Obligations.RunsFencesAndNoOperations : Prop :=
  ∀ (s : State) (c : Crew) (a : SL) (f : SF) (n : SR) (op : Nat), Focus s c →
    (mayGo c a.w false = true → a.loff + a.cnt ≤ 131071 → (waited s.oracle c a.w false).runs.length < 4 →
      let c1 := waited s.oracle c a.w false
      ∃ t c' r, exec (.lrun a) s = .next t ∧ OnlyCrew s t c' ∧ c'.runs = c1.runs ++ [r] ∧ r.loff = a.loff ∧ r.count = a.cnt + 1 ∧ r.done = 0
        ∧ r.mask = c1.active ∧ r.spc = c1.pc ∧ r.sAt = c1.s ∧ r.bAt = c1.b ∧ r.since = s.evs.length ∧ (c1.rotDue = false → c'.pc = c1.pc + 4) ∧ KeepsRest c1 c' ∧ KeepsS c1 c')
    ∧ (GraphOk s → mayGo c f.w true = true → f.scope < 6 →
      let c1 := waited s.oracle c f.w true
      ∃ t c' k m v sc j, exec (.fence f) s = .next t
        ∧ t = { s with crews := tset s.crews s.focus c', counters := k, smpSince := m, evs := v, scs := sc, joins := j } ∧ GoesPast c1 c' 4
        ∧ FencesOf t s.evs.length ((c1.threads.filter (fun e => c1.active.getLsbD e.1)).map (fun e => e.2)) f.kind f.scope f.mask (f.u = 1)
        ∧ KeepsRest c1 c' ∧ KeepsS c1 c'
        ∧ m = (if f.kind ≠ 1 ∧ bitAt f.mask 2 then tset s.smpSince (s.coreOf c1) s.hist.length else s.smpSince))
    ∧ (mayGo c n.w false = true → ∀ e ∈ [Instr.nop n, Instr.sHint op n],
      let c1 := waited s.oracle c n.w false
      ∃ t c', exec e s = .next t ∧ OnlyCrew s t c' ∧ GoesPast c1 c' 4 ∧ KeepsRest c1 c' ∧ KeepsS c1 c')

/-- R33, R37, R20: EXIT retires the threads of the running path's lanes, and only those; a crew left without a thread may retire with them. -/
def Obligations.ExitRetiresLanes : Prop :=
  ∀ (s : State) (c : Crew) (a : SR), Focus s c → mayGo c a.w true = true →
    let c1 := waited s.oracle c a.w true
    let left := c1.threads.filter (fun e => !(c1.active.getLsbD e.1))
    ∃ t, exec (.exit a) s = .next t ∧ ((left = [] ∧ t.crew? s.focus = none)
      ∨ ∃ c', t.crew? s.focus = some c' ∧ c'.threads = left ∧ KeepsRest c1 c' ∧ KeepsS c1 c' ∧ c'.runs = c1.runs)

/-! ### Barriers, time, launches -/

/-- R36, R87: BAR and GBAR: the threads of the running path arrive, a point that their accesses to GLB, SCR, STR and REC come before, the byte count is added once, the clock starts; the barrier opens when
every live thread has arrived and no byte is pending. -/
def Obligations.BarrierArrival : Prop :=
  ∀ (s : State) (c : Crew) (a : SA), Focus s c → mayGo c a.w true = true →
    let c1 := waited s.oracle c a.w true
    let s1 := seenS s c a.w true
    let here := (c1.threads.filter (fun e => c1.active.getLsbD e.1)).map (fun e => e.2)
    let arrive (b : Barrier) : Barrier :=
      { b with arrived := b.arrived ++ here.filter (fun x => !b.arrived.contains x),
               counter := (b.counter + (c1.sRd s.oracle a.sa).toNat % 2 ^ 32) % 2 ^ 32, clock := some (b.clock.getD 0),
               pre := b.pre ++ [s.evs.length] }
    let after (r : BarRef) : Barrier :=
      let b := arrive (s1.barrier r)
      if b.counter = 0 ∧ b.arrived ≠ [] ∧ ∀ x ∈ s1.barThreads r, x ∈ b.arrived then ⟨[], 0, none, b.phase + 1, []⟩ else b
    let point (t : State) : Prop := ∃ e, t.evs[s.evs.length]? = some e ∧ e.what = .point ∧ e.mask = 27 ∧ e.thr = here.map Agent.thread
    s1.displaced c1 = false →
    ((s1.wg? c1.g).isSome = true → ∃ t, exec (.bar a) s = .next t ∧ point t ∧ t.barrier (.wg c1.g (a.sd % 16)) = after (.wg c1.g (a.sd % 16)))
    ∧ (let gi := s1.wgiOf c1 / s1.gangSize (s1.lidOf c1)
       let r := BarRef.gang (s1.lidOf c1) gi (a.sd % 16)
       s1.gangSize (s1.lidOf c1) ≠ 0 → (tget? s1.gangs (gangKey (s1.lidOf c1) gi)).isSome = true →
       ∃ t, exec (.gbar a) s = .next t ∧ point t ∧ t.barrier r = after r)

/-- R44, R259: TGET writes what its selector names: the time, the time with its fraction in the next register, the bound frame's number,
presentation time or deadline (all ones without a frame), or the lock state. -/
def Sys2Proof.Claims.TimeReads : Prop :=
  ∀ (s : State) (c : Crew) (a : SI), Focus s c → mayGo c a.w false = true →
    let c1 := waited s.oracle c a.w false
    let s1 := seenS s c a.w false
    let frame (f : FrameCap → Nat) : W64 := match (s1.launchOf c1).bind (fun l => l.frame) with
      | some x => BitVec.ofNat 64 (f x)
      | none => BitVec.allOnes 64
    (a.imm % 16 = 0 → WritesS s c1 4 a.sd (BitVec.ofNat 64 s.tnow) (exec (.tget a) s))
    ∧ (a.imm % 16 = 1 → a.sd % 2 = 0 → ∃ t c', exec (.tget a) s = .next t ∧ OnlyCrew s t c' ∧ GoesPast c1 c' 4 ∧ KeepsRest c1 c'
        ∧ tget 0 c'.s a.sd = BitVec.ofNat 64 s.tnow ∧ tget 0 c'.s (a.sd + 1) = BitVec.ofNat 64 s.tfrac
        ∧ ∀ r, r ≠ a.sd → r ≠ a.sd + 1 → tget 0 c'.s r = tget 0 c1.s r)
    ∧ (a.imm % 16 = 2 → WritesS s c1 4 a.sd (frame (fun f => f.frameNo)) (exec (.tget a) s))
    ∧ (a.imm % 16 = 3 → WritesS s c1 4 a.sd (frame (fun f => f.pres)) (exec (.tget a) s))
    ∧ (a.imm % 16 = 4 → WritesS s c1 4 a.sd (frame (fun f => f.deadline)) (exec (.tget a) s))
    ∧ (a.imm % 16 = 5 → WritesS s c1 4 a.sd (BitVec.ofNat 64 s.lock) (exec (.tget a) s))
    ∧ (5 < a.imm % 16 ∨ a.imm % 16 = 1 ∧ a.sd % 2 = 1 → TrapsS s c a.w false 4 Trap.illegal (exec (.tget a) s))

/-- R45, R43: TWAIT and TWAIT.PRES park the crew past themselves until their time; a time already reached parks for no time, and the
all-ones time never comes. TWAIT.PRES adds a signed offset to the bound frame's presentation time. -/
def Sys2Proof.Claims.TimeWaits : Prop :=
  ∀ (s : State) (c : Crew) (a : SA), Focus s c → mayGo c a.w true = true →
    let c1 := waited s.oracle c a.w true
    let s1 := seenS s c a.w true
    let waits (x : Option Nat) (i : Instr) : Prop :=
      if s1.reached x = true then ∃ t c', exec i s = .next t ∧ OnlyCrew s t c' ∧ GoesPast c1 c' 4 ∧ KeepsRest c1 c' ∧ KeepsS c1 c'
      else ∃ t c', exec i s = .next t ∧ OnlyCrew s t c' ∧ c'.wait = .twait x ∧ c'.stack.length = c1.stack.length ∧ KeepsRest c1 c' ∧ KeepsS c1 c'
        ∧ c'.threads = c1.threads ∧ c'.pc = c1.pc + 4
    waits (let x := (c1.sRd s.oracle a.sa).toNat; if x = 2 ^ 64 - 1 then none else some x) (.twait a)
    ∧ (∀ f, (s1.launchOf c1).bind (fun l => l.frame) = some f →
        let sum : Int := f.pres + (c1.sRd s.oracle a.sa).toInt
        waits (if sum < 0 then some 0 else if 2 ^ 64 - 1 ≤ sum then none else some sum.toNat) (.twaitPres a))

/-- R260, R358: a launch instruction whose queue accepts it appends its record to the ring; with the queue full LNCH keeps the record it
has read and parks, while LNCH.NB writes 1; LNCH.NB writes 2 where LNCH traps as an illegal instruction. -/
def Obligations.LaunchInstructions : Prop :=
  ∀ (s : State) (c : Crew) (a : SM6) (u : State) (bs : List Byte), Focus s c → s.Settled → mayGo c a.w true = true →
    let c1 := waited s.oracle c a.w true
    let s1 := seenS s c a.w true
    let ok := s1.lnchOk (s1.ctxOf c1) a.low
    let full := decide (s1.qSize a.low ≤ s1.qCount a.low)
    s1.launchBytes c1 a = .ok (u, bs) → bs.length = 64 →
    (ok = true → full = false → ∀ ps, s1.access (s1.qCtx a.low) .ring (tailVa s1 a.low) 64 = .ok ps →
      PassesS s c1 4 (exec (.lnch a) s) (Appended s a.low bs ps) ∧ PassesWriting s c1 a.sd 0 (exec (.lnchNb a) s) (Appended s a.low bs ps))
    ∧ (ok = true → full = true →
      exec (.lnch a) s = fin (u.park s.focus c1 (.lnch bs)) ∧ WritesS s c1 4 a.sd 1 (exec (.lnchNb a) s))
    ∧ (ok = false → TrapsS s c a.w true 4 Trap.illegal (exec (.lnch a) s) ∧ WritesS s c1 4 a.sd 2 (exec (.lnchNb a) s))

/-! ### Guards, bins, special registers -/

/-- R261, R263: with no command of the crew waiting, GSET.T, GSET.F and GCLR give their slot TRUE, FALSE and UNBOUND; GSET.TRIG gives TRUE
when the counter has reached the threshold, and else a watch; BINC adds s[sa][31:0] to its bin modulo 2^32. -/
def Obligations.GuardsAndBins : Prop :=
  ∀ (s : State) (c : Crew) (a : SA) (g : SM6), Focus s c → mayGo c a.w false = true → g.w = a.w →
    let c1 := waited s.oracle c a.w false
    let s1 := seenS s c a.w false
    let sets (i : Instr) (slot : Nat) (x : Guard) : Prop :=
      ∃ t c', exec i s = .next t ∧ OnlyCrew s.noteHeads t c' ∧ GoesPast c1 c' 4 ∧ KeepsS c1 c' ∧ c'.v = c1.v ∧ c'.p = c1.p ∧ c'.b = c1.b ∧ c'.bins = c1.bins
        ∧ tget .unbound c'.guards slot = x ∧ ∀ j, j ≠ slot → tget .unbound c'.guards j = tget .unbound c1.guards j
    let at_ := ea (c1.bRd g.b) (soff (c1.sRd s.oracle g.sb))
    let thr := (c1.sRd s.oracle g.low).toNat
    ((∀ k ∈ s.cmds, k.cid ≠ s.focus) → (∀ k ∈ s.copies, k.cid ≠ s.focus) →
      sets (.gsetT a) (a.sd % 16) .yes ∧ sets (.gsetF a) (a.sd % 16) .no ∧ sets (.gclr a) (a.sd % 16) .unbound
      ∧ ∀ bs, at_ % 8 = 0 → s1.vread (s1.ctxOf c1) .watch at_ 8 = .ok bs →
          sets (.gsetTrig g) (g.sd % 16) (if thr ≤ leNat bs then .yes else .watch (BitVec.ofNat 72 at_) thr c1.sPos false none))
    ∧ (at_ % 8 ≠ 0 → TrapsS s c a.w false 4 (Trap.align .watch at_ 0) (exec (.gsetTrig g) s))
    ∧ ∃ t c', exec (.binc a) s = .next t ∧ OnlyCrew s t c' ∧ GoesPast c1 c' 4 ∧ KeepsS c1 c' ∧ c'.v = c1.v ∧ c'.p = c1.p ∧ c'.b = c1.b
        ∧ c'.guards = c1.guards ∧ tget 0 c'.bins (a.sd % 16) = (tget 0 c1.bins (a.sd % 16) + (c1.sRd s.oracle a.sa).toNat % 2 ^ 32) % 2 ^ 32
        ∧ ∀ j, j ≠ a.sd % 16 → tget 0 c'.bins j = tget 0 c1.bins j

/-- R24, R233, R265: SREAD writes a uniform special register to s[dst[5:0]]: CREWID, WGID, GANGID, TIME, its fraction, FRAME, KEY; and the
per-lane ones, LANEID to v[dst] and ORIGIN to the pair from v[dst], in every active lane. A number with no readable register, and a per-lane
destination that is no register (for ORIGIN no aligned pair), are illegal. -/
def Obligations.SpecialRegisterReads : Prop :=
  ∀ (s : State) (c : Crew) (a : SP), Focus s c →
    (mayGo c a.w false = true →
      let c1 := waited s.oracle c a.w false
      let s1 := seenS s c a.w false
      let gives (x : W64) : Prop := WritesS s c1 4 (a.dst % 64) x (exec (.sread a) s)
      (a.num = 1 → gives (BitVec.ofNat 64 c1.id))
      ∧ (∀ m x y z, a.num = 2 → s1.launchOf c1 = some m → x < m.record.gx → y < m.record.gy →
          s1.wgiOf c1 = x + m.record.gx * (y + m.record.gy * z) → gives (BitVec.ofNat 64 (x + 2 ^ 20 * y + 2 ^ 40 * z)))
      ∧ (∀ m, a.num = 3 → s1.launchOf c1 = some m → gives (if m.record.gang = 0 then BitVec.allOnes 64
          else BitVec.ofNat 64 (s1.wgiOf c1 % m.record.gang + 16 * (s1.wgiOf c1 / m.record.gang))))
      ∧ (a.num = 5 → gives (BitVec.ofNat 64 s.tnow))
      ∧ (a.num = 6 → gives (BitVec.ofNat 64 s.tfrac))
      ∧ (a.num = 7 → gives (((s1.launchOf c1).bind (fun l => l.frame)).elim (BitVec.allOnes 64) (fun f => BitVec.ofNat 64 f.frameNo)))
      ∧ (a.num = 8 → gives (BitVec.ofNat 64 c1.key)))
    ∧ (mayGo c a.w true = true →
      let c1 := waited s.oracle c a.w true
      let s1 := seenS s c a.w true
      let delivers (regs : Nat) (x : Nat → Nat) : Prop :=
        ∃ t c', exec (.sread a) s = .next t ∧ OnlyCrew s t c' ∧ GoesPast c1 c' 4 ∧ c'.s = c1.s ∧ c'.b = c1.b ∧ c'.p = c1.p
          ∧ (∀ l < 32, ∀ i < regs, c1.active.getLsbD l = true → tget 0 c'.v (32 * (a.dst + i) + l) = BitVec.ofNat 32 (x l / 2 ^ (32 * i)))
          ∧ (∀ k, (∀ i < regs, k / 32 = a.dst + i → c1.active.getLsbD (k % 32) = false) → tget 0 c'.v k = tget 0 c1.v k)
      (a.num = 0 → a.dst < (s1.kernOf c1).vregs → delivers 1 (fun l => l))
      ∧ (a.num = 4 → a.dst % 2 = 0 → a.dst + 1 < (s1.kernOf c1).vregs → (∀ l < 32, c1.active.getLsbD l = true → (tget? c1.threads l).isSome = true) →
          delivers 2 (fun l => (tget? c1.threads l).elim 0 (fun h => h.lane + 2 ^ 5 * h.crew + 2 ^ 10 * h.wgi)))
      ∧ ((a.num = 0 ∧ (s1.kernOf c1).vregs ≤ a.dst ∨ a.num = 4 ∧ (a.dst % 2 = 1 ∨ (s1.kernOf c1).vregs ≤ a.dst + 1)) →
          TrapsS s c a.w true 4 Trap.illegal (exec (.sread a) s)))
    ∧ (mayGo c a.w false = true → 8 < a.num → TrapsS s c a.w false 4 Trap.illegal (exec (.sread a) s))

/-- R205, R266, R375: SWRITE of TGTBIND binds the target that s[sa] describes to the crew's workgroup, on an enabled queue of its context with room,
and goes past itself with nothing else of the device changed; any other use (a queue that is absent, disabled or of another context, EXPECT 0, an
accumulator tile beyond the workgroup's, a target bound already, a full queue) is an illegal instruction. -/
def Obligations.TargetBinding : Prop :=
  ∀ (s : State) (c : Crew) (a : SI), Focus s c → mayGo c a.w false = true → a.imm = 0x010 →
    let c1 := waited s.oracle c a.w false
    let x := (c1.sRd s.oracle a.sa).toNat
    let binds (h : HwQueue) : Prop := tget? s.hwqs (bits x 5 0) = some h ∧ h.on = true ∧ h.ctx = s.ctxOf c1 ∧ bits x 39 24 ≠ 0
      ∧ (bitAt x 18 = true → bits x 23 19 < (s.kernOf c1).acct) ∧ (∀ e ∈ h.targets, e.tile ≠ bits x 17 6) ∧ h.entries.length + h.targets.length < 4096
    (∀ h, binds h → ∃ t c', exec (.swrite a) s = .next t ∧ t.crew? s.focus = some c' ∧ GoesPast c1 c' 4 ∧ KeepsRest c1 c' ∧ KeepsS c1 c'
        ∧ tget? t.hwqs (bits x 5 0) = some { h with targets := h.targets ++
            [{ tile := bits x 17 6, g := c1.g, acc := if bitAt x 18 then some (bits x 23 19) else none, expect := bits x 39 24, count := 0,
               skip := bitAt x 40 }] }
        ∧ (∀ q, q ≠ bits x 5 0 → tget? t.hwqs q = tget? s.hwqs q) ∧ t.mem = s.mem ∧ t.regs = s.regs)
    ∧ ((∀ h, ¬ binds h) → TrapsS s c a.w false 4 Trap.illegal (exec (.swrite a) s))

/-! ### Yield, regroup, PEAL -/

/-- R268: YIELD sends the running path to the bottom of the stack with age 0, past itself, and notes the crews that go first. R264, R140: RGRP
and RHOM that may regroup arrive in a round of their set and site with their move count.
The model's own choices in it: log entries 56, 98. -/
def Obligations.YieldAndRegroup : Prop :=
  ∀ (s : State) (c : Crew) (a : SR) (g : SX) (h : SI), Focus s c →
    (mayGo c a.w false = true →
      let c1 := waited s.oracle c a.w false
      ∃ t c', exec (.yieldCrew a) s = .next t ∧ OnlyCrew s t c' ∧ KeepsRest c1 c' ∧ KeepsS c1 c' ∧ c'.threads = c1.threads
        ∧ c'.stack.length = c1.stack.length ∧ (c1.rotDue = false → ∃ l, c'.stack.getLast? = some (.path (c1.pc + 4) c1.active l 0 none)))
    ∧ (let arrives (i : Instr) (n : Nat) (home : Bool) (c1 : Crew) : Prop :=
        ∃ t, exec i s = .next t ∧ ∃ r ∈ t.rounds, r.home = home ∧ r.site = c1.pc ∧ ∃ x ∈ r.arrived, x.cid = s.focus ∧ x.n = n
      let c1 := waited s.oracle c true true
      let s1 := seenS s c true true
      mayGo c true true = true → s1.queuesEmpty s.focus = true →
      (s1.mayRegroup s.focus c1 false = true → bits g.imm 16 8 ≤ (s1.kernOf c1).vregs → bits g.imm 7 0 < (s1.kernOf c1).vregs →
        arrives (.rgrp g) (bits g.imm 16 8) false c1)
      ∧ (s1.mayRegroup s.focus c1 true = true → h.imm % 512 ≤ (s1.kernOf c1).vregs → arrives (.rhom h) (h.imm % 512) true c1))

/-- R213, R258: PEAL within a quarter of the guard time of its frame's presentation counts BADPEAL and no more; earlier, the first PEAL for an
armed frame makes the card's own arrival with its buffer number. -/
def Obligations.PealInstruction : Prop :=
  ∀ (s : State) (c : Crew) (a : SA) (f : FrameCap) (x : Armed), Focus s c → mayGo c a.w true = true →
    let c1 := waited s.oracle c a.w true
    let s1 := seenS s c a.w true
    (s1.launchOf c1).bind (fun l => l.frame) = some f → s1.pealOn = true → f.pealGrp = s1.pealGroup →
    s1.peal.find? (fun y => y.frameNo = f.frameNo) = some x →
      (x.pres ≤ s1.tnow + s1.pealGuard / 4 → PassesS s c1 4 (exec (.peal a) s) (fun t => t.peal = s.peal
        ∧ bits (t.r32 (pealBlk + 0x18)) 15 0 = min (bits (s.r32 (pealBlk + 0x18)) 15 0 + 1) 65535))
      ∧ (s1.tnow + s1.pealGuard / 4 < x.pres → x.buffer = none → PassesS s c1 4 (exec (.peal a) s) (fun t =>
        ∃ y, t.peal.find? (fun z => z.frameNo = f.frameNo) = some y ∧ y.buffer = some (c1.sRd s.oracle a.sa).toNat ∧ y.arrivedSelf = true
          ∧ y.pres = x.pres))

/-! ### Lane arithmetic -/

namespace Sys2Proof.Claims

/-- An element-wise form: the result of each element from the elements of a, b and c after negation and flushing (R276, R278). -/
def elementForm (i : Instr) (f : LF) (types : List Nat) (fz m useB useC : Bool) (op : EKind → Nat → Nat → Nat → Nat) : LaneForm :=
  { instr := i, ok := types.contains f.ty && (!useB || bOk f), regs := ewRegs f useB useC, n := tyRegs f.ty,
    val := fun s c r l => elemWise s c r f fz m useB useC op l }

/-- R277, R278, R281, R282, R291: the element-wise arithmetic forms with the exact expression that each rounds or narrows once. -/
def laneArithmetic (f : LF) : List LaneForm :=
  let m := RMode.of f.rnd
  let res (k : EKind) (i : Int) (x : Ex) : Nat := match k with
    | .int sg w => intResult sg w f.sat i
    | .flt fm => round x fm m f.sat
  let product (k : EKind) (a b : Nat) : Int × Ex := (k.int? a * k.int? b, (k.dec a).mul (k.dec b))
  [elementForm (.vadd f) f tAll true true true false (fun k a b _ => res k (k.int? a + k.int? b) ((k.dec a).add m (k.dec b))),
   elementForm (.vsub f) f tAll true true true false (fun k a b _ => res k (k.int? a - k.int? b) ((k.dec a).sub m (k.dec b))),
   elementForm (.vmul f) f tAll true true true false (fun k a b _ => res k (product k a b).1 (product k a b).2),
   elementForm (.vmulh f) f tI true true true false (fun k a b _ => wrap k.w (k.int? a * k.int? b / 2 ^ k.w)),
   elementForm (.vfma .fma f) f (tI ++ tF ++ tFP) true true true true (fun k a b c => res k ((product k a b).1 + k.int? c) ((product k a b).2.add m (k.dec c))),
   elementForm (.vfma .fms f) f (tI ++ tF ++ tFP) true true true true (fun k a b c => res k ((product k a b).1 - k.int? c) ((product k a b).2.sub m (k.dec c))),
   elementForm (.vfma .fnma f) f (tI ++ tF ++ tFP) true true true true (fun k a b c =>
     res k (-(product k a b).1 + k.int? c) ((product k a b).2.negate.add m (k.dec c))),
   elementForm (.vfma .fnms f) f (tI ++ tF ++ tFP) true true true true (fun k a b c =>
     res k (-(product k a b).1 - k.int? c) ((product k a b).2.negate.sub m (k.dec c))),
   elementForm (.vmin .num f) f tAll true true true false (fun k a b _ => pickElem false false k a b),
   elementForm (.vmin .prop f) f tAll true true true false (fun k a b _ => pickElem true false k a b),
   elementForm (.vmax .num f) f tAll true true true false (fun k a b _ => pickElem false true k a b),
   elementForm (.vmax .prop f) f tAll true true true false (fun k a b _ => pickElem true true k a b),
   elementForm (.vclamp f) f tAll true true true true (fun k a b c => pickElem false false k (pickElem false true k a b) c),
   elementForm (.vmed3 f) f tAll true true true true (fun k a b c =>
     pickElem false true k (pickElem false false k a b) (pickElem false false k (pickElem false true k a b) c)),
   elementForm (.vabs f) f tAll false false false false (fun k a _ _ => match k with
     | .int sg w => intResult sg w f.sat (k.int? a).natAbs
     | .flt fm => a % 2 ^ (fm.eb + fm.fb)),
   elementForm (.vneg f) f tAll false false false false (fun k a _ _ => match k with
     | .int sg w => intResult sg w f.sat (-(k.int? a))
     | .flt fm => if fm.neg a then fm.mag a else fm.mag a + 2 ^ (fm.eb + fm.fb)),
   elementForm (.vlerp f) f ([2] ++ tFP) true true true true (fun k a b c => res k 0 ((k.dec a).add m ((k.dec c).mul ((k.dec b).sub m (k.dec a))))),
   elementForm (.vfrc f) f (tF ++ tFP) true false false false (fun k a _ _ => match k with
     | .flt fm => frcVal fm f.sat a
     | .int _ _ => 0),
   elementForm (.vrnd f) f (tF ++ tFP) true false false false (fun k a _ _ => match k with
     | .flt fm => rndVal fm m a
     | .int _ _ => 0)]

/-- R277, R278, R280, R291: the arithmetic forms whose result or operands are not element by element of one type. -/
def laneMixed (f : LF) : List LaneForm :=
  let m := RMode.of f.rnd
  [{ instr := .vmulw f, ok := [0, 1, 2].contains f.ty && bOk f, regs := [rPair f.vd, r1 f.va] ++ rB f r1, n := 2, val := fun s c r l =>
      let k := tyKind f.ty
      let on := ftzOn s c f.ty
      let a := prep on (naB f) k (opV s c 1 f.va l)
      let b := prep on (nbB f) k (opB s c r f 1 false l)
      match k with
      | .int _ _ => wrap 64 (k.int? a * k.int? b)
      | .flt _ => round ((k.dec a).mul (k.dec b)) .f64 .rne false },
   { instr := .vdot .acc f, ok := [5, 6, 10, 11, 3, 4, 12, 13].contains f.ty && bOk f, regs := [r1 f.vd, r1 f.va] ++ rB f r1 ++ [r1 f.vc], n := 1,
     val := fun s c r l => dotVal .acc s c r f l },
   { instr := .vdot .noacc f, ok := [5, 6, 10, 11, 3, 4, 12, 13].contains f.ty && bOk f, regs := [r1 f.vd, r1 f.va] ++ rB f r1, n := 1,
     val := fun s c r l => dotVal .noacc s c r f l },
   { instr := .vsel f, ok := (tyElem f.ty).isSome && bOk f, regs := [rT f.ty f.vd, rT f.ty f.va] ++ rB f (rT f.ty), n := tyRegs f.ty,
     val := fun s c r l => if c.pRd s.oracle (f.sub % 8) l then opV s c (tyRegs f.ty) f.va l else opBT s c r f f.ty l },
   { instr := .vsad f, ok := tIP.contains f.ty && bOk f, regs := [r1 f.vd, r1 f.va] ++ rB f r1 ++ [r1 f.vc], n := 1, val := fun s c r l =>
      let k := tyKind f.ty
      intResult false 32 f.sat ((List.range (tyCount f.ty)).foldl (fun (t : Int) i =>
        t + ((k.int? (elemAt k.w (opV s c 1 f.va l) i) - k.int? (elemAt k.w (opB s c r f 1 false l) i)).natAbs : Nat)) (opV s c 1 f.vc l : Nat)) },
   { instr := .vldexp f, ok := (tF ++ tFP).contains f.ty && bOk f, regs := [rT f.ty f.vd, rT f.ty f.va] ++ rB f r1, n := tyRegs f.ty,
     val := fun s c r l =>
      let k := tyKind f.ty
      packElems k.w (tyCount f.ty) (fun i => match k with
        | .flt fm => ftz (ftzOn s c f.ty) fm (round (ldexpEx (fm.dec (ftz (ftzOn s c f.ty) fm (elemAt k.w (opV s c (tyRegs f.ty) f.va l) i)))
            (if tyCount f.ty = 1 then sgn 32 (opB s c r f 1 false l) else sgn 16 (elemAt 16 (opB s c r f 1 false l) i))) fm m f.sat)
        | .int _ _ => 0) }]

/-- R286 to R288, R298: bit operations and moves. -/
def laneBits (f : LF) : List LaneForm :=
  let w := 32 * tyRegs f.ty
  let bit (i : Instr) (useA useC : Bool) (op : Nat → Nat → Nat → Nat) : LaneForm :=
    { instr := i, ok := bOk f, regs := [r1 f.vd] ++ (if useA then [r1 f.va] else []) ++ rB f r1 ++ (if useC then [r1 f.vc] else []), n := 1,
      val := fun s c r l => op (if useA then opV s c 1 f.va l else 0) (opB s c r f 1 false l) (if useC then opV s c 1 f.vc l else 0) }
  let shift (i : Instr) (op : Nat → Nat → Nat → Nat) : LaneForm :=
    { instr := i, ok := [0, 1, 5, 6, 8, 9].contains f.ty && bOk f, regs := [rT f.ty f.vd, rT f.ty f.va] ++ rB f r1, n := tyRegs f.ty,
      val := fun s c r l => packElems (tyKind f.ty).w (tyCount f.ty) (fun i => op (tyKind f.ty).w (elemAt (tyKind f.ty).w (opV s c (tyRegs f.ty) f.va l) i)
        ((if tyCount f.ty = 1 then opB s c r f 1 false l else elemAt (tyKind f.ty).w (opB s c r f 1 false l) i) % (tyKind f.ty).w)) }
  let count (i : Instr) (op : Nat → Nat → Nat) : LaneForm :=
    { instr := i, ok := tI.contains f.ty, regs := [r1 f.vd, rT f.ty f.va], n := 1, val := fun s c _ l => op w (opV s c (tyRegs f.ty) f.va l) }
  let typed := (tyElem f.ty).isSome
  [bit (.vand f) true false (fun a b _ => a &&& b), bit (.vor f) true false (fun a b _ => a ||| b), bit (.vxor f) true false (fun a b _ => a ^^^ b),
   bit (.vnot f) false false (fun _ b _ => 2 ^ 32 - 1 - b % 2 ^ 32),
   shift (.vshl f) (fun _ a n => a * 2 ^ n), shift (.vshr f) (fun _ a n => a / 2 ^ n), shift (.vsra f) (fun w a n => wrap w (sgn w a / 2 ^ n)),
   count (.vpopc f) popc, count (.vclz .zero f) clz, count (.vclz .sign f) clSign,
   { instr := .vbrev f, ok := tI.contains f.ty, regs := [rT f.ty f.vd, rT f.ty f.va], n := tyRegs f.ty, val := fun s c _ l => brev w (opV s c (tyRegs f.ty) f.va l) },
   { instr := .vlop3 f, ok := !immB f, regs := [r1 f.vd, r1 f.va] ++ rB f r1 ++ [r1 f.vc], n := 1,
     val := fun s c r l => lop3 (f.low % 256) (opV s c 1 f.va l) (opB s c r f 1 false l) (opV s c 1 f.vc l) },
   { instr := .vprmt f, ok := !immB f, regs := [r1 f.vd, r1 f.va] ++ rB f r1, n := 1,
     val := fun s c r l => prmt (opV s c 1 f.va l) (opB s c r f 1 false l) (f.low % 65536) },
   { instr := .vbfe f, ok := tI.contains f.ty && bOk f, regs := [rT f.ty f.vd, rT f.ty f.va] ++ rB f r1, n := tyRegs f.ty,
     val := fun s c r l => bfe (f.ty = 0 || f.ty = 8) w (opV s c (tyRegs f.ty) f.va l) (opB s c r f 1 false l) },
   { instr := .vbfi f, ok := tI.contains f.ty && bOk f, regs := [rT f.ty f.vd, rT f.ty f.va] ++ rB f r1 ++ [rT f.ty f.vc], n := tyRegs f.ty,
     val := fun s c r l => bfi w (opV s c (tyRegs f.ty) f.va l) (opB s c r f 1 false l) (opV s c (tyRegs f.ty) f.vc l) },
   { instr := .vmov f, ok := typed, regs := [rT f.ty f.vd, rT f.ty f.va], n := tyRegs f.ty, val := fun s c _ l => opV s c (tyRegs f.ty) f.va l },
   { instr := .vmovi f, ok := typed, regs := [rT f.ty f.vd], n := tyRegs f.ty,
     val := fun _ _ _ _ => if ty64 f.ty && f.ty ≠ 9 then wrap 64 (sgn 32 f.low) else f.low },
   { instr := .vmovs f, ok := typed, regs := [rT f.ty f.vd], n := tyRegs f.ty,
     val := fun s _ r l => (lrunS s.oracle r (f.va % 64) l).toNat % 2 ^ (32 * tyRegs f.ty) },
   { instr := .vpmov .tov f, ok := true, regs := [r1 f.vd], n := 1, val := fun s c _ l => packElems 1 8 (fun n => if c.pRd s.oracle n l then 1 else 0) }]

/-- R293 to R297: conversions, packing and block quantisation. -/
def laneConversions (f : LF) (src : SrcType) : List LaneForm :=
  let m := RMode.of f.rnd
  let S := f.sub % 16
  let unpack (h : HalfVar) : LaneForm :=
    { instr := .vunpk h f, ok := packOk h S f.ty && !(ty64 S), regs := [⟨f.vd, 2, false⟩, rT f.ty f.va], n := 2, val := fun s c _ l =>
        packElems (tyKind S).w (2 * tyCount S) (fun k => convert (elemAt (tyKind f.ty).w (opV s c (tyRegs f.ty) f.va l)
          ((if h = .hi then 2 * tyCount S else 0) + k)) (tyKind f.ty) (tyKind S) m f.sat) }
  let pack (h : HalfVar) : LaneForm :=
    { instr := .vpack h f, ok := packOk h S f.ty && bOk f, regs := [rT f.ty f.vd, rT S f.va] ++ rB f (rT S), n := tyRegs f.ty, val := fun s c r l =>
        let cs := tyCount S
        let j0 := if h = .hi then 2 * cs else 0
        packElems (tyKind f.ty).w (tyCount f.ty) (fun j =>
          if j < j0 || j0 + 2 * cs ≤ j then elemAt (tyKind f.ty).w (opV s c (tyRegs f.ty) f.vd l) j
          else convert (elemAt (tyKind S).w (if j < j0 + cs then opV s c (tyRegs S) f.va l else opB s c r f (tyRegs S) (S = 9) l)
            (if j < j0 + cs then j - j0 else j - j0 - cs)) (tyKind S) (tyKind f.ty) m f.sat) }
  [{ instr := .vcvt src f, ok := cvtGroup src.code ≠ 0 && cvtGroup src.code = cvtGroup f.ty && src.code ≠ f.ty, regs := [rT f.ty f.vd, rT src.code f.va],
     n := tyRegs f.ty, val := fun s c _ l => packElems (tyKind f.ty).w (tyCount f.ty) (fun i =>
       convert (elemAt (tyKind src.code).w (opV s c (tyRegs src.code) f.va l) i) (tyKind src.code) (tyKind f.ty) m f.sat) },
   pack .lo, pack .hi, unpack .lo, unpack .hi,
   { instr := .vbqnt f, ok := [12, 13, 14, 10].contains f.ty && [2, 3, 4].contains S, regs := [⟨f.va, 32 / tyCount S, false⟩, ⟨f.vd, 32 / tyCount f.ty + 1, false⟩],
     n := 32 / tyCount f.ty + 1, val := fun s c _ l =>
       let xs := (List.range 32).map (fun k => (tyKind S).dec (blockElem s c f.va (tyCount S) (tyKind S).w l k))
       let sc := blockScale (bitAt f.sub 4) xs (tyKind f.ty)
       packElems (tyKind f.ty).w 32 (fun k => convertEx ((xs.getD k .nan).div (Fmt.f32.dec sc)) (tyKind f.ty) m true) + sc * 2 ^ (32 * (32 / tyCount f.ty)) },
   { instr := .vbscl f, ok := [12, 13, 14, 10].contains f.ty && [2, 3, 4].contains S && bOk f,
     regs := [⟨f.va, 32 / tyCount f.ty, false⟩, ⟨f.vd, 32 / tyCount S, false⟩] ++ rB f r1, n := 32 / tyCount S, val := fun s c r l =>
       packElems (tyKind S).w 32 (fun k => convertEx (((tyKind f.ty).dec (blockElem s c f.va (tyCount f.ty) (tyKind f.ty).w l k)).mul
         (Fmt.f32.dec (opB s c r f 1 false l))) (tyKind S) m f.sat) }]

/-- Every form of a list completes with its lane results, when its fields are defined and its registers exist. -/
def FormsComplete (forms : LF → List LaneForm) : Prop :=
  ∀ (s : State) (c : Crew) (r : LRun) (rs : List LRun) (f : LF), FocusL s c r rs f → ∀ e ∈ forms f, e.ok = true →
    regsOk (seenL s c f) (waitedL s.oracle c f) e.regs = true →
      WritesLanes s c r rs f e.n (e.val (seenL s c f) (waitedL s.oracle c f) r) (exec e.instr s)

end Sys2Proof.Claims

/-- R277, R278, R281, R282, R291: each element-wise arithmetic form computes exactly and narrows or rounds once, in every active lane. -/
def Sys2Proof.Claims.LaneArithmeticForms : Prop := FormsComplete laneArithmetic

/-- R277, R278, R280, R291: wide products, dot products, selection, sums of absolute differences, scaling by a power of two. -/
def Sys2Proof.Claims.LaneMixedForms : Prop := FormsComplete laneMixed

/-- R286 to R288, R298, R301: bit operations, shifts modulo the width, bit counts, permutation and moves. -/
def Sys2Proof.Claims.LaneBitForms : Prop := FormsComplete laneBits

/-- R293 to R297: conversion, packing, unpacking, block quantisation and scaling. -/
def Sys2Proof.Claims.LaneConversionForms : Prop := ∀ src : SrcType, FormsComplete (fun f => laneConversions f src)

namespace Sys2Proof.Claims

/-- R279, R289: the long-latency element-wise forms. -/
def laneLongElement (f : LF) : List LaneForm :=
  let trans (i : Instr) (types : List Nat) (op : Fmt → Nat → Nat) : LaneForm :=
    elementForm i f types true true false false (fun k a _ _ => match k with
      | .flt fm => op fm a
      | .int _ _ => 0)
  [elementForm (.vdiv .q f) f (tI ++ tF) true true true false (fun k a b _ => match k with
     | .int sg w => if k.int? b = 0 then 2 ^ w - 1 else intResult sg w f.sat ((k.int? a).tdiv (k.int? b))
     | .flt fm => round ((k.dec a).div (k.dec b)) fm (RMode.of f.rnd) f.sat),
   elementForm (.vdiv .rem f) f tI true true true false (fun k a b _ => match k with
     | .int sg w => if k.int? b = 0 then a % 2 ^ w else intResult sg w f.sat ((k.int? a).tmod (k.int? b))
     | .flt _ => 0),
   trans (.vrcp f) tT (fun fm a => rcpVal fm f.sat f.ty a (fm.dec a)), trans (.vrsq f) tT (fun fm a => rsqVal fm f.sat f.ty a (fm.dec a)),
   trans (.vsqrt f) (tT ++ [7]) (fun fm a => sqrtVal fm (RMode.of f.rnd) f.sat a), trans (.vexp2 f) tT (fun fm a => exp2Val fm f.sat f.ty a (fm.dec a)),
   trans (.vlog2 f) tT (fun fm a => log2Val fm f.sat f.ty a (fm.dec a)), trans (.vsin .rad f) tT (fun fm a => radVal false fm f.sat f.ty a (fm.dec a)),
   trans (.vsin .pi f) tT (fun fm a => piVal false fm f.sat f.ty a (fm.dec a)), trans (.vcos .rad f) tT (fun fm a => radVal true fm f.sat f.ty a (fm.dec a)),
   trans (.vcos .pi f) tT (fun fm a => piVal true fm f.sat f.ty a (fm.dec a)), trans (.vtanh f) tT (fun fm a => tanhVal fm f.sat f.ty a (fm.dec a))]

/-- A cross-lane form: its destinations once the lanes of Active are known. -/
structure CrossForm where
  instr : Instr
  ok : Bool
  regs : List RBlk
  vs : State → Crew → LRun → W32 → Tbl W32
  ps : State → Crew → LRun → W32 → Tbl Bool

/-- R299 to R303: shuffles by a lane number, up, down and by exclusive or, with their in-range predicate; votes, ballots, reductions, scans
and matches. -/
def crossForms (f : LF) (w : ShfWidth) (op : RedOp) : List CrossForm :=
  let width := ShfKind.width w
  let shf (i : Instr) (src : Nat → Nat → Nat × Bool) : CrossForm :=
    { instr := i, ok := bOk f, regs := [r1 f.vd, r1 f.va] ++ rB f r1,
      vs := fun s c r act => laneDest act 1 f.vd (fun l =>
        if (src l (opB s c r f 1 false l)).2 then crossV s c 1 f.va (src l (opB s c r f 1 false l)).1 else opV s c 1 f.va l),
      ps := fun s c r act => predDest act (f.sub % 8) (fun l => (src l (opB s c r f 1 false l)).2) }
  let red (i : Instr) (upto : W32 → Nat → List Nat) : CrossForm :=
    { instr := i, ok := (redTypes op).contains f.ty, regs := [rT f.ty f.vd, rT f.ty f.va],
      vs := fun s c _ act => laneDest act (tyRegs f.ty) f.vd (fun l =>
        redPrefix op (tyKind f.ty) (ftzOn s c f.ty) (RMode.of f.rnd) f.sat (redArgs s c f (upto act l))),
      ps := fun _ _ _ _ => [] }
  let vote (v : VoteVar) (x : List Bool → Bool) : CrossForm :=
    { instr := .vvote v f, ok := true, regs := [], vs := fun _ _ _ _ => [],
      ps := fun s c _ act => predDest act (f.sub % 8) (fun _ => x ((lanesOf act).map (crossP s c (bits f.sub 5 3)))) }
  [shf (.vshfl w f) (fun l b => (l - l % width + b % width, true)), shf (.vshfu w f) (fun l b => (l - b, decide (b ≤ l % width))),
   shf (.vshfd w f) (fun l b => (l + b, decide (l % width + b < width))), shf (.vshfx w f) (fun l b => (l - l % width + ((l % width) ^^^ (b % width)), true)),
   vote .all (fun ps => ps.all (fun b => b)), vote .any (fun ps => ps.any (fun b => b)),
   vote .uni (fun ps => ps.all (fun b => b) || ps.all (fun b => !b)),
   { instr := .vbal f, ok := true, regs := [r1 f.vd], vs := fun s c _ act => laneDest act 1 f.vd (fun _ =>
       (maskOf (fun l => act.getLsbD l && crossP s c (bits f.sub 5 3) l)).toNat), ps := fun _ _ _ _ => [] },
   red (.vred op f) (fun act _ => lanesOf act), red (.vscanInc op f) (fun act l => (lanesOf act).filter (fun j => decide (j ≤ l))),
   red (.vscanExc op f) (fun act l => (lanesOf act).filter (fun j => decide (j < l))),
   { instr := .vmatch f, ok := tI.contains f.ty, regs := [r1 f.vd, rT f.ty f.va], vs := fun s c _ act => laneDest act 1 f.vd (fun l =>
       (maskOf (fun j => act.getLsbD j && crossV s c (tyRegs f.ty) f.va j = crossV s c (tyRegs f.ty) f.va l)).toNat), ps := fun _ _ _ _ => [] }]

/-- Predicate pd of every active lane is the value; p7 discards; every other predicate bit is as before (R25). -/
structure SetsPred (c c' : Crew) (act : W32) (pd : Nat) (val : Nat → Bool) : Prop where
  value : pd ≠ 7 → ∀ l < 32, act.getLsbD l = true → (tget 0 c'.p pd).getLsbD l = val l
  lanes : ∀ l < 32, act.getLsbD l = false → (tget 0 c'.p pd).getLsbD l = (tget 0 c.p pd).getLsbD l
  seven : tget 0 c'.p 7 = tget 0 c.p 7
  others : ∀ q, q ≠ pd → tget 0 c'.p q = tget 0 c.p q

/-- R284, R285: comparison and classification, element by element. -/
def testForms (f : LF) (k : CmpVar) : List (Instr × Bool × List RBlk × (State → Crew → LRun → Nat → Nat → Bool)) :=
  let kind := tyKind f.ty
  [(.vcmp k f, (tI ++ tF ++ [3, 4, 5, 6]).contains f.ty && bOk f, [rT f.ty f.va] ++ rB f (rT f.ty), fun s c r i l =>
      cmpElem k kind (prep (ftzOn s c f.ty) (naB f) kind (elemAt kind.w (opV s c (tyRegs f.ty) f.va l) i))
        (prep (ftzOn s c f.ty) (nbB f) kind (elemAt kind.w (opBT s c r f f.ty l) i))),
   (.vclass f, (tF ++ tFP).contains f.ty && !immB f, [rT f.ty f.va], fun s c _ i l => match kind with
      | .flt fm => bitAt (f.low % 1024) (classOf fm (elemAt fm.width (opV s c (tyRegs f.ty) f.va l) i))
      | .int _ _ => false)]

end Sys2Proof.Claims

/-- R279, R289: division with its two borderline cases and the transcendentals: the result block is on its way as one pending write.
The model's own choices in it: log entry 16. -/
def Obligations.LaneLongLatencyForms : Prop :=
  ∀ (s : State) (c : Crew) (r : LRun) (rs : List LRun) (f : LF), FocusL s c r rs f → (waitedL s.oracle c f).tableFull .l = false →
    ∀ e ∈ laneLongElement f, e.ok = true → regsOk (seenL s c f) (waitedL s.oracle c f) e.regs = true →
      AwaitsResult s c r rs f (laneDest (activeL s c r f) e.n f.vd (e.val (seenL s c f) (waitedL s.oracle c f) r)) [] false (exec e.instr s)

/-- R299 to R303: a cross-lane form reads every lane of the crew, a lane without a thread as 0, and its result is on its way as one pending write. -/
def Obligations.CrossLaneForms : Prop :=
  ∀ (s : State) (c : Crew) (r : LRun) (rs : List LRun) (f : LF) (w : ShfWidth) (op : RedOp), FocusL s c r rs f → (waitedL s.oracle c f).tableFull .l = false →
    ∀ e ∈ crossForms f w op, e.ok = true → regsOk (seenL s c f) (waitedL s.oracle c f) e.regs = true →
      AwaitsResult s c r rs f (e.vs (seenL s c f) (waitedL s.oracle c f) r (activeL s c r f)) (e.ps (seenL s c f) (waitedL s.oracle c f) r (activeL s c r f)) false
        (exec e.instr s)

/-- R25, R283 to R285, R301: forms that write predicates write them in the active lanes alone, element 1 of a packed type to the second
predicate, and a write of p7 is discarded; VADDC and
VADDC.B write sum and carry or difference and borrow; VPMOV from v writes p0 to p6. -/
def Obligations.PredicateForms : Prop :=
  ∀ (s : State) (c : Crew) (r : LRun) (rs : List LRun) (f : LF), FocusL s c r rs f →
    let c1 := waitedL s.oracle c f
    let s1 := seenL s c f
    let act := activeL s c r f
    (∀ k : CmpVar, ∀ e ∈ testForms f k, e.2.1 = true → regsOk s1 c1 e.2.2.1 = true →
      ∃ t c' c2, exec e.1 s = .next t ∧ OnlyCrew s t c' ∧ WordIssued c1 c' r rs ∧ c'.v = c1.v ∧ SetsPred c1 c2 act (f.sub % 8) (e.2.2.2 s1 c1 r 0)
        ∧ (if tyCount f.ty = 2 then SetsPred c2 c' act (bits f.sub 5 3) (e.2.2.2 s1 c1 r 1) else c'.p = c2.p))
    ∧ (∀ v : PlogVar, ∃ t c', exec (.vplog v f) s = .next t ∧ OnlyCrew s t c' ∧ WordIssued c1 c' r rs ∧ c'.v = c1.v
        ∧ SetsPred c1 c' act (f.sub % 8) (fun l => plog v (c1.pRd s.oracle (f.va % 8) l) (c1.pRd s.oracle (f.vb % 8) l)))
    ∧ (∀ v : AddcVar, [1, 9].contains f.ty = true → bOk f = true → regsOk s1 c1 ([rT f.ty f.vd, rT f.ty f.va] ++ rB f (rT f.ty)) = true →
        let cin (l : Nat) : Int := if bitAt f.sub 6 && c1.pRd s.oracle (bits f.sub 5 3) l then 1 else 0
        let a (l : Nat) : Int := (opV s1 c1 (tyRegs f.ty) f.va l : Nat)
        let b (l : Nat) : Int := (opBT s1 c1 r f f.ty l : Nat)
        let x (l : Nat) : Int := if v = .c then a l + b l + cin l else a l - b l - cin l
        ∃ t c' c2, exec (.vaddc v f) s = .next t ∧ OnlyCrew s t c' ∧ WordIssued c1 c' r rs
          ∧ SetsLanes c1 c2 act (tyRegs f.ty) f.vd (fun l => wrap (32 * tyRegs f.ty) (x l)) ∧ c'.v = c2.v
          ∧ SetsPred c1 c' act (f.sub % 8) (fun l => if v = .c then decide ((2 ^ (32 * tyRegs f.ty) : Nat) ≤ x l) else decide (x l < 0)))
    ∧ (regsOk s1 c1 [r1 f.va] = true → ∃ t c', exec (.vpmov .fromv f) s = .next t ∧ OnlyCrew s t c' ∧ WordIssued c1 c' r rs ∧ c'.v = c1.v
        ∧ tget 0 c'.p 7 = tget 0 c1.p 7
        ∧ ∀ n < 7, ∀ l < 32, (tget 0 c'.p n).getLsbD l = if act.getLsbD l then bitAt (opV s1 c1 1 f.va l) n else (tget 0 c1.p n).getLsbD l)

/-! ### Markers -/

namespace Sys2Proof.Claims

/-- R28, R221: whether an S-word carries the marker (W), and whether its form first drains the crew's L-stream. RGRP and RHOM always do both. -/
def sGate : Instr → Option (Bool × Bool)
  | .saddR a | .ssub a | .smulR a | .smulhI a | .smulhN a | .sdivI a | .sdivN a | .sremI a | .sremN a | .sandR a | .sorR a | .sxorR a | .sshlR a
  | .sshrR a | .ssraR a | .sminI a | .sminN a | .smaxI a | .smaxN a | .ssetI a | .ssetN a | .sbit32 a | .sbit64 a | .baddR a | .bsetLo a | .bsetHi a
  | .bgetLo a | .bgetHi a | .bmov a | .ret a | .gsetT a | .gsetF a | .gclr a | .binc a => some (a.w, false)
  | .saddI a | .smulI a | .sandI a | .sorI a | .sxorI a | .sshlI a | .sshrI a | .ssraI a | .baddI a | .tget a | .swrite a | .trap a | .sysc a
  | .brkpt a => some (a.w, false)
  | .sldiLo a | .sldiHi a | .sldiSx a => some (a.w, false)
  | .sldN8 a | .sldI8 a | .sldN16 a | .sldI16 a | .sldN32 a | .sldI32 a | .sld64 a | .sst8 a | .sst16 a | .sst32 a | .sst64 a | .satomAdd a
  | .satomAnd a | .satomOr a | .satomXor a | .satomMin a | .satomMax a | .satomMinn a | .satomMaxn a | .satomXchg a | .scas a => some (a.w, false)
  | .jmp a | .jmpcEqz a | .jmpcNez a | .jmpcLtz a | .jmpcGez a | .call a => some (a.w, false)
  | .lrun a => some (a.w, false)
  | .gsetTrig a => some (a.w, false)
  | .yieldCrew a | .nop a | .sHint _ a | .sIllegalOpcode _ a => some (a.w, false)
  | .brd a => some (a.w, true)
  | .join a | .exit a => some (a.w, true)
  | .bar a | .gbar a | .peal a | .twait a | .twaitPres a => some (a.w, true)
  | .lnch a | .lnchNb a => some (a.w, true)
  | .fence a => some (a.w, true)
  | .sread a => some (a.w, isPerLane a.num)
  | .rgrp _ | .rhom _ => some (true, true)
  | _ => none

/-- The fields of an L-word. -/
def laneWord : Instr → Option LF
  | .vadd f | .vsub f | .vmul f | .vmulh f | .vmulw f | .vaddc _ f | .vfma _ f | .vdiv _ f | .vdot _ f | .vmin _ f | .vmax _ f | .vclamp f | .vmed3 f
  | .vabs f | .vneg f | .vsel f | .vlerp f | .vsad f | .vcmp _ f | .vand f | .vor f | .vxor f | .vnot f | .vlop3 f | .vshl f | .vshr f | .vsra f
  | .vbfe f | .vbfi f | .vpopc f | .vclz _ f | .vbrev f | .vprmt f | .vrcp f | .vrsq f | .vsqrt f | .vexp2 f | .vlog2 f | .vsin _ f | .vcos _ f
  | .vtanh f | .vfrc f | .vrnd f | .vclass f | .vldexp f | .vcvt _ f | .vpack _ f | .vunpk _ f | .vbqnt f | .vbscl f | .vmov f | .vmovi f | .vmovs f
  | .vshfl _ f | .vshfu _ f | .vshfd _ f | .vshfx _ f | .vvote _ f | .vbal f | .vplog _ f | .vpmov _ f | .vred _ f | .vscanInc _ f | .vscanExc _ f
  | .vmatch f | .vld _ f | .vst _ f | .vsmp f | .atom _ f | .cas _ f | .vfence f | .cpy f | .cseal f | .cwait f | .srd f | .swr f | .sstatGet f
  | .sstatSet f | .ralloc f | .rallocNb f | .rpush f | .qpop f | .mldb _ f | .smcp f | .mma _ f | .msca f | .macz f | .macrd _ f | .macwr f
  | .collAdd f | .collWr f | .trav f | .rast f | .rcq f | .rcqTrain f | .lHint _ f | .lIllegalOpcode _ f => some f
  | _ => none

end Sys2Proof.Claims

/-- R28, R221, R343: an S-word whose marker or drain is not met has no effect: its crew waits at it, at a marker as not ready and at a drain as
stalled. An L-word with W = 1 waits so while a write of its stream is outstanding. Every S-word and every L-word keeps to this. -/
def Sys2Proof.Claims.MarkersHold : Prop :=
  ∀ (s : State) (c : Crew) (i : Instr), Focus s c →
    (∀ g, sGate i = some g → mayGo c g.1 g.2 = false → exec i s = fin (s.park s.focus c (if g.1 then .marker .s else .stall .s)))
    ∧ (∀ f, laneWord i = some f → c.runs ≠ [] → f.w = true → c.out .l ≠ [] → exec i s = fin (s.park s.focus c (.marker .l)))

/-! ### Traps -/

/-- R269, R220, R236: TRAP and SYSC trap with imm12 as their code; BRKPT traps when the context holds the debug right and else goes past
itself; an unassigned S opcode or L opcode is the illegal-instruction trap; an L hint issues and changes nothing. -/
def Obligations.SoftwareTraps : Prop :=
  (∀ (s : State) (c : Crew) (a : SI), Focus s c → mayGo c a.w false = true →
    let c1 := waited s.oracle c a.w false
    let s1 := seenS s c a.w false
    TrapsS s c a.w false 4 ⟨13, 0, 0, a.imm, []⟩ (exec (.trap a) s) ∧ TrapsS s c a.w false 4 ⟨14, 0, 0, a.imm, []⟩ (exec (.sysc a) s)
    ∧ (s1.debugRight (s1.ctxOf c1) = true → TrapsS s c a.w false 4 ⟨12, 0, 0, a.imm, []⟩ (exec (.brkpt a) s))
    ∧ (s1.debugRight (s1.ctxOf c1) = false →
        ∃ t c', exec (.brkpt a) s = .next t ∧ OnlyCrew s t c' ∧ GoesPast c1 c' 4 ∧ KeepsRest c1 c' ∧ KeepsS c1 c'))
  ∧ (∀ (s : State) (c : Crew) (a : SR) (op : Nat), Focus s c → mayGo c a.w false = true →
      TrapsS s c a.w false 4 Trap.illegal (exec (.sIllegalOpcode op a) s))
  ∧ (∀ (s : State) (c : Crew) (r : LRun) (rs : List LRun) (f : LF) (op : Nat), FocusL s c r rs f →
      TrapsL s c f Trap.illegal (exec (.lIllegalOpcode op f) s)
      ∧ ∃ t c', exec (.lHint op f) s = .next t ∧ OnlyCrew s t c' ∧ WordIssued (waitedL s.oracle c f) c' r rs ∧ c'.v = (waitedL s.oracle c f).v ∧ c'.p = (waitedL s.oracle c f).p
          ∧ c'.pend = (waitedL s.oracle c f).pend)

/-- R377, R381: a taken trap stops its crew at the position and changes nothing else of it but what it waits for; a barrier time-out or a machine
check leaves that too. Under WAIT the only other change is a record that
awaits MMU_RESUME; under DEBUG the crew's partition is stopped. -/
def Sys2Proof.Claims.TrapEntry : Prop :=
  ∀ (s : State) (cid : Nat) (c : Crew) (st : Stream) (pos : Pos) (len flags : Nat) (x : Trap), s.crew? cid = some c →
    let t := s.takeTrapAt cid st pos len flags x
    let stop : Stop := { trap := x, pos := pos, strm := st, len := len, recId := s.nextHandle, seq := none, waits := true }
    let wait := if x.cls = 10 ∨ x.cls = 16 then c.wait else .none
    (s.policy (s.ctxOf c) x.cls = .wait → ∃ r : TrapRec, r.ctx = s.ctxOf c ∧ r.waits = true ∧ r.deferred = false ∧ r.cid = some cid ∧ r.cmd = none
      ∧ t = { s with crews := tset s.crews cid { c with stop := some stop, wait := wait }, trapBuf := s.trapBuf ++ [r],
                     nextHandle := s.nextHandle + 1 })
    ∧ (s.policy (s.ctxOf c) x.cls = .debug → t.partStopped (s.coreOf c) c.part = true)

/-- R381, R384, R269: what a context's policy makes of a class of trap. -/
def Sys2Proof.Claims.TrapPolicies : Prop :=
  ∀ (s : State) (ctx cls : Nat),
    let prec := bits (s.r32 (mmuBlk ctx + 8)) 5 4
    let dbg : Policy := if bitAt (s.r32 (dbgBlk ctx)) 31 ∧ bitAt (s.r32 (mmuBlk ctx + 8)) 8 = false then .debug else .kill
    s.policy ctx 14 = .wait ∧ s.policy ctx 12 = .debug
    ∧ (s.policy ctx 16 = if bits (s.r32 (mmuBlk ctx + 8)) 7 6 = 1 then dbg else .kill)
    ∧ (cls ≠ 12 → cls ≠ 14 → cls ≠ 16 →
        (prec = 0 → s.policy ctx cls = .wait) ∧ (prec = 1 → s.policy ctx cls = .kill) ∧ (prec = 2 → s.policy ctx cls = dbg))

namespace Sys2Proof.Claims

/-- A field of a trap record whose bytes 4 to 127 are given. -/
def recField (bs : List Byte) (off n : Nat) : Nat := leNat ((bs.drop (off - 4)).take n)

end Sys2Proof.Claims

/-- R378: where a stop's record shows class, SLOT, GEN, CODE, LID, WGI, LANES, SPC, LPOS, ADDR and TNOW, and the fetched words of an illegal
instruction in DETAIL; a record's continuation records (R379) follow it. -/
def Sys2Proof.Claims.TrapRecordLayout : Prop :=
  ∀ (s : State) (c : Crew) (cid flags : Nat) (x : Trap) (pos : Pos) (waits : Bool) (conts : List (List Byte)),
    ∃ (r : TrapRec) (rs : List TrapRec), (s.stopRec c cid x pos flags waits conts).trapBuf = s.trapBuf ++ r :: rs
    ∧ rs.map (fun e => e.bytes) = conts ∧ (∀ e ∈ rs, e.parent = some s.nextHandle ∧ e.ctx = s.ctxOf c ∧ e.waits = false) ∧ r.bytes.length = 124 ∧ recField r.bytes 4 1 = x.cls % 256 ∧ recField r.bytes 6 2 = s.slotOf c % 65536 ∧ recField r.bytes 8 2 = s.genOf c % 65536
    ∧ recField r.bytes 10 2 = x.code % 65536 ∧ recField r.bytes 12 4 = s.lidOf c % 2 ^ 32 ∧ recField r.bytes 16 4 = s.wgiOf c % 2 ^ 32
    ∧ recField r.bytes 20 4 = x.lanes.toNat ∧ recField r.bytes 24 10 = pos.spc.toNat ∧ recField r.bytes 34 3 = lposBits pos.lpos
    ∧ recField r.bytes 37 3 = 0 ∧ recField r.bytes 40 10 = x.addr % 2 ^ 80 ∧ recField r.bytes 50 6 = 0 ∧ recField r.bytes 56 8 = s.tnow % 2 ^ 64
    ∧ (x.cls = 1 → x.detail = [] → recField r.bytes 64 4 = c.ir.getD 0 0 % 2 ^ 32)

/-- R382, R415: going on from a stop, a crew at TRAP or SYSC resumes at the next S-instruction, one that executed BRKPT past it, one at a break bit at the
same word, which passes its bit once, and every other crew issues the same instruction again. -/
def Sys2Proof.Claims.ResumeAfterTrap : Prop :=
  ∀ (s : State) (cid : Nat) (c : Crew) (st : Stop), s.crew? cid = some c → c.stop = some st → st.trap.cls ≠ 10 →
    ∃ c', (s.resumeCrew cid).crew? cid = some c' ∧ c'.stop = none ∧ c'.s = c.s ∧ c'.b = c.b ∧ c'.v = c.v ∧ c'.p = c.p ∧ c'.pend = c.pend
      ∧ c'.threads = c.threads ∧ c'.runs = c.runs ∧ c'.active = c.active
      ∧ (c.runPath.isSome = true → st.trap.cls = 13 ∨ st.trap.cls = 14 → c'.pc = c.pc + BitVec.ofNat 72 st.len)
      ∧ (c.runPath.isSome = true → st.trap.cls = 12 → st.len ≠ 0 → c'.pc = c.pc + BitVec.ofNat 72 st.len)
      ∧ (st.trap.cls = 12 → st.len = 0 → c'.pc = c.pc ∧ st.strm ∈ c'.breakOnce)
      ∧ (st.trap.cls ≠ 12 → st.trap.cls ≠ 13 → st.trap.cls ≠ 14 → c'.pc = c.pc)
      ∧ (s.resumeCrew cid).mem = s.mem ∧ ∀ k, k ≠ cid → (s.resumeCrew cid).crew? k = s.crew? k

/-! ### Lane memory -/

namespace Sys2Proof.Claims

/-- The sampler cache of the crew's core after an operation that acquires with SMP in its mask (R71). -/
def acquired (s : State) (c : Crew) (acq : Bool) (f : LF) : Tbl Nat :=
  if acq && bitAt (mMask f) 2 then tset s.smpSince (s.coreOf c) s.hist.length else s.smpSince

/-- Part i of the bytes of a word. -/
def partAt {α : Type} (width i : Nat) (xs : List α) : List α := (xs.drop (width * i)).take width

/-- The lanes of a merged access: all those on the word of lane l, in ascending order (R94, R313). -/
def lanesOn (ls : List (Nat × List Loc)) (w : List Loc) : List Nat := (ls.filter (fun y => y.2 = w)).map (fun y => y.1)

/-- What a lane gets back, part by part of its word, from the old bytes of each word and what a merge gives each of its lanes (R313). -/
def atomReturn (ls : List (Nat × List Loc)) (width : Nat) (merge : Nat → Nat → List Nat → Nat × List Nat) (old : List Loc → List Byte) (l : Nat) : Nat :=
  match ls.find? (fun x => x.1 = l) with
  | none => 0
  | some x =>
    ((List.range (x.2.length / width)).map (fun i =>
      ((((lanesOn ls x.2).zip (merge i (leNat (partAt width i (old x.2))) (lanesOn ls x.2)).2).find? (fun y => y.1 = l)).map (fun y => y.2)).getD 0
        * 2 ^ (8 * width * i))).sum

/-- An atomic form completes: each part of a word touched is updated in one step with its merged value, no other byte has changed, and a form that
returns has each lane's return on its way. -/
def AtomCompletes (s : State) (c : Crew) (r : LRun) (rs : List LRun) (f : LF) (sp : Space) (types : List Nat) (regs : List RBlk) (noret : Bool)
    (width : Nat) (merge : Nat → Nat → List Nat → Nat × List Nat) (res : Res) : Prop :=
  let c1 := waitedL s.oracle c f
  let s1 := seenL s c f
  let act := activeL s c r f
  let n := 4 * tyRegs f.ty
  memFieldsOk .atomic f = true → mSize f = 0 → types.contains f.ty = true → regsOk s1 c1 (regs ++ ofsRegs f) = true → gangOk s1 c1 sp = true →
  ∀ ls, laneLocs s1 c1 act sp .atomic n (laneEa s1 c1 r f) = .ok ls → anyAbsent s1 ls = false → (noret = false → c1.tableFull .l = false) →
    (∀ x ∈ ls, s1.poisonedLocs x.2 = false ∧ x.2.Nodup ∧ Named x.2 ∧ (∀ a ∈ x.2, placeStands s1 a = true) ∧ ∀ y ∈ ls, y.2 = x.2 ∨ ∀ a ∈ x.2, a ∉ y.2) →
    ∃ (t : State) (c' : Crew) (old : List Loc → List Byte), res = .next t ∧ t.crew? s.focus = some c' ∧ StoresOnly s t (ls.flatMap (fun x => x.2))
      ∧ WordIssued c1 c' r rs
      ∧ (∀ x ∈ ls, ∀ i < n / width, Updates s1 t (s1.place c1 (maskOf (fun l => (lanesOn ls x.2).contains l)) .l r.since) (mSync f) (partAt width i x.2)
          (partAt width i (old x.2)) (leBytes width (merge i (leNat (partAt width i (old x.2))) (lanesOn ls x.2)).1))
      ∧ (∀ x ∈ ls, (∀ l ∈ x.2, tget? s.orders l.key = none) → leNat (old x.2) = s1.getLocs x.2)
      ∧ (if noret = true ∨ act = 0 then c'.v = c1.v ∧ c'.p = c1.p ∧ c'.pend = c1.pend
         else AwaitsLanes c1 c' (laneDest act (tyRegs f.ty) f.vd (atomReturn ls width merge old)) [] false)

end Sys2Proof.Claims

/-- R307, R308: a lane load whose lanes all have their bytes present and permitted has every active lane's value on its way, sign- or
zero-extended from its size; its bytes are among those that R88 to R91 let the lane's thread read. An acquiring load with SMP in its mask invalidates the core's sampler cache.
The model's own choices in it: log entry 5. -/
def Obligations.LaneLoads : Prop :=
  ∀ (s : State) (c : Crew) (r : LRun) (rs : List LRun) (f : LF) (sp : Space), FocusL s c r rs f → GraphOk s →
    let c1 := waitedL s.oracle c f
    let s1 := seenL s c f
    let act := activeL s c r f
    memFieldsOk .load f = true → sizeOk f = true → regsOk s1 c1 ([memBlk f f.vd] ++ ofsRegs f) = true → gangOk s1 c1 sp = true → c1.tableFull .l = false →
    ∀ ls, laneLocs s1 c1 act sp .load (memBytes f) (laneEa s1 c1 r f) = .ok ls → anyAbsent s1 ls = false →
      ∃ (t : State) (c' : Crew) (k : Tbl W64) (v : List Ev) (got : Nat → List Byte), exec (.vld sp f) s = .next t
        ∧ t = { s with crews := tset s.crews s.focus c', counters := k, evs := v, smpSince := acquired s1 c1 (mOrdk f = 1 && act ≠ 0) f }
        ∧ WordIssued c1 c' r rs
        ∧ (∀ x ∈ ls, Gets s1 t (s1.lanePlace c1 r x.1) (mSync f) (s1.bytesAt (s1.ctxOf c1) sp (laneEa s1 c1 r f x.1) x.2) (got x.1)
            ∧ (Named x.2 → (∀ l ∈ x.2, tget? s.orders l.key = none) → leNat (got x.1) = s1.getLocs x.2))
        ∧ (if act = 0 then c'.v = c1.v ∧ c'.p = c1.p ∧ c'.pend = c1.pend
           else AwaitsLanes c1 c' (laneDest act (memRegs f) f.vd (fun l =>
             if (mSize f = 1 || mSize f = 2) && (f.ty = 0 || f.ty = 8) then wrap (32 * memRegs f) (sgn (8 * memBytes f) (leNat (got l)))
             else leNat (got l))) [] (ls.any (fun x => s1.poisonedLocs x.2)))

/-- R309, R80: a lane store writes the low bytes of v[vc] at each active lane's address, the highest lane's where lanes overlap, and no other byte
changes. Each byte takes its place in the order of the writes to it, next after the lower lanes' bytes, and holds the store's value unless a
write that nothing puts before the store stands after it (R90).
The model's own choices in it: log entry 5. -/
def Obligations.LaneStores : Prop :=
  ∀ (s : State) (c : Crew) (r : LRun) (rs : List LRun) (f : LF) (sp : Space), FocusL s c r rs f → GraphOk s → s.Settled →
    let c1 := waitedL s.oracle c f
    let s1 := seenL s c f
    let act := activeL s c r f
    memFieldsOk .store f = true → sizeOk f = true → regsOk s1 c1 ([memBlk f f.vc] ++ ofsRegs f) = true → gangOk s1 c1 sp = true →
    ∀ ls, laneLocs s1 c1 act sp .store (memBytes f) (laneEa s1 c1 r f) = .ok ls → anyAbsent s1 ls = false →
      (∀ x ∈ ls, s1.poisonedLocs x.2 = false ∧ Named x.2 ∧ x.2.Nodup ∧ ∀ a ∈ x.2, placeStands s1 a = true) →
      ∃ t c', exec (.vst sp f) s = .next t ∧ t.crew? s.focus = some c' ∧ StoresOnly s t (ls.flatMap (fun x => x.2)) ∧ WordIssued c1 c' r rs
        ∧ c'.v = c1.v ∧ c'.p = c1.p ∧ c'.pend = c1.pend
        ∧ ∀ x ∈ ls, ∀ (i : Nat) (l : Loc), x.2[i]? = some l → (∀ y ∈ ls, x.1 < y.1 → l ∉ y.2) →
            Wrote s1 t (s1.lanePlace c1 r x.1) (mSync f) l (BitVec.ofNat 8 (opV s1 c1 (memRegs f) f.vc x.1 / 2 ^ (8 * i)))

/-- R310, R70, R311: VSMP has on its way, for every active lane, bytes each of which its core's sampler cache may hold, those of one aligned word as they
stood at one instant; VFENCE is a fence of each active thread, and with an active lane and an acquiring kind with SMP in its mask invalidates that cache.
The model's own choices in it: log entry 6. -/
def Obligations.SamplerReadsAndFences : Prop :=
  ∀ (s : State) (c : Crew) (r : LRun) (rs : List LRun) (f : LF), FocusL s c r rs f →
    let c1 := waitedL s.oracle c f
    let s1 := seenL s c f
    let act := activeL s c r f
    (GraphOk s → mScope f < 6 → ∃ t c' k v sc, exec (.vfence f) s = .next t
        ∧ t = { s with crews := tset s.crews s.focus c', counters := k, evs := v, scs := sc,
                       smpSince := acquired s1 c1 (mOrdk f ≠ 1 && act ≠ 0) f }
        ∧ FencesOf t s.evs.length ((c1.threads.filter (fun e => act.getLsbD e.1)).map (fun e => e.2)) (mOrdk f) (mScope f) (mMask f) (bitAt f.low 12)
        ∧ WordIssued c1 c' r rs ∧ c'.v = c1.v ∧ c'.p = c1.p ∧ c'.pend = c1.pend)
    ∧ (mOrdk f = 0 → bits f.low 19 18 ≠ 3 → sizeOk f = true → regsOk s1 c1 ([memBlk f f.vd] ++ ofsRegs f) = true → c1.tableFull .l = false →
      ∀ ls, laneLocs s1 c1 act .glb .sampler (memBytes f) (laneEa s1 c1 r f) = .ok ls →
        ∃ (t : State) (c' : Crew) (val : Nat → Nat) (at_ : Nat → Nat → Nat), exec (.vsmp f) s = .next t ∧ OnlyCrew s t c' ∧ WordIssued c1 c' r rs
          ∧ (∀ x ∈ ls, ∃ bs : List Byte, val x.1 = leNat bs ∧ bs.length = x.2.length ∧ ∀ (i pa : Nat), x.2[i]? = some (Loc.mem pa) →
              bs[i]? = some (s1.rdAt (at_ x.1 (pa / 4)) pa)
                ∧ (at_ x.1 (pa / 4) = s.hist.length ∨ tget 0 s.smpSince (s1.coreOf c1) ≤ at_ x.1 (pa / 4) ∧ at_ x.1 (pa / 4) < s.hist.length))
          ∧ (if act = 0 then c'.pend = c1.pend
             else AwaitsLanes c1 c' (laneDest act (memRegs f) f.vd (fun l => loadVal f (val l))) [] (ls.any (fun x => s1.poisonedLocs x.2))))

/-- R312 to R314: ATOM and CAS: lanes on one word merge in ascending lane order into one access of the word, or of each half of a pair of BF16 (R94).
The model's own choices in it: log entry 5. -/
def Obligations.LaneAtomics : Prop :=
  ∀ (s : State) (c : Crew) (r : LRun) (rs : List LRun) (f : LF), FocusL s c r rs f → GraphOk s → s.Settled →
    let c1 := waitedL s.oracle c f
    let s1 := seenL s c f
    (∀ v : AtomVar, let w := if v.op = .add ∧ f.ty = 4 then 2 else 4 * tyRegs f.ty
      AtomCompletes s c r rs f v.space (atomTypes v.op) ([rT f.ty f.vc] ++ (if v.noret then [] else [rT f.ty f.vd])) v.noret w
        (fun i old lanes => atomMerge v.op f.ty old (lanes.map (fun l => opV s1 c1 (tyRegs f.ty) f.vc l / 2 ^ (8 * w * i) % 2 ^ (8 * w)))) (exec (.atom v f) s))
    ∧ ∀ sp : Space, AtomCompletes s c r rs f sp (tI ++ [2]) [rT f.ty f.vd, rT f.ty f.va, rT f.ty f.vc] false (4 * tyRegs f.ty)
        (fun _ old lanes => lanes.foldl (fun (p : Nat × List Nat) l =>
          (if p.1 = opV s1 c1 (tyRegs f.ty) f.va l then opV s1 c1 (tyRegs f.ty) f.vc l else p.1, p.2 ++ [p.1])) (old, []))
        (exec (.cas sp f) s)

/-! ### Copies, streams, records -/

namespace Sys2Proof.Claims

/-- The crew has no command and no copy out, so that no sub-queue head moves with this issue. -/
def SubQueuesEmpty (s : State) : Prop := (∀ k ∈ s.cmds, k.cid ≠ s.focus) ∧ ∀ k ∈ s.copies, k.cid ≠ s.focus

/-- The word's guard field names no slot, or a slot that is not decided: the command stays at its head (R328). -/
def GuardOpen (c : Crew) (f : LF) : Prop :=
  ∀ g, guardField f = some g → tget .unbound c.guards g ≠ .yes ∧ tget .unbound c.guards g ≠ .no

/-- The registers of the crew are as before, for a word that only posts something. -/
structure KeepsLanes (c c' : Crew) : Prop where
  v : c'.v = c.v
  p : c'.p = c.p
  pend : c'.pend = c.pend

end Sys2Proof.Claims

/-- R315, R317, R69: CPY puts one copy for every active lane in the copy sub-queue with its length, ranges, tag and guard, raises the count of every
scratch line it will write, and adds the copies to the threads' unsealed batch; CSEAL gives the active threads' unsealed copies a batch number,
and CWAIT passes, emptying the batch, when all of it has landed: in the order of memory the copies' accesses have no end before it (R96).
The model's own choices in it: log entries 5, 81. -/
def Obligations.CopiesAndBatches : Prop :=
  ∀ (s : State) (c : Crew) (r : LRun) (rs : List LRun) (f : LF), FocusL s c r rs f →
    let c1 := waitedL s.oracle c f
    let s1 := seenL s c f
    let act := activeL s c r f
    let dsp := spaceOf (bits f.low 23 22)
    let ssp := spaceOf (bits f.low 21 20)
    let blk (reg : Nat) : RBlk := if bitAt f.sub 0 then rPair reg else r1 reg
    let n := (lrunS s.oracle r (bits f.low 19 14)).toNat % 2 ^ 32
    (SubQueuesEmpty s → GuardOpen c1 f → act ≠ 0 → bits f.low 23 22 ≠ 3 → bits f.low 21 20 ≠ 3 → bitAt f.low 13 = false →
      regsOk s1 c1 [blk f.va, blk f.vb] = true → gangOk s1 c1 dsp = true → gangOk s1 c1 ssp = true → displacedTrap s1 c1 dsp = false →
      displacedTrap s1 c1 ssp = false →
      (∀ l ∈ lanesOf act, (tget? c1.threads l).isSome = true ∧ (∃ ls, s1.locate c1 ssp .copyRead (cpySrc s1 c1 r f l) n = .ok ls)
        ∧ ∃ ls, s1.locate c1 dsp .copyWrite (cpyDst s1 c1 r f l) n = .ok ls ∧ ∀ x ∈ locLines ls, s1.lineCount x < 15) →
      (s.copies.map (fun k => k.lanes.length)).sum + (lanesOf act).length ≤ 512 →
      ∃ t c' k, exec (.cpy f) s = .next t ∧ t.copies = s.copies ++ [k] ∧ k.cid = s.focus ∧ k.id = s.nextHandle ∧ k.len = some n ∧ k.left = false
        ∧ k.dsp = dsp ∧ k.ssp = ssp ∧ k.guard = guardField f ∧ k.tag = (if bitAt f.low 8 then some (bits f.low 12 9) else none)
        ∧ k.lanes.map (fun x => (x.lane, x.dst, x.src, x.landed)) = (lanesOf act).map (fun l => (l, cpyDst s1 c1 r f l, cpySrc s1 c1 r f l, false))
        ∧ (∀ x ∈ k.lanes, x.place.fin = none ∧ x.place.op = some (k.id, x.lane) ∧ x.reads = [])
        ∧ (∀ l ∈ lanesOf act, ∀ ls, s1.locate c1 dsp .copyWrite (cpyDst s1 c1 r f l) n = .ok ls → ∀ x ∈ locLines ls, x ∈ k.lines)
        ∧ (∀ x ∈ k.lines, lineStands s x = true → t.lineCount x = s.lineCount x + 1)
        ∧ t.batches = s.batches ++ k.lanes.map (fun x => ({ thread := x.thread, batch := none, op := k.id, lane := x.lane, coll := false } : BatchItem))
        ∧ t.crew? s.focus = some c' ∧ WordIssued c1 c' r rs ∧ KeepsLanes c1 c' ∧ t.mem = s.mem)
    ∧ (∃ t c' k v, exec (.cseal f) s = .next t ∧ WordIssued c1 c' r rs ∧ KeepsLanes c1 c'
        ∧ t = { s with crews := tset s.crews s.focus c', counters := k, evs := v, batches := s.batches.map (fun (b : BatchItem) =>
            if b.batch.isNone && (c1.threadsIn act).contains b.thread then { b with batch := some (f.sub % 16) } else b) })
    ∧ (let mine (b : BatchItem) : Bool := b.batch = some (f.sub % 16) && (c1.threadsIn act).contains b.thread
       (∀ b ∈ s.batches, mine b = true → s1.itemLanded b = true) →
        ∃ t c' k v, exec (.cwait f) s = .next t ∧ WordIssued c1 c' r rs ∧ KeepsLanes c1 c'
          ∧ t = { s with crews := tset s.crews s.focus c', counters := k, evs := v, batches := s.batches.filter (fun b => !mine b) }
          ∧ ∀ e ∈ v, ∀ b ∈ s.batches, mine b = true → e.op = some (b.op, b.lane) → e.fin.isSome = true)

/-- R318, R319, R169: SRD of a row that is there, overrun or of a disabled flow moves the cursor and has the pixels of the active lanes below N and
their late flags on their way. R171: SWR short of the end of its row moves the cursor and marks its pixels as written. R146: a displaced thread's crew
traps at either. -/
def Sys2Proof.Claims.StreamPixels : Prop :=
  (∀ (s : State) (c : Crew) (r : LRun) (rs : List LRun) (f : LF) (x : XReg) (w : Workgroup), FocusL s c r rs f →
    let c1 := waitedL s.oracle c f
    let s1 := seenL s c f
    let act := activeL s c r f
    s.wg? c1.g = some w → tget? w.xregs (strReg f) = some x → strFmt f < 4 → (∀ cl, c1.wait ≠ .pixels cl) → s1.displaced c1 = false →
    let vals : Tbl Nat := if x.tx then (lanesOf act).flatMap (fun l => [0, 1, 2].map (fun j => (32 * j + l, opV s1 c1 1 (f.va + j) l))) else []
    let s2 := (claim s1 c1 f x (strN f) act vals).1.stageLine c1
    let cl := (claim s1 c1 f x (strN f) act vals).2
    (x.tx = false → c1.tableFull .l = false → regsOk s1 c1 [⟨f.vd, 3, false⟩] = true → s.flowPoisoned false x.flow = false →
      (s.flowOn false x.flow = false ∨ s.rowState x.flow x.seq x.row ≠ .absent) →
      let lanes := (lanesOf act).filter (fun l => decide (l < strN f))
      let m := maskOf (fun l => lanes.contains l)
      ∀ px : Nat → List Nat × Bool, (∀ l ∈ lanes, s2.srdPixel cl l = .ok (px l)) →
        ∃ t c' y, exec (.srd f) s = .next t ∧ t.crew? s.focus = some c' ∧ WordIssued c1 c' r rs ∧ t.mem = s.mem
          ∧ t.xreg c1 (strReg f) = some y
          ∧ { y with time := x.time } = (x.advance (strN f) (s.fWidth false x.flow) (s.fRows false x.flow)).1
          ∧ (if m = 0 then c'.pend = c1.pend
             else AwaitsLanes c1 c' (destBlock f.vd 3 m (fun i l => BitVec.ofNat 32 (compOut (strFmt f) (s.fDepth false x.flow) i (s.fSamp false x.flow = 2)
                 ((px l).1.getD i 0)))) (predDest m (bits f.low 22 20) (fun l => (px l).2)) false))
    ∧ (x.tx = true → regsOk s1 c1 [⟨f.va, 3, false⟩] = true → s.flowPoisoned true x.flow = false → s.flowOn true x.flow = true →
      s.txFree x.flow x.seq = true → x.col + strN f < s.fWidth true x.flow → (s2.swrPixels c1 r cl).flowPoisoned true x.flow = false →
      ∀ y, tget? s.tx x.flow = some y → y.committed x.seq x.row = none →
        ∃ t c' z k, exec (.swr f) s = .next t ∧ t.crew? s.focus = some c' ∧ WordIssued c1 c' r rs ∧ KeepsLanes c1 c'
          ∧ t.xreg c1 (strReg f) = some { x with col := x.col + strN f }
          ∧ tget? t.tx x.flow = some z ∧ z.line x.seq x.row = some k ∧ k.commit = none
          ∧ k.pix = ((lanesOf act).filter (fun l => decide (l < strN f))).foldl (fun p l => p ||| 2 ^ (x.col + l))
              ((y.line x.seq x.row).elim 0 (fun k => k.pix))))
  ∧ ∀ (s : State) (c : Crew) (r : LRun) (rs : List LRun) (f : LF) (x : XReg), FocusL s c r rs f →
      let c1 := waitedL s.oracle c f
      let s1 := seenL s c f
      s1.xreg c1 (strReg f) = some x → strFmt f < 4 → s1.displaced c1 = true →
      (x.tx = false → regsOk s1 c1 [⟨f.vd, 3, false⟩] = true → TrapsL s c f (Trap.plain 7) (exec (.srd f) s))
      ∧ (x.tx = true → regsOk s1 c1 [⟨f.va, 3, false⟩] = true → TrapsL s c f (Trap.plain 7) (exec (.swr f) s))

/-- R320: SSTAT.GET has what its selector names on its way to the pair v[vd]; SSTAT.SET sets SEQ, the cursor or TIME from the lowest active lane, and
its selector 5 commits the line of a transmit register with its TIME and moves the cursor to the next row; a displaced thread's crew traps
(R146). -/
def Sys2Proof.Claims.StreamStatus : Prop :=
  ∀ (s : State) (c : Crew) (r : LRun) (rs : List LRun) (f : LF) (x : XReg) (w : Workgroup), FocusL s c r rs f →
    let c1 := waitedL s.oracle c f
    let s1 := seenL s c f
    let act := activeL s c r f
    let sel := bits f.low 31 28
    s.wg? c1.g = some w → tget? w.xregs (strReg f) = some x →
    (s1.displaced c1 = true → act ≠ 0 →
      (sel ≤ 4 → regsOk s1 c1 [rPair f.vd] = true → TrapsL s c f (Trap.plain 7) (exec (.sstatGet f) s))
      ∧ (sel ≤ 2 → regsOk s1 c1 [rPair f.va] = true → TrapsL s c f (Trap.plain 7) (exec (.sstatSet f) s)))
    ∧ (s1.displaced c1 = false →
    (c1.tableFull .l = false → regsOk s1 c1 [rPair f.vd] = true →
      let gets (v : Nat) : Prop := AwaitsResult s c r rs f (laneDest act 2 f.vd (fun _ => v)) [] false (exec (.sstatGet f) s)
      (sel = 0 → gets x.seq) ∧ (sel = 1 → gets (x.col + x.row * 65536)) ∧ (sel = 2 → gets x.time)
      ∧ (sel = 3 → x.tx = true → ∀ y, tget? s.tx x.flow = some y → gets (if (y.committed x.seq x.row).isSome then 1 else 0))
      ∧ (sel = 4 → x.tx = true → ∀ y, tget? s.tx x.flow = some y → gets y.frame))
    ∧ (regsOk s1 c1 [rPair f.va] = true → ∀ l more, lanesOf act = l :: more →
      let v := opV s1 c1 2 f.va l
      let sets (y : XReg) : Prop := ∃ t c' k u, exec (.sstatSet f) s = .next t ∧ WordIssued c1 c' r rs ∧ KeepsLanes c1 c'
        ∧ t = { s with crews := tset s.crews s.focus c', counters := k, evs := u, wgs := tset s.wgs c1.g { w with xregs := tset w.xregs (strReg f) y } }
      (sel = 0 → sets { x with seq := v % 2 ^ 32 })
      ∧ (sel = 1 → v % 4096 < s.fWidth x.tx x.flow → bits v 27 16 < s.fRows x.tx x.flow → sets { x with col := v % 4096, row := bits v 27 16 })
      ∧ (sel = 1 → s.fWidth x.tx x.flow ≤ v % 4096 ∨ s.fRows x.tx x.flow ≤ bits v 27 16 → TrapsL s c f Trap.illegal (exec (.sstatSet f) s))
      ∧ (sel = 2 → sets { x with time := v })
      ∧ (sel = 5 → x.tx = true → (∀ cl, c1.wait ≠ .pixels cl) → s.flowPoisoned true x.flow = false → s.flowOn true x.flow = true →
          s.txFree x.flow x.seq = true →
          ((s1.setXreg c1 (strReg f) (x.nextRow (s.fRows true x.flow))).txCommit x.flow x.seq x.row x.time).flowPoisoned true x.flow = false →
          ∀ y, tget? s.tx x.flow = some y → y.committed x.seq x.row = none →
            ∃ t c' z, exec (.sstatSet f) s = .next t ∧ t.crew? s.focus = some c' ∧ WordIssued c1 c' r rs ∧ KeepsLanes c1 c'
              ∧ t.xreg c1 (strReg f) = some (x.nextRow (s.fRows true x.flow)) ∧ tget? t.tx x.flow = some z ∧ z.committed x.seq x.row = some x.time)))

namespace Sys2Proof.Claims

/-- The pool's list of used records is in order, so that the count of the others is what is free. -/
def PoolOk (p : Pool) : Prop := (p.busy.map (fun e => e.1)).Pairwise (· < ·) ∧ ∀ e ∈ p.busy, e.1 < p.count

/-- What RALLOC leaves: the first lanes hold distinct records that were free, now allocated to the launch; no other record has changed. -/
def Allocated (s : State) (c c1 c' : Crew) (r : LRun) (rs : List LRun) (f : LF) (act : W32) (p : Pool) (idx : List Nat) (ps : Tbl Bool)
    (t : State) : Prop :=
  ∃ p', tget? t.pools (f.sub % 16) = some p' ∧ (p'.ctx, p'.base, p'.rlines, p'.count) = (p.ctx, p.base, p.rlines, p.count) ∧ idx.Nodup
    ∧ (∀ i ∈ idx, i < p.count ∧ tget? p.busy i = none ∧ tget? p'.busy i = some (.alloc (s.lidOf c)))
    ∧ (∀ i, i ∉ idx → tget? p'.busy i = tget? p.busy i) ∧ (∀ k, k ≠ f.sub % 16 → tget? t.pools k = tget? s.pools k)
    ∧ WordIssued c1 c' r rs ∧ t.mem = s.mem
    ∧ AwaitsLanes c1 c' (laneDest act 2 f.vd (fun l => match ((lanesOf act).zip idx).find? (fun e => e.1 = l) with
        | some e => (p.base.toNat + 128 * p.rlines * e.2) % 2 ^ 64
        | none => 0)) ps false

end Sys2Proof.Claims

/-- R195, R321: RALLOC with enough free records, and RALLOC.NB with however many there are, give distinct free records to lanes in ascending order;
with too few RALLOC waits. R196, R322: RPUSH of records allocated from the pool pushes them to the node in lane order. R209, R323: QPOP takes the
oldest entry, reports an empty queue without targets, or traps on a poisoned empty one. -/
def Obligations.RecordsAndQueues : Prop :=
  ∀ (s : State) (c : Crew) (r : LRun) (rs : List LRun) (f : LF), FocusL s c r rs f →
    let c1 := waitedL s.oracle c f
    let s1 := seenL s c f
    let act := activeL s c r f
    (∀ p, tget? s.pools (f.sub % 16) = some p → p.ctx = s.ctxOf c1 → PoolOk p → regsOk s1 c1 [rPair f.vd] = true → act ≠ 0 → c1.tableFull .l = false →
      ((lanesOf act).length ≤ p.count - p.busy.length →
        ∃ t c' idx, exec (.ralloc f) s = .next t ∧ t.crew? s.focus = some c' ∧ idx.length = (lanesOf act).length
          ∧ Allocated s c c1 c' r rs f act p idx [] t)
      ∧ (p.count - p.busy.length < (lanesOf act).length → exec (.ralloc f) s = fin (s1.park s.focus c1 .dry))
      ∧ ∃ t c' idx, exec (.rallocNb f) s = .next t ∧ t.crew? s.focus = some c' ∧ idx.length = min (lanesOf act).length (p.count - p.busy.length)
          ∧ Allocated s c c1 c' r rs f act p idx (predDest act (bits f.low 22 20) (fun l => ((lanesOf act).zip idx).any (fun e => e.1 = l))) t)
    ∧ (∀ nd p, tget? s.nodes (f.sub % 256) = some nd → nd.ctx = s.ctxOf c1 → tget? s.pools nd.pool = some p → regsOk s1 c1 [rPair f.va] = true →
        let va (l : Nat) : Nat := opV s1 c1 2 f.va l
        (∀ l ∈ lanesOf act, p.pushable (va l) = true ∧ ∀ m ∈ lanesOf act, m ≠ l → va m ≠ va l) →
        s.batchDue { nd with queue := nd.queue ++ (lanesOf act).map (fun l => (p.va (va l), s.tnow)) } = 0 →
        ∃ t c' k v b, exec (.rpush f) s = .next t ∧ WordIssued c1 c' r rs ∧ KeepsLanes c1 c'
          ∧ t = { s with crews := tset s.crews s.focus c', counters := k, evs := v, bells := b,
                         nodes := tset s.nodes (f.sub % 256) { nd with queue := nd.queue ++ (lanesOf act).map (fun l => (p.va (va l), s.tnow)) },
                         pools := tset s.pools nd.pool { p with busy := (lanesOf act).foldl (fun t l => tset t (p.index (p.va (va l))) .pushed) p.busy } })
    ∧ (∀ h, tget? s.hwqs (f.sub % 64) = some h → h.on = true → h.ctx = s.ctxOf c1 → c1.fate = none → regsOk s1 c1 [rPair f.vd] = true → act ≠ 0 → c1.tableFull .l = false →
        (∀ e rest, h.entries = e :: rest → ∃ t c' k v, exec (.qpop f) s = .next t ∧ WordIssued c1 c' r rs
          ∧ t = { s with crews := tset s.crews s.focus c', counters := k, evs := v,
                         hwqs := tset s.hwqs (f.sub % 64) { h with entries := rest, pushes := h.pushes.drop 1 } }
          ∧ AwaitsLanes c1 c' (laneDest act 2 f.vd (fun _ => e.toNat)) (predDest act (bits f.low 22 20) (fun _ => false)) false)
        ∧ (h.entries = [] → h.poison = false → h.targets = [] →
            AwaitsResult s c r rs f (laneDest act 2 f.vd (fun _ => 0)) (predDest act (bits f.low 22 20) (fun _ => true)) false (exec (.qpop f) s))
        ∧ (h.entries = [] → h.poison = true → TrapsL s c f ⟨11, 0, 0, 0, [(64, 1, 0), (65, 1, f.sub % 64)]⟩ (exec (.qpop f) s)))

/-! ### Engine commands -/

namespace Sys2Proof.Claims

/-- Commands with their heads noted: one that stands at the head of its sub-queue with its guard decided is eligible from now on (R129). -/
def noted (s : State) (ks : List Cmd) : List Cmd := ({ s with cmds := ks } : State).noteHeads.cmds

/-- The threads of some lanes, as agents of the order of memory. -/
def threadsAt (c : Crew) (m : W32) : List Agent := (c.threads.filter (fun e => m.getLsbD e.1)).map (fun e => .thread e.2)

/-- What a command reads at its issue for its threads: the state after the reads, and the bytes of each range. -/
def issued (s : State) (c : Crew) (r : LRun) (act : W32) (ranges : List (Nat × Nat)) : State × List (List Byte) :=
  let rd := s.readRanges (s.place c act .l r.since) (s.ctxOf c) true ranges
  (rd.1, rd.2.map (fun es => es.flatMap rd.1.returned))

/-- An engine command is posted at the tail of its crew's sub-queue (R325), with a pending write for its destinations if it records one (R326, R343),
its accesses placed where its threads stand in the order of memory (R97), those of a COLL or RAST without an end yet (R98, R185); the crew keeps its
registers. -/
def Posts (s : State) (c : Crew) (r : LRun) (rs : List LRun) (f : LF) (e : Engine) (op : CmdOp) (dests : Option (Tbl W32)) (guard : Option Nat)
    (res : Res) (also : State → Prop) : Prop :=
  let c1 := waitedL s.oracle c f
  ∃ t c' k, res = .next t ∧ t.cmds = noted s s.cmds ++ [k] ∧ k.id = s.nextHandle ∧ k.cid = s.focus ∧ k.g = c.g ∧ k.engine = e
    ∧ k.unit = engineUnit e (s.coreOf c) ∧ k.op = op ∧ k.act = activeL s c r f ∧ k.guard = guard ∧ k.stage = 0 ∧ k.held = false
    ∧ k.since = (if guard.isNone then some s.cycle else none) ∧ k.posted = s.cycle
    ∧ k.places.map (fun p => (p.1, p.2.thr)) = (if e = .matrix ∨ e = .radiance then [(0, threadsAt c1 (activeL s c r f))]
        else (lanesOf (activeL s c r f)).map (fun l => (l, threadsAt c1 (BitVec.ofNat 32 (2 ^ l)))))
    ∧ (∀ p ∈ k.places, s.evs.length ≤ p.2.start ∧ p.2.strm = .l ∧ p.2.seen = r.since ∧ p.2.fin.isSome = decide (e ≠ .collective ∧ e ≠ .raster))
    ∧ t.crew? s.focus = some c' ∧ WordIssued c1 c' r rs ∧ c'.v = c1.v ∧ c'.p = c1.p ∧ (s.stamps = [] → t.mem = s.mem) ∧ also t
    ∧ (match dests with
      | none => k.pid = none ∧ c'.pend = c1.pend
      | some vs => k.pid = some c1.nextPid ∧ ∃ q, c'.pend = c1.pend ++ [q] ∧ q.id = c1.nextPid ∧ q.strm = .l
          ∧ q.returned = false ∧ q.ready = false ∧ q.ss = [] ∧ q.vs = vs ∧ q.ps = [])

/-- The engine has room, the crew's table has an entry, lanes are active, and no head of the crew moves with the issue. -/
structure CanPost (s : State) (c : Crew) (r : LRun) (f : LF) (e : Engine) : Prop where
  subs : SubQueuesEmpty s
  act : activeL s c r f ≠ 0
  room : s.engineFull e (engineUnit e (s.coreOf c)) = false
  table : e ≠ .collective → (waitedL s.oracle c f).tableFull .l = false

end Sys2Proof.Claims

/-- R331, R332, R325: MLDB and SMCP whose rows can be read are posted with their slot, density and addresses; MLDB declares its slot's density at
issue. -/
def Sys2Proof.Claims.MatrixLoads : Prop :=
  ∀ (s : State) (c : Crew) (r : LRun) (rs : List LRun) (f : LF), FocusL s c r rs f → CanPost s c r f .matrix → GuardOpen (waitedL s.oracle c f) f →
    let c1 := waitedL s.oracle c f
    let s1 := seenL s c f
    let o := bits f.low 27 22
    let b := lrunB r (bits f.low 31 28)
    mSlot f < (s.kernOf c).sslots →
    (∀ k : MldbFmt, mDens f ≤ 2 → o ≤ 62 →
      let rows := (List.range 32).map (fun (i : Nat) => ea b ((lrunS s.oracle r o).toInt + (i : Int) * (lrunS s.oracle r (o + 1)).toInt))
      let ranges := rows.map (fun a => (a, 16 * mldbW k))
      s1.rangeFault (s1.ctxOf c1) ranges = none →
        Posts s c r rs f .matrix (.mldb k (mSlot f) (densN (mDens f)) rows none) (some []) (guardField f)
          (exec (.mldb k f) s) (fun t => ∀ w, s.wg? c.g = some w → ∃ w', t.wg? c.g = some w' ∧ tget 32 w'.mx.dens (mSlot f) = densN (mDens f)
            ∧ w'.mx.slots = w.mx.slots ∧ ∀ k, k ≠ mSlot f → tget 32 w'.mx.dens k = tget 32 w.mx.dens k))
    ∧ (mDens f = 1 ∨ mDens f = 2 → bits f.sub 5 0 + mDens f ≤ (s.kernOf c).metas →
      let addr := ea b (lrunS s.oracle r o).toInt
      let ranges := [(addr, if mDens f = 1 then 1024 else 2048)]
      s1.rangeFault (s1.ctxOf c1) ranges = none →
        Posts s c r rs f .matrix (.smcp (mSlot f) (bits f.sub 5 0) (mDens f) addr) (some []) (guardField f)
          (exec (.smcp f) s) (fun t => t.wgs = s.wgs))

/-- R333 to R335, R384: MMA is posted with its rows aligned; MSCA with its descriptors, unless they are poisoned, which is a machine check; MACZ, MACRD and MACWR with their tile, and MACWR with its values. -/
def Sys2Proof.Claims.MatrixCommands : Prop :=
  ∀ (s : State) (c : Crew) (r : LRun) (rs : List LRun) (f : LF), FocusL s c r rs f → CanPost s c r f .matrix →
    let c1 := waitedL s.oracle c f
    let s1 := seenL s c f
    let act := activeL s c r f
    let same (t : State) : Prop := t.wgs = s.wgs
    (∀ k : MmaFmt, GuardOpen c1 f → mSlot f < (s.kernOf c).sslots →
      let n := s1.declared c1.g (mSlot f)
      mPt f + 32 / n - 1 < (s.kernOf c).ptiles → f.va + mldbW (mmaBase k) * (32 / n) ≤ (s.kernOf c).vregs →
      let a := alignA s1 c1 k f.va n act
      Posts s c r rs f .matrix (.mma k (mPt f) (mSlot f) n a.1 a.2.1 a.2.2 none) (some []) (guardField f) (exec (.mma k f) s) same)
    ∧ (let k := bits f.low 23 18
       let kb := (lrunS s.oracle r k).toNat
       let rc := (lrunS s.oracle r (k + 1)).toNat
       let da := (lrunB r (bits f.low 31 28)).toNat
       let db := (lrunB r (bits f.low 27 24)).toNat
       GuardOpen c1 f → k ≤ 62 → mAcc f < (s.kernOf c).acct → mPt f < (s.kernOf c).ptiles → da % 32 = 0 → db % 32 = 0 →
       ∀ qa qb, s1.access (s1.ctxOf c1) .engine da 32 = .ok qa → s1.access (s1.ctxOf c1) .engine db 32 = .ok qb →
        let rd := issued s1 c1 r act [(da, 32), (db, 32)]
        let pa := parseScale da (rd.2.getD 0 [])
        let pb := parseScale db (rd.2.getD 1 [])
        let na := blocksA pa.1 kb (rc % 2 ^ 32) act
        let nb := blocksB pb.1 kb (rc / 2 ^ 32)
        (s1.touchesPoison (qa ++ qb) = true → TrapsL s c f (poisonTrap (s1.coreOf c1)) (exec (.msca f) s)) ∧
        (s1.touchesPoison (qa ++ qb) = false → pa.2 = true → pb.2 = true → (∀ x ∈ na, x < pa.1.nblk) → (∀ x ∈ nb, x < pb.1.nblk) →
        s1.rangeFault (s1.ctxOf c1) ((unitsOf na).map (fun u => (unitAddr pa.1 u, 512)) ++ (unitsOf nb).map (fun u => (unitAddr pb.1 u, 512))) = none →
          Posts s c r rs f .matrix (.msca (mAcc f) (mPt f) kb (rc % 2 ^ 32) (rc / 2 ^ 32) pa.1 pb.1) (some []) (guardField f) (exec (.msca f) s) same))
    ∧ (mAcc f < (s.kernOf c).acct →
       Posts s c r rs f .matrix (.macz (mAcc f)) (some []) none (exec (.macz f) s) same
       ∧ (regsOk s1 c1 [⟨f.vd, 32, false⟩] = true → Posts s c r rs f .matrix (.macrdF (mAcc f) (bits f.sub 2 1) f.vd)
           (some (destBlock f.vd 32 act (fun _ _ => 0))) none (exec (.macrd .f32 f) s) same)
       ∧ (regsOk s1 c1 [r1 f.vd] = true → Posts s c r rs f .matrix (.macrdC (mAcc f) f.vd) (some (destBlock f.vd 1 act (fun _ _ => 0))) none
           (exec (.macrd .cnt f) s) same)
       ∧ (regsOk s1 c1 [⟨f.va, 32, false⟩] = true → ∃ vals, Posts s c r rs f .matrix (.macwr (mAcc f) (bits f.sub 2 1) vals) (some []) none
           (exec (.macwr f) s) same ∧ ∀ l ∈ lanesOf act, ∀ j < 32, tget 0 vals (32 * l + j) = c1.vRd s.oracle (f.va + j) l))

namespace Sys2Proof.Claims

/-- R315, R323, R325, R330 to R339: the engine forms, CPY and QPOP, which act for the lanes of Active alone, each with what its encoding must meet
on its crew (the fields of its table row, its slots, tiles and registers) for the word to be no illegal instruction. -/
def laneCommands (s1 : State) (c1 : Crew) (f : LF) (d : MldbFmt) (m : MmaFmt) : List (Instr × Bool) :=
  let k := s1.kernOf c1
  let n := s1.declared c1.g (mSlot f)
  let fits (reg n : Nat) : Bool := reg + n ≤ k.vregs
  let offs (reg : Nat) : Bool := if bitAt f.sub 0 then reg % 2 = 0 && fits reg 2 else fits reg 1
  let gang (x : Nat) : Bool := x ≠ 2 || s1.gangSize (s1.lidOf c1) ≠ 0
  let dsp := bits f.low 23 22
  let ssp := bits f.low 21 20
  let acc : Bool := mAcc f < k.acct
  let slot : Bool := mSlot f < k.sslots
  [(.mldb d f, mDens f ≤ 2 && bits f.low 27 22 ≤ 62 && slot), (.smcp f, (mDens f = 1 || mDens f = 2) && slot && bits f.sub 5 0 + mDens f ≤ k.metas),
   (.mma m f, slot && mPt f + 32 / n - 1 < k.ptiles && fits f.va (mldbW (mmaBase m) * (32 / n))),
   (.msca f, bits f.low 23 18 ≤ 62 && acc && mPt f < k.ptiles),
   (.macz f, acc), (.macrd .f32 f, acc && fits f.vd 32), (.macrd .cnt f, acc && fits f.vd 1), (.macwr f, acc && fits f.va 32),
   (.collAdd f, fits f.va 3), (.collWr f, fits f.va 5),
   (.trav f, bits f.low 15 8 ≤ 64 && fits f.va 8 && fits f.vd 5), (.rast f, fits f.va 12),
   (.rcq f, fits f.va 16 && fits f.vd 3), (.rcqTrain f, fits f.va 16 && fits f.vd 3 && fits f.vc 4),
   (.cpy f, dsp ≠ 3 && ssp ≠ 3 && (!bitAt f.low 13 || dsp = 0) && offs f.va && offs f.vb && gang dsp && gang ssp),
   (.qpop f, f.vd % 2 = 0 && fits f.vd 2 && c1.fate ≠ some .gone
      && (c1.fate ≠ none || (tget? s1.hwqs (f.sub % 64)).elim false (fun h => h.on && h.ctx = s1.ctxOf c1)))]

end Sys2Proof.Claims

/-- R325, R315, R323, R221: with an empty Active an engine word, a CPY or a QPOP whose encoding is defined issues and does nothing else: it posts
nothing, reads nothing and consults no guard and no bin. One whose encoding is not takes the illegal-instruction trap, with an empty Active as with
any other. -/
def Sys2Proof.Claims.EmptyActivePostsNothing : Prop :=
  ∀ (s : State) (c : Crew) (r : LRun) (rs : List LRun) (f : LF) (d : MldbFmt) (m : MmaFmt), FocusL s c r rs f →
    let c1 := waitedL s.oracle c f
    ∀ i ∈ laneCommands (seenL s c f) c1 f d m,
      (i.2 = true → activeL s c r f = 0 →
        ∃ t c', exec i.1 s = .next t ∧ OnlyCrew s t c' ∧ WordIssued c1 c' r rs ∧ c'.v = c1.v ∧ c'.p = c1.p ∧ c'.pend = c1.pend)
      ∧ (i.2 = false → TrapsL s c f Trap.illegal (exec i.1 s))

/-- R336 to R339, R203: COLL, TRAV, RAST and RCQ are posted with their rays, triangles, features or sources as they stand at issue; COLL records no
pending write and adds its lanes to their threads' unsealed batches.
The model's own choices in it: log entries 38, 65, 66. -/
def Obligations.OtherEngineCommands : Prop :=
  ∀ (s : State) (c : Crew) (r : LRun) (rs : List LRun) (f : LF), FocusL s c r rs f →
    let c1 := waitedL s.oracle c f
    let s1 := seenL s c f
    let act := activeL s c r f
    let ctx := s1.ctxOf c1
    let block (reg n : Nat) : List (Nat × List W32) := (lanesOf act).map (fun l => (l, (List.range n).map (fun i => c1.vRd s.oracle (reg + i) l)))
    let here := ea (lrunB r (bits f.low 31 28)) (lrunS s.oracle r (bits f.low 27 22)).toInt
    (CanPost s c r f .collective → GuardOpen c1 f → (∀ l ∈ lanesOf act, (tget? c1.threads l).isSome = true) →
      let colls (wr : Bool) (i : Instr) (len : Option Nat) : Prop :=
        let src (l : Nat) : Nat := ea (lrunB r (bits f.low 31 28)) (sgn 32 (c1.vRd s.oracle (f.va + 1) l).toNat)
        f.va + (if wr then 5 else 3) ≤ (s.kernOf c).vregs → (∀ x, len = some x → 0 < x ∧ x ≤ 4096
          ∧ ∀ l ∈ lanesOf act, ∃ ps, s1.access ctx .engine (src l) x = .ok ps) →
        ∃ srcs, srcs.map (fun x => (x.1, x.2.2)) = (block f.va (if wr then 5 else 3)).map (fun x => (x.1, x.2, src x.1))
          ∧ Posts s c r rs f .collective (.coll wr srcs len (bits f.low 25 22)) none (guardField f) (exec i s)
              (fun t => t.batches = s.batches ++ srcs.map (fun (x : Nat × Thread × List W32 × Nat) =>
                ({ thread := x.2.1, batch := none, op := s.nextHandle, lane := x.1, coll := true } : BatchItem)))
      colls false (.collAdd f) (some 128)
      ∧ colls true (.collWr f) (if bitAt f.low 21 then none else some ((lrunS s.oracle r (bits f.low 27 22)).toNat % 2 ^ 32)))
    ∧ (CanPost s c r f .traversal → GuardOpen c1 f → bits f.low 15 8 ≤ 64 → bits f.low 15 8 ≤ (s.kernOf c).payload → bits f.low 19 16 ≤ (s.kernOf c).rdepth →
       regsOk s1 c1 [⟨f.va, 8, false⟩, ⟨f.vd, 5, false⟩] = true → here % 32 = 0 → ∀ ps, s1.access ctx .engine here 32 = .ok ps →
        let d := bvhDesc (issued s1 c1 r act [(here, 32)]).2.flatten
        s1.touchesPoison ps = false → d.2.2.2.2 = true →
        Posts s c r rs f .traversal (.trav f.vd (block f.va 8) d.1 d.2.1 d.2.2.1 d.2.2.2.1 (f.sub % 256) (bitAt f.low 21) (bitAt f.low 20))
          (some (destBlock f.vd 5 act (fun _ _ => 0))) (guardField f) (exec (.trav f) s) (fun t => t.wgs = s.wgs))
    ∧ (CanPost s c r f .raster → regsOk s1 c1 [⟨f.va, 12, false⟩] = true → here % 64 = 0 → ∀ ps, s1.access ctx .engine here 64 = .ok ps →
       s1.touchesPoison ps = false →
       let d0 := (issued s1 c1 r act [(here, 64)]).2.flatten
       (rasterTarget d0).2 = true →
       let tris := block f.va 12
       let sel := (List.range 8).filter (fun v => tris.any (fun e => (viewsOf (rasterTarget d0).1 e.2).contains v))
       s1.rangeFault ctx (sel.map (fun v => ((here + 64 + 64 * v) % 2 ^ 72, 64))) = none →
       s1.touchesPoison (s1.rangePieces ctx (sel.map (fun v => ((here + 64 + 64 * v) % 2 ^ 72, 64)))) = false →
        ∃ more : List Byte, Posts s c r rs f .raster (.rast (d0 ++ more) here tris (tris.flatMap (fun e => (viewsOf (rasterTarget d0).1 e.2).map (fun v => (e.1, v)))))
          (some []) none (exec (.rast f) s) (fun t => t.wgs = s.wgs))
    ∧ (CanPost s c r f .radiance → GuardOpen c1 f → ∀ ver, s1.capturedOf c1 (f.sub % 4) = some ver → regsOk s1 c1 [⟨f.va, 16, false⟩, ⟨f.vd, 3, false⟩] = true →
       let dests := some (destBlock f.vd 3 act (fun _ _ => 0))
       Posts s c r rs f .radiance (.rcq (f.sub % 4) ver f.vd (block f.va 16) none) dests (guardField f) (exec (.rcq f) s) (fun t => t.wgs = s.wgs)
       ∧ (regsOk s1 c1 [⟨f.vc, 4, false⟩] = true → Posts s c r rs f .radiance (.rcq (f.sub % 4) ver f.vd (block f.va 16) (some (block f.vc 4))) dests
           (guardField f) (exec (.rcqTrain f) s) (fun t => t.wgs = s.wgs)))

/-! ### Events of crews -/

namespace Sys2Proof.Claims

/-- An outcome is a next state with a property. -/
def Ends (res : Res) (p : State → Prop) : Prop := ∃ t, res = .next t ∧ p t

/-- The command in the tables is replaced; nothing else of the tables changes. -/
def Replaced (s t : State) (k : Cmd) : Prop := t.cmds = s.cmds.map (fun c => if c.id = k.id then k else c)

/-- The crew of a command has no other command, and no copy at the head: none follows it. -/
def Alone (s : State) (k : Cmd) : Prop := (∀ x ∈ s.cmds, x.cid = k.cid → x.id = k.id) ∧ ∀ x ∈ s.copies, x.cid = k.cid → x.left = true

/-- The command is gone, and its pending write, if its crew still has it, has returned with the given values where it names them. -/
def Returned (s t : State) (k : Cmd) (vs : Tbl W32) : Prop :=
  t.cmds = noted s (s.cmds.filter (fun c => c.id ≠ k.id))
  ∧ ∀ c i, s.crew? k.cid = some c → k.pid = some i → ∃ c', t.crew? k.cid = some c' ∧ c'.v = c.v ∧ c'.p = c.p ∧ c'.s = c.s ∧ c'.pend = c.pend.map (fun q =>
      if q.id = i then { q with vs := q.vs.map (fun e => (e.1, tget e.2 vs e.1)), ready := true, returned := true } else q)

/-- The command's workgroup stays: it has crews. -/
def WgStays (s : State) (g : Nat) (w : Workgroup) : Prop := s.wg? g = some w ∧ w.crews ≠ []

end Sys2Proof.Claims

/-- R20, R43, R45, R343, R384, R262: a crew with nothing left retires; a TWAIT whose time is reached is over; a pending write whose value is there
returns, and keeps its registers as they were, held while its crew is stopped; a watch whose counter has reached its threshold gives TRUE, and else
stays. -/
def Sys2Proof.Claims.CrewEvents : Prop :=
  ∀ (s : State) (cid : Nat) (c : Crew), s.crew? cid = some c → s.writes = [] →
    (s.canRetire cid c = true → Ends (exec (.crewRetire cid) s) (fun t => t.crew? cid = none
      ∧ ∀ k d, t.crew? k = some d → ∃ d0, (k, d0) ∈ s.crews ∧ d.threads = d0.threads ∧ d.v = d0.v ∧ d.s = d0.s))
    ∧ (∀ x, c.wait = .twait x → s.reached x = true → exec (.twaitWake cid) s = .next (s.setCrew cid { c with wait := .none }))
    ∧ (∀ i p, c.pend.find? (fun p => p.id = i && !p.returned) = some p → p.poison = false → p.ready = true →
        let back (held : Bool) : Crew :=
          let p' : Pending := { (s.delivered p).2 with returned := true, held := held, late := [] }
          { c with pend := c.pend.map (fun (x : Pending) => if x.id = i then p' else x), runs := c.runs.map (LRun.hear p') }
        (p.late = [] → s.delivered p = (s, p)) ∧ (∃ v, (s.delivered p).1 = { s with evs := v })
        ∧ (c.stop = none → s.partStopped (s.coreOf c) c.part = false → c.threads ≠ [] →
            exec (.pendingWriteReturn cid i) s = .next ((s.delivered p).1.setCrew cid (back false)))
        ∧ (c.stop.isSome = true ∨ s.partStopped (s.coreOf c) c.part = true →
            Ends (exec (.pendingWriteReturn cid i) s) (fun t => t.crew? cid = some (back true) ∧ t.regs = s.regs)))
    ∧ (∀ n addr thr pos failed met w bs, tget .unbound c.guards n = .watch addr thr pos failed met → s.wg? c.g = some w → w.phase = .resident →
        (∀ k ∈ s.cmds, k.cid ≠ cid) → (∀ k ∈ s.copies, k.cid ≠ cid) → s.vread (s.ctxOf c) .watch addr.toNat 8 = .ok bs →
        ∃ u got, s.watchRead (s.ctxOf c) cid addr.toNat = .ok (u, leNat bs, got) ∧ (∃ v, u = { s with evs := v }) ∧ Ends (exec (.guardWatchRead (.guard cid n)) s) (fun t => t.mem = s.mem
          ∧ t.crew? cid = some (if thr ≤ leNat bs then { c with guards := tset c.guards n .yes, trigs := tset c.trigs n got }
              else { c with guards := tset c.guards n (.watch addr thr pos false none), trigs := tset c.trigs n [] })
          ∧ ∀ k, k ≠ cid → t.crew? k = s.crew? k))

/-- R345, R346: a marker writes every returned pending write of its stream into its registers, and only those, and the writes are gone. Of a
destination that another write has contested it gives the one value or leaves the other. -/
def Sys2Proof.Claims.MarkersDeliver : Prop :=
  ∀ (o : Nat) (c : Crew) (st : Stream),
    let done := c.pend.filter (fun p => p.strm = st && p.returned)
    let c' := c.mark o st
    c'.pend = c.pend.filter (fun p => !(p.strm = st && p.returned))
    ∧ (∀ k, (∀ p ∈ done, ∀ e ∈ p.vs, e.1 ≠ k) → tget 0 c'.v k = tget 0 c.v k) ∧ (∀ k, (∀ p ∈ done, ∀ e ∈ p.ss, e.1 ≠ k) → tget 0 c'.s k = tget 0 c.s k)
    ∧ (∀ p ∈ done, ∀ e ∈ p.vs, (∀ q ∈ done, ∀ d ∈ q.vs, d.1 = e.1 → d = e) → tget 0 c'.v e.1 = e.2 ∨ e.1 ∈ p.vc ∧ tget 0 c'.v e.1 = tget 0 c.v e.1)
    ∧ (∀ p ∈ done, ∀ e ∈ p.ss, (∀ q ∈ done, ∀ d ∈ q.ss, d.1 = e.1 → d = e) → tget 0 c'.s e.1 = e.2 ∨ e.1 ∈ p.sc ∧ tget 0 c'.s e.1 = tget 0 c.s e.1)
    ∧ c'.stack = c.stack ∧ c'.b = c.b ∧ c'.threads = c.threads ∧ c'.runs = c.runs

/-- R38, R257: when a barrier's clock has reached BTO and may run, every crew with a path parked on it stops with class 10 at the BAR or GBAR of its
topmost parked path (the policy being to wait). -/
def Sys2Proof.Claims.BarrierTimeouts : Prop :=
  ∀ (s : State) (r : BarRef) (g : Nat) (w : Workgroup) (k : Nat), s.writes = [] → (s.barWgs r).head? = some g → s.wg? g = some w →
    (∀ x ∈ s.barWgs r, s.clockRuns x = true) → (s.barrier r).clock = some k → (s.kernOfLid w.lid).btoNs ≤ k → (∀ e ∈ s.crews, s.policy (s.ctxOf e.2) 10 = .wait) →
    s.policy ((s.launch? w.lid).elim 0 (fun l => l.ctx)) 10 = .wait →
    Ends (exec (.barrierTimeout r) s) (fun t => t.mem = s.mem ∧ ∀ cid c, s.crew? cid = some c → (s.barWgs r).contains c.g = true →
      c.stack.any (barParks r) = true → ∀ e, c.stack.find? (fun e => e.park.isSome) = some e → ∃ c' st, t.crew? cid = some c' ∧ c'.stop = some st ∧ st.trap.cls = 10
        ∧ st.pos.spc = (e.park.elim e.pc (fun p => p.pc)) ∧ c'.stack = c.stack ∧ c'.v = c.v ∧ c'.s = c.s)

/-- R140 to R143, R147, R148: the time-out of a RGRP round fires it, with the slots that take part at that instant. A fired RGRP round commits, and
the crew formed in each participating slot holds its threads from lane 0 up with the registers they move, resumes past the RGRP with no wait
and no run, and shows its key. A fired RHOM round commits, and every thread that has come is at its origin crew and lane with the registers
it moves, past the RHOM. A move that met an uncorrectable error moves no thread, and each crew that came takes a machine check where it
arrived. -/
def Sys2Proof.Claims.RegroupRounds : Prop :=
  ∀ (s : State) (r : Round), s.writes = [] →
    let moved (c' : Crew) (m : Moving) (lane : Nat) : Prop :=
      ∀ k < m.n, tget 0 c'.v (32 * k + lane) = (s.crew? m.cid).elim 0 (fun o => tget 0 o.v (32 * k + m.lane))
    (r ∈ s.rounds → r.home = false → r.fired = false → r.timeout ≠ 0 → r.timeout ≤ r.elapsed →
      Ends (exec (.regroupRoundTimeout r.id) s) (fun t => { r with fired := true, elapsed := 0, slots := s.participants r } ∈ t.rounds ∧ t.crews = s.crews ∧ t.mem = s.mem))
    ∧ (s.rounds.find? (fun x => x.id = r.id && x.fired) = some r → r.home = false → r.slots.Nodup →
        Ends (exec (.regroupCommit r.id true) s) (fun t => (∀ x ∈ t.rounds, x.id ≠ r.id)
          ∧ ∀ (i cid : Nat) (c : Crew) (ms : List Moving), r.slots[i]? = some cid → s.crew? cid = some c →
              (packCrews r.slots.length (sortMoving (s.movingIn r)))[i]? = some ms →
              ∃ c', t.crew? cid = some c' ∧ c'.threads = ((List.range ms.length).zip ms).map (fun e => (e.1, e.2.thread)) ∧ c'.pc = r.site + 8
                ∧ c'.key = keyOf ms ∧ c'.wait = .none ∧ c'.runs = [] ∧ c'.active = maskOf (fun l => decide (l < ms.length))
                ∧ ∀ l m, ms[l]? = some m → moved c' m l))
    ∧ (s.rounds.find? (fun x => x.id = r.id && x.fired) = some r → r.home = true → r.slots.Nodup → (∀ m ∈ s.movingIn r, m.thread.lane < 32) →
        Ends (exec (.regroupCommit r.id true) s) (fun t => (∀ x ∈ t.rounds, x.id ≠ r.id)
          ∧ ∀ (cid : Nat) (c : Crew) (m : Moving), cid ∈ r.slots → s.crew? cid = some c → m ∈ s.movingIn r → m.thread.lid = s.lidOf c →
              m.thread.wgi = s.wgiOf c → m.thread.crew = c.id →
              (∀ x ∈ s.movingIn r, x.thread.lid = m.thread.lid → x.thread.wgi = m.thread.wgi → x.thread.crew = m.thread.crew →
                x.thread.lane = m.thread.lane → x = m) →
              ∃ c', t.crew? cid = some c' ∧ tget? c'.threads m.thread.lane = some m.thread ∧ c'.active.getLsbD m.thread.lane = true ∧ c'.pc = r.site + 4
                ∧ c'.wait = .none ∧ c'.runs = [] ∧ moved c' m m.thread.lane))
    ∧ (∀ p : Policy, s.rounds.find? (fun x => x.id = r.id && x.fired) = some r → (s.arrivedIn r).Pairwise (fun a b => a.cid ≠ b.cid) →
        (∀ e ∈ s.crews, s.policy (s.ctxOf e.2) 16 = p) →
        Ends (exec (.regroupCommit r.id false) s) (fun t => (∀ x ∈ t.rounds, x.id ≠ r.id)
          ∧ ∀ a ∈ s.arrivedIn r, ∀ c, s.crew? a.cid = some c →
              (p = .kill → ∃ x ∈ t.trapBuf, x.ctx = s.ctxOf c ∧ x.waits = false ∧ x.cid = some a.cid ∧ recField x.bytes 4 1 = 16
                ∧ recField x.bytes 24 10 = a.pos.spc.toNat ∧ recField x.bytes 34 3 = lposBits a.pos.lpos)
              ∧ (p = .debug → c.threads ≠ [] → t.partStopped (s.coreOf c) c.part = true ∧ ∃ c' st, t.crew? a.cid = some c' ∧ c'.stop = some st ∧ st.trap.cls = 16
                ∧ st.pos = a.pos ∧ c'.threads = c.threads ∧ c'.stack = c.stack ∧ c'.s = c.s ∧ c'.v = c.v ∧ c'.wait = .none)))

/-- R141: packing loses and repeats no thread, makes crews of 1 to 32 threads, and gives each crew one key when that fits the slots. -/
def Sys2Proof.Claims.RegroupPacking : Prop :=
  ∀ (n : Nat) (xs : List Moving),
    (packCrews n (sortMoving xs)).flatten.Perm xs ∧ (∀ g ∈ packCrews n (sortMoving xs), 0 < g.length ∧ g.length ≤ 32)
    ∧ ((((sortMoving xs).map (fun x => x.key)).eraseDups.flatMap (fun k => chunks 32 (xs.length + 1) ((sortMoving xs).filter (fun x => x.key = k)))).length ≤ n →
        ∀ g ∈ packCrews n (sortMoving xs), ∀ a ∈ g, ∀ b ∈ g, a.key = b.key)

/-! ### The copy engine and the engines of a quad -/

/-- R316, R315: copies of a known length at the head without a guard leave it, and a copy of bytes whose source is there lands: its destination
gets the source's bytes, each the value of a write to it or what it held at first (R96), and no other byte changes.
The model's own choices in it: log entries 5, 107. -/
def Obligations.CopyEngine : Prop :=
  ∀ (s : State) (op : CopyOp), s.Settled → GraphOk s → op ∈ s.copies → (∀ x ∈ s.copies, x.id = op.id → x = op) →
    (op.left = false → op.guard = none → s.copyLive op = true → (∃ n, op.len = some n ∧ n ≠ 0) → (∀ x ∈ s.copies, x.cid = op.cid → x = op) →
      (∀ k ∈ s.cmds, k.cid ≠ op.cid) → (∀ x ∈ s.copies, x.id < op.id → s.copyReady x = false) →
      Ends (exec (.copyLeaveHead op.cid) s) (fun t => t.copies.map (fun k => (k.id, k.left)) = s.copies.map (fun k => (k.id, k.left || k.id = op.id))
        ∧ t.mem = s.mem ∧ t.crews = s.crews ∧ t.wgs = s.wgs))
    ∧ (∀ k w n src dst, op.left = true → op.recs = none → op.lanes.find? (fun x => x.lane = k.lane && !x.landed && !x.held) = some k →
        (op.dsp = .glb ∨ s.copyLive op = true) → op.len = some n → s.stamps = [] → WgStays s op.g w → (s.launch? op.lid).isSome = true →
        s.spaceLocs op.g op.lid op.ctx op.ssp .copyRead k.src n = .ok src → s.spaceLocs op.g op.lid op.ctx op.dsp .copyWrite k.dst n = .ok dst →
        (∀ l ∈ locLines src, s.lineAbsent l = false) → s.poisonedLocs src = false → s.poisonedLocs dst = false → Named src → Named dst →
        (∀ l ∈ dst, placeStands s l = true) → k.got = [] → k.reads = [] →
        Ends (exec (.copyLand op.id k.lane) s) (fun t => (∀ l, l ∉ dst → t.getLoc l = s.getLoc l)
          ∧ (dst.Nodup → src.Nodup → (∀ l ∈ src, l ∉ dst) → ∃ v : Nat → Byte,
              (∀ (i : Nat) x, src[i]? = some x → (∃ rf, v i = s.valueOf x.key rf ∧ ∀ w, rf = some w → w ∈ s.order x.key)
                ∧ (tget? s.orders x.key = none → v i = s.getLoc x))
              ∧ ∀ (i : Nat) d, dst[i]? = some d → Wrote s t k.place Sync.plain d (v i))
          ∧ ∀ x ∈ t.copies, x.id = op.id → ∀ j ∈ x.lanes, j.lane = k.lane → j.landed = true))

/-- R331, R332, R122, R126: MLDB leaves its head with the rows it has read and commits by replacing its slot; SMCP writes its masks and binds
them to its slot in one event, and unbinds every other entry of that slot. -/
def Sys2Proof.Claims.MatrixLoadEvents : Prop :=
  ∀ (s : State) (k : Cmd) (w : Workgroup), s.writes = [] → s.stamps = [] → s.cmds.find? (fun x => x.id = k.id) = some k → WgStays s k.g w → Alone s k →
    k.engine = .matrix →
    (∀ fmt sl n rows, k.op = .mldb fmt sl n rows none →
      s.arbiter (s.ageLimit k.unit) ((s.eligible .matrix k.unit).filter (fun x => match x.op with
        | .mldb _ _ _ _ none => true
        | _ => false)) = some k → s.staging k.unit < 4 →
      s.rangeFault k.ctx k.op.ranges = none → s.touchesPoison (s.rangePieces k.ctx k.op.ranges) = false →
      Ends (exec (.mldbLeaveHead k.id) s) (fun t => t.mem = s.mem ∧ t.wgs = s.wgs ∧ Replaced s t
        { (s.readCmd k).2 with stage := 1, started := s.cycle, op := .mldb fmt sl n rows (some (buildSlot fmt n ((s.readCmd k).1.cmdBytes (s.readCmd k).2).flatten)) }))
    ∧ (∀ fmt sl n rows x, k.op = .mldb fmt sl n rows (some x) → k.stage = 1 → s.passReads k sl [] = false →
      Ends (exec (.mldbCommit k.id) s) (fun t => Returned s t k [] ∧ t.mem = s.mem
        ∧ t.wg? k.g = some { w with mx := { w.mx with slots := tset w.mx.slots sl x } }))
    ∧ (∀ sl e d addr, k.op = .smcp sl e d addr →
      s.arbiter (s.ageLimit k.unit) ((s.eligible .matrix k.unit).filter (fun x => match x.op with
        | .smcp _ _ _ _ => true
        | _ => false)) = some k → s.passReads k sl ((List.range d).map (fun i => e + i)) = false →
      s.rangeFault k.ctx k.op.ranges = none → s.touchesPoison (s.rangePieces k.ctx k.op.ranges) = false →
      Ends (exec (.smcpCommit k.id) s) (fun t => Returned s t k [] ∧ t.mem = s.mem ∧ ∃ w', t.wg? k.g = some w' ∧ w'.mx.slots = w.mx.slots ∧ w'.mx.acc = w.mx.acc
        ∧ (∀ i < d, ∃ x, tget? w'.mx.metas (e + i) = some x ∧ x.slot = some sl ∧ x.dens = densN d)
        ∧ (∀ m x, tget? w'.mx.metas m = some x → x.slot = some sl → e ≤ m ∧ m < e + d)))

/-- R124, R125, R333: the arbiter's pass is granted with its slot and metadata; a dense pass whose slot pairs with it writes the exact products' sums
of each active row and column to its partial tile, its checksum column being right; a checksum mismatch is counted and runs it once more. -/
def Sys2Proof.Claims.MatrixPasses : Prop :=
  ∀ (s : State) (quad : Nat) (k : Cmd) (w : Workgroup) (fmt : MmaFmt) (pt sl n : Nat) (a ea : Tbl Int) (bad : Tbl Bool) (cap : Option (Option Slot × Tbl Meta)),
    s.writes = [] → s.stamps = [] → WgStays s k.g w → k.op = .mma fmt pt sl n a ea bad cap → (∀ x ∈ s.cmds, x.id = k.id → x = k) → Alone s k →
    ((s.passes quad).any (fun x => decide (s.cycle < x.started + x.win)) = false →
      s.arbiter (s.ageLimit quad) ((s.eligible .matrix quad).filter (fun x => match x.op with
        | .mma _ _ _ _ _ _ _ _ => true
        | _ => false)) = some k →
      Ends (exec (.passGrant quad) s) (fun t => t.mem = s.mem ∧ t.wgs = s.wgs ∧ t.cmds = noted s (s.cmds.map (fun c => if c.id = k.id then { k with
        stage := 1, started := s.cycle, op := .mma fmt pt sl n a ea bad (some (tget? w.mx.slots sl, w.mx.metas.filter (fun e => e.2.slot = some sl))) } else c))))
    ∧ (s.passes quad = [k] → k.started + k.win + 10 ≤ s.cycle →
        (∀ slv ms upset row, cap = some (slv, ms) → k.rerun = false → passGood s.oracle k.act pt n a (pairedSlot fmt n slv) ms upset = false →
          Ends (exec (.passComplete quad upset row) s) (fun t => t.mem = s.mem ∧ t.wgs = s.wgs ∧ Replaced s t { k with stage := 0, rerun := true }
            ∧ bits (t.r32 (mxeBlk quad + 8)) 15 0 = min (bits (s.r32 (mxeBlk quad + 8)) 15 0 + 1) 65535))
        ∧ (∀ x ms, cap = some (some x, ms) → n = 32 → x.dens = 32 → pairClass x.tag = pairClass (mmaBase fmt) →
            (∀ j < 32, tget 0 x.ck j = ((List.range 128).map (fun c => tget 0 x.vals (128 * j + c))).sum) → ∀ row,
            Ends (exec (.passComplete quad false row) s) (fun t => Returned s t k [] ∧ t.mem = s.mem ∧ ∃ w', t.wg? k.g = some w' ∧ w'.mx.slots = w.mx.slots
              ∧ w'.mx.acc = w.mx.acc
              ∧ (∀ r < 32, k.act.getLsbD r = true → ∀ c < 128, tget 0 w'.mx.ptP (4096 * pt + 128 * r + c)
                  = ((List.range 32).map (fun j => tget 0 a (128 * r + j) * tget 0 x.vals (128 * j + c))).sum)
              ∧ (∀ r < 32, k.act.getLsbD r = false → ∀ c < 128, tget 0 w'.mx.ptP (4096 * pt + 128 * r + c) = tget 0 w.mx.ptP (4096 * pt + 128 * r + c)))))

/-- R115, R130, R133 to R135: the fold unit zeroes, writes and reads accumulator tiles, and folds a partial tile with its scales, where no other crew's command
is on the same tile; a missing scale unit is fetched. -/
def Sys2Proof.Claims.FoldUnit : Prop :=
  ∀ (s : State) (quad : Nat) (k : Cmd) (w : Workgroup), s.writes = [] → s.stamps = [] → WgStays s k.g w → Alone s k →
    (∀ x ∈ s.cmds, x.rest = none) → k.vals = [] → (∀ acc es, foldSpan k.op k.act = some (acc, es) → s.contended k acc = false) →
    let heads := (s.eligible .matrix quad).filter (fun k => match k.op with
      | .msca _ pt _ _ _ _ _ => !s.passPending k pt && s.scalesReady quad k
      | .macz _ | .macrdF _ _ _ | .macrdC _ _ | .macwr _ _ _ => true
      | _ => false)
    let ends (vs : Tbl W32) (p : Matrix → Prop) : Prop :=
      Ends (exec (.foldGrant quad) s) (fun t => Returned s t k vs ∧ t.mem = s.mem ∧ ∃ w', t.wg? k.g = some w' ∧ w'.mx.ptP = w.mx.ptP ∧ p w'.mx)
    let at_ (acc r c : Nat) : Nat := 4096 * acc + 128 * r + c
    (s.arbiter (s.ageLimit quad) heads = some k →
      (∀ acc, k.op = .macz acc → ends [] (fun m => (∀ r < 32, k.act.getLsbD r = true → ∀ c < 128, tget 0 m.acc (at_ acc r c) = 0)
        ∧ (∀ r < 32, k.act.getLsbD r = false → ∀ c < 128, tget 0 m.acc (at_ acc r c) = tget 0 w.mx.acc (at_ acc r c))))
      ∧ (∀ acc cb vd, k.op = .macrdF acc cb vd → ends (destBlock vd 32 k.act (fun j r => tget 0 w.mx.acc (at_ acc r (32 * cb + j)))) (fun m => m = w.mx))
      ∧ (∀ acc vd, k.op = .macrdC acc vd → ends (destBlock vd 1 k.act (fun _ r =>
          BitVec.ofNat 32 (packElems 8 4 (fun i => tget 0 w.mx.cnt (128 * acc + 4 * r + i))))) (fun m => m = w.mx))
      ∧ (∀ acc cb vals, k.op = .macwr acc cb vals → cb < 4 → ends [] (fun m =>
          ∀ r < 32, k.act.getLsbD r = true → ∀ j < 32, tget 0 m.acc (at_ acc r (32 * cb + j)) = tget 0 vals (32 * r + j)))
      ∧ (∀ acc pt kb row0 col0 da db, k.op = .msca acc pt kb row0 col0 da db → da.fresh = false → db.fresh = false →
          (∀ i e, (k.op.units k.act)[i]? = some e → (s.readCmd k).1.unitStale quad (s.readCmd k).2 i e.2.1 e.2.2 = false) →
          let data (d : ScaleDesc) (n : Nat) : Nat := unitScale ((s.scaleUnit quad k.ctx d.tid (n / 128)).elim [] (fun x => x.data)) n
          ends [] (fun m => ∀ r < 32, k.act.getLsbD r = true → ∀ c < 128, tget 0 m.acc (at_ acc r c)
            = foldElem (tget 0 w.mx.acc (at_ acc r c)) (tget 0 w.mx.ptP (at_ pt r c)) (tget 0 w.mx.ptEA (32 * pt + r) + tget 0 w.mx.ptEB (128 * pt + c))
                (tget false w.mx.ptRbad (32 * pt + r) || tget false w.mx.ptCbad (128 * pt + c)) (data da (kb * da.ld + row0 + r)) (data db (kb * db.ld + col0 + c)))))
    ∧ (s.arbiter (s.ageLimit quad) ((s.eligible .matrix quad).filter (fun k => match k.op with
          | .msca _ _ _ _ _ _ _ => !s.scalesReady quad k
          | _ => false)) = some k →
        ∀ xs, (s.readCmd k).1.fetchUnits (s.readCmd k).2 (fun _ d u => !d.fresh && (s.scaleUnit quad k.ctx d.tid u).isNone) = .ok (xs, false) →
          Ends (exec (.scaleUnitFill quad) s) (fun t => t.scalesReady quad k = true ∧ t.mem = s.mem ∧ Replaced s t (s.readCmd k).2 ∧ t.wgs = s.wgs))

/-- R155, R339, R193, R338, R183: a granted query occupies the unit and then returns the outputs of the network for each active lane; a traversal returns
its records; a triangle that a RAST has submitted is applied once, and the RAST returns when none is left.
The model's own choices in it: log entries 46, 65, 67. -/
def Obligations.OtherEngineEvents : Prop :=
  ∀ (s : State) (k : Cmd) (w : Workgroup), s.writes = [] → s.stamps = [] → WgStays s k.g w → s.cmds.find? (fun x => x.id = k.id) = some k → Alone s k →
    (∀ quad, (s.querying quad).any (fun x => decide (s.cycle < x.started + rcqCycles x.act)) = false →
      s.arbiter (s.ageLimit quad) (s.eligible .radiance quad) = some k →
      Ends (exec (.rcqGrant quad) s) (fun t => t.mem = s.mem ∧ Replaced s t { k with stage := 1, started := s.cycle }))
    ∧ (∀ quad more slot ver vd feats, s.querying quad = k :: more → k.started + rcqCycles k.act ≤ s.cycle → k.op = .rcq slot ver vd feats none →
        ∀ net, tget? s.rcos slot = some net →
        Ends (exec (.rcqComplete quad) s) (fun t => t.mem = s.mem ∧ Returned s t k (destBlock vd 3 k.act (fun i l => BitVec.ofNat 32
          (((feats.find? (fun e => e.1 = l)).elim [] (fun e => queryNet (fun j => (tget 0 (if ver = 0 then net.verA else net.verB) j).toNat)
            (e.2.flatMap (fun x => [x.toNat % 65536, x.toNat / 65536])))).getD i 0)))))
    ∧ (∀ vd rays nodes tris insts level rmask anyHit cullb, k.op = .trav vd rays nodes tris insts level rmask anyHit cullb →
        k.engine = .traversal → s.arbiter (s.ageLimit (k.unit / 4)) (s.eligible .traversal k.unit) = some k →
        ∀ (at_ : Nat → State) (res : Nat → Walk), at_ 0 = s → (∀ i e, rays[i]? = some e → (res e.1).poison = false ∧
          walkRay k.ctx (k.placeOf (at_ i) e.1) e.1 anyHit cullb rmask walkFuel (at_ i) { met := 0, best := none, malformed := false, poison := false, todo := [.node
            { nodes := nodes, tris := tris, insts := insts, level := level, inst := 0xFFF, ray :=
              { o := (List.range 3).map (fun i => (e.2.getD i 0).toNat), d := (List.range 3).map (fun i => (e.2.getD (3 + i) 0).toNat),
                tmin := (e.2.getD 6 0).toNat, tmax := (e.2.getD 7 0).toNat } } 0] } = .ok (at_ (i + 1), res e.1)) →
        (∀ l ∈ lanesOf k.act, l ∈ rays.map (fun e => e.1)) →
        Ends (exec (.travComplete k.id) s) (fun t => t.mem = s.mem ∧ Returned s t k (destBlock vd 5 k.act (fun i l => (res l).record i))))
    ∧ (∀ desc a tris todo lane view c r, k.op = .rast desc a tris todo → s.crew? k.cid = some c → k.held = false → s.isHead k = true → (k.stage = 1 ∨ s.cmdLive k = true ∧ s.firstIssued k = true) →
        todo.contains (lane, view) = true →
        RastRun.triangle { s := s, poison := false, tag := ⟨k.ctx, k.cid, k.who, k.pos⟩, place := k.placeOf s lane } (rasterTarget desc).1 a view (words4 desc (64 + 64 * view) 16)
          ((tris.find? (fun e => e.1 = lane)).elim [] (fun e => e.2)) = .ok r → r.s.cmds = s.cmds →
        Ends (exec (.rasteriseTriangle k.id lane view) s) (fun t => t.mem = r.s.commit.mem
          ∧ Replaced s t { k with stage := 1, op := .rast desc a tris (todo.erase (lane, view)) }))
    ∧ (∀ desc a tris c, k.op = .rast desc a tris [] → s.crew? k.cid = some c → s.isHead k = true →
        (k.stage = 1 ∨ s.cmdLive k = true ∧ s.firstIssued k = true) →
        (∀ p ∈ c.pend, some p.id = k.pid → p.poison = false) → Ends (exec (.rastReturn k.id) s) (fun t => t.mem = s.mem ∧ Returned s t k []))

/-! ### Kiln -/

/-- R157, R158, R160, R161, R153, R162: the slot whose turn it is takes a Kiln step of 256 samples, which changes no version; a due switch is served; a switch writes the rounded master weights
into the version that was not the newest and makes it the newest; an owed write-back that succeeds is owed no more. -/
def Sys2Proof.Claims.KilnSteps : Prop :=
  ∀ (s : State) (slot : Nat) (r : Rco), s.writes = [] → tget? s.rcos slot = some r →
    (r.budget ≠ 0 → r.steps < r.budget → r.due = false → r.wbOwed = false → r.ubOwed = false → bitAt (s.r32 0x00141000) 31 = false → s.kilnFree = true → 256 ≤ r.held →
      (∀ i < 256, r.faulted.contains ((r.get + i) % 2 ^ 32) = true ∨ ∃ ps, s.access r.ctx .engine (r.place ((r.get + i) % 2 ^ 32)) 80 = .ok ps) →
      (∃ i < 4, (s.kilnNext + i) % 4 = slot ∧ ∀ j < i, ∀ r', tget? s.rcos ((s.kilnNext + j) % 4) = some r' → s.kilnMay r' = false) →
      Ends (exec (.kilnStep slot) s) (fun t => t.mem = s.mem ∧ t.launches = s.launches ∧ t.kilnNext = (slot + 1) % 4 ∧ ∃ r', tget? t.rcos slot = some r'
        ∧ r'.get = (r.get + 256) % 2 ^ 32 ∧ r'.put = r.put ∧ r'.step = (r.step + 1) % 2 ^ 32 ∧ r'.steps = r.steps + 1 ∧ r'.verA = r.verA ∧ r'.verB = r.verB
        ∧ r'.newestB = r.newestB ∧ r'.p1 = BitVec.ofNat 32 (rne32 ((Fmt.f32.dec r.p1.toNat).mul (Fmt.f32.dec r.beta1.toNat)))))
    ∧ (∀ at_ frame, r.pending = some (at_, frame) →
        (s.reached (wakeTime at_) = true → Ends (exec (.kilnSwitchDue slot) s) (fun t => t.mem = s.mem ∧ ∃ r', tget? t.rcos slot = some r' ∧ r'.due = true
          ∧ r'.pending = r.pending ∧ r'.theta = r.theta))
        ∧ (r.due = true → s.holds slot (some (if r.newestB then 0 else 1)) = false → s.kilnFree = true →
            Ends (exec (.kilnSwitchWrite slot) s) (fun t => ∃ r', tget? t.rcos slot = some r' ∧ r'.pending = none ∧ r'.due = false ∧ r'.newestB = !r.newestB
              ∧ r'.theta = r.theta ∧ (if r.newestB then r'.verA = halfWeights r.theta ∧ r'.sfnA = some frame ∧ r'.verB = r.verB
                else r'.verB = halfWeights r.theta ∧ r'.sfnB = some frame ∧ r'.verA = r.verA))))
    ∧ (r.wbOwed = true → (s.writeBack slot true).2 = true → Ends (exec (.rcuWritebackRetry slot) s) (fun t =>
        tget? t.rcos slot = some (if r.flush then { r with wbOwed := false, get := r.put, faulted := [] } else { r with wbOwed := false })))

/-- R162: a bind of a free slot takes the descriptor's network or sets BAD; an unbind is noted, and completes when no launch holds a version and its
write-back is made; KILN_CTL pauses Kiln. -/
def Sys2Proof.Claims.RadianceBinding : Prop :=
  ∀ (s : State) (slot v : Nat), s.writes = [] →
    let blk := rcuBlk slot
    let s1 := s.setField (blk + 0x10) 21 16 (bits v 21 16)
    let desc := BitVec.ofNat 72 ((s1.addr72 blk (blk + 8)).toNat / 128 * 128)
    (slot < 4 → bitAt v 31 = true → bitAt v 30 = false → tget? s.rcos slot = none →
      (∀ r, s1.bindable (bits (s1.r32 (blk + 0x10)) 21 16) desc = some r →
        Ends (exec (.bindRco slot v) s) (fun t => tget? t.rcos slot = some r ∧ bitAt (t.r32 (blk + 0x10)) 1 = false ∧ t.mem = s.mem))
      ∧ (s1.bindable (bits (s1.r32 (blk + 0x10)) 21 16) desc = none →
        Ends (exec (.bindRco slot v) s) (fun t => tget? t.rcos slot = none ∧ bitAt (t.r32 (blk + 0x10)) 1 = true ∧ t.mem = s.mem)))
    ∧ (∀ r, tget? s.rcos slot = some r → r.due = false → r.wbOwed = false → r.unbinding = false → slot < 4 → bitAt v 31 = false → bitAt v 30 = true →
        Ends (exec (.unbindRco slot v) s) (fun t => tget? t.rcos slot = some { r with unbinding := true } ∧ t.mem = s.mem))
    ∧ (∀ r, tget? s.rcos slot = some r → r.unbinding = true → s.holds slot none = false → r.wbOwed = false →
        (s.writeBack slot r.ubOwed).2 = true → ∀ e ∈ [Instr.unbindComplete slot] ++ (if r.ubOwed then [.rcuWritebackRetry slot] else []),
        Ends (exec e s) (fun t => tget? t.rcos slot = none))
    ∧ Ends (exec (.pauseKiln v) s) (fun t => bitAt (t.r32 0x00141000) 31 = bitAt v 31 ∧ t.rcos = s.rcos ∧ t.mem = s.mem
        ∧ ∀ o, o ≠ 0x00141000 → t.r32 o = s.r32 o)

/-! ### Collectives -/

/-- R203, R204, R201, R324, R197: the collective engine sends the ADD contributions of a COLL that no older one of the core precedes, in order, as
packets of the pair that are yet to be acknowledged; each has for every byte of its source the value of a write to it or what it held at first. A record's copy lands in the record buffer and frees the
pool's record.
The model's own choices in it: log entries 42, 46. -/
def Obligations.CollectiveSends : Prop :=
  ∀ (s : State) (w : Workgroup), s.writes = [] → s.stamps = [] →
    (∀ (k : Cmd) srcs bin e p, WgStays s k.g w → Alone s k → (∀ x ∈ s.cmds, x.id = k.id → x = k) → k.op = .coll false srcs (some 128) bin →
      s.cmds.find? (fun x => x.cid = k.cid && s.collReady x) = some k →
      (∀ x ∈ s.cmds, s.collReady x = true → x.unit = k.unit → x = k ∨ k.posted < x.posted ∨ k.posted = x.posted ∧ k.id < x.id) →
      s.pair? e = some p → p.ctx = k.ctx → p.down = false → srcs ≠ [] → (∀ x ∈ srcs, (x.2.2.1.getD 0 0).toNat % 256 = e) →
      ∀ ps : Nat → List (Nat × Nat), (∀ x ∈ srcs, s.access k.ctx .engine x.2.2.2 128 = .ok (ps x.2.2.2) ∧ s.touchesPoison (ps x.2.2.2) = false) →
      Ends (exec (.collSend k.cid) s) (fun t => t.mem = s.mem ∧ t.cmds = noted s (s.cmds.filter (fun x => x.id ≠ k.id))
        ∧ ∃ p' ks data, t.pair? e = some p' ∧ p'.unacked = p.unacked ++ ks ∧ (∀ x ∈ ks, x.op = some k.id ∧ x.arrive = none) ∧ data.length = srcs.length
          ∧ ks.flatMap (fun x => x.recs) = (srcs.zip data).map (fun x =>
              { wr := false, last := true, ht := (x.1.2.2.1.getD 2 0).toNat % 2 ^ 25, daddr := 0, data := x.2 })
          ∧ ∀ (i : Nat) x (d : List Byte), srcs[i]? = some x → data[i]? = some d → d.length = 128
              ∧ ((∀ a ∈ paList (ps x.2.2.2), a < scrBase ∧ tget? s.orders a = none) → d = s.rdPieces (ps x.2.2.2))
              ∧ ∀ j < 128, ∃ a rf, (paList (ps x.2.2.2))[j]? = some a ∧ (∀ w, rf = some w → w ∈ s.order a) ∧ d[j]? = some (s.valueOf a rf)))
    ∧ (∀ (op : CopyOp) k r n ps, s.Settled → GraphOk s → WgStays s op.g w → s.copies.find? (fun x => x.id = op.id) = some op → (∀ x ∈ s.copies, x.id = op.id → x = op) →
        op.recs = some r → op.lanes = [k] → k.held = false → s.copyLive op = true → op.len = some n → op.tag = none → s.nodes = [] →
        s.access op.ctx .copyRead k.src n = .ok ps → (paList ps).length = n → (paList ps).Nodup → s.touchesPoison ps = false → k.reads = [] → k.place.op = some (op.id, k.lane) →
        (∀ i < n, locOf (Loc.scr op.g (k.dst + i)).key = Loc.scr op.g (k.dst + i)) →
        Ends (exec (.recordCopyLand op.id) s) (fun t => (∀ x ∈ t.copies, x.id ≠ op.id) ∧ t.mem = s.mem
          ∧ (∀ p, tget? s.pools r.1 = some p → ∃ p', tget? t.pools r.1 = some p' ∧ tget? p'.busy r.2 = none)
          ∧ ∀ i < n, ∃ a rf, (paList ps)[i]? = some a ∧ (∀ w, rf = some w → w ∈ s.order a)
              ∧ Wrote s t k.place Sync.plain (.scr op.g (k.dst + i)) (s.valueOf a rf)))

/-- R199, R200, R201, R206: a data packet that is not laid out as R199 and R201 say is discarded; one out of sequence changes nothing and is answered
with the expected number; one in sequence whose ADD reaches a bound target adds its row, counts, and completes the target at EXPECT. -/
def Sys2Proof.Claims.PeerData : Prop :=
  ∀ (s : State) (e : Nat) (p : Pair) (header payload : List Byte), s.writes = [] → s.pair? e = some p → s.portUp p.lport = true → p.down = false →
    (p.accepts 0 (header ++ payload) = none → exec (.gpxData e header payload) s = .next s)
    ∧ ∀ h bs recs, p.accepts 0 (header ++ payload) = some (h, bs) → parseRecs (bs.length + 1) bs = some recs → p.unacked = [] →
    let ack (seq : Nat) (busy : Bool) : Out := .gpx e (p.dest e) (gpxHeader { p with expSeq := seq } 1 0 0 busy)
    (h.seq ≠ p.expSeq → exec (.gpxData e header payload) s = .next { s with out := s.out ++ [ack p.expSeq false] })
    ∧ (∀ r, h.seq = p.expSeq → r ∈ recs → s.canApply p.ctx r = false →
        exec (.gpxData e header payload) s = .next { s with out := s.out ++ [ack p.expSeq true] })
    ∧ (∀ r q tg w, h.seq = p.expSeq → recs = [r] → r.wr = false → tget? s.hwqs (bits r.ht 5 0) = some q → s.targetOf p.ctx r.ht = some tg → s.wg? tg.g = some w →
        w.phase = .resident →
        Ends (exec (.gpxData e header payload) s) (fun t => t.mem = s.mem ∧ t.pair? e = some { p with expSeq := (p.expSeq + 1) % 2 ^ 32 }
          ∧ t.out = s.out ++ [ack ((p.expSeq + 1) % 2 ^ 32) false]
          ∧ (∀ a, tg.acc = some a → tg.skip = false → ∀ j < 32, ∃ w', t.wg? tg.g = some w' ∧
              let key := 4096 * a + 128 * bits r.ht 22 18 + 32 * bits r.ht 24 23 + j
              tget 0 w'.mx.acc key = BitVec.ofNat 32 (rne32 ((Fmt.f32.dec (tget 0 w.mx.acc key).toNat).add .rne
                (Fmt.f32.dec (leNat ((r.data.drop (4 * j)).take 4))))))
          ∧ (tg.expect ≤ tg.count + 1 → ∃ q', tget? t.hwqs (bits r.ht 5 0) = some q' ∧ q'.entries = q.entries ++ [BitVec.ofNat 64 (tg.tile + tg.expect * 2 ^ 12)]
              ∧ ∀ x ∈ q'.targets, x.tile ≠ tg.tile)
          ∧ (tg.count + 1 < tg.expect → ∃ q', tget? t.hwqs (bits r.ht 5 0) = some q' ∧ q'.entries = q.entries ∧ { tg with count := tg.count + 1 } ∈ q'.targets)))

/-- R200, R202, R402: an acknowledgement removes the packets below it; 50 µs without progress send the window again, and after 256 resends the pair is
down and the queues of its context are poisoned; setting V starts a pair afresh, and clearing it ends the pair, down or not as it is until V is set. -/
def Sys2Proof.Claims.PeerRecovery : Prop :=
  ∀ (s : State) (e : Nat), s.writes = [] →
    (∀ p k rest packet h bs, s.pair? e = some p → s.portUp p.lport = true → p.accepts 1 packet = some (h, bs) → p.unacked = k :: rest →
      let n := (h.ackn + 2 ^ 32 - k.seq) % 2 ^ 32
      n ≠ 0 → n ≤ min 64 p.unacked.length → Ends (exec (.gpxAck e packet) s) (fun t => ∃ p', t.pair? e = some p' ∧ p'.unacked = p.unacked.drop n
        ∧ p'.resends = 0 ∧ p'.expSeq = p.expSeq ∧ p'.sndSeq = p.sndSeq))
    ∧ (∀ p, s.pair? e = some p → p.unacked ≠ [] → p.down = false → p.lastProgress + 50000 ≤ s.tnow →
        (p.resends < 256 → Ends (exec (.gpxResendTimeout e) s) (fun t => t.mem = s.mem
          ∧ t.pair? e = some { p with resends := p.resends + 1, lastProgress := s.tnow }
          ∧ (s.portUp p.lport = true → t.out = s.out ++ (p.unacked.take 64).map (fun k => Out.gpx e (p.dest e) (packetBytes p k)))))
        ∧ (256 ≤ p.resends → Ends (exec (.gpxResendTimeout e) s) (fun t => (∃ p', t.pair? e = some p' ∧ p'.down = true ∧ p'.unacked = [])
            ∧ ∀ i h, tget? t.hwqs i = some h → h.ctx = p.ctx → h.poison = true)))
    ∧ (∀ v, bitAt v 63 = true → s.pair? e = none → Ends (exec (.peerRevalidate e v) s) (fun t => t.mem = s.mem ∧ ∃ p, t.pair? e = some p
        ∧ p.sndSeq = 0 ∧ p.expSeq = 0 ∧ p.unacked = [] ∧ p.down = false ∧ p.resends = 0 ∧ p.ctx = bits v 37 32 ∧ p.dctx = bits v 31 16 ∧ p.lport = bits v 15 12))
    ∧ (∀ v p, bitAt v 63 = false → s.pair? e = some p → Ends (exec (.peerRevalidate e v) s) (fun t => t.pair? e = none
        ∧ (tget? t.pairs e).elim false (fun q => q.down) = p.down))

/-! ### Streams -/

/-- R164 to R167, R174, R175, R401: a flow takes a packet that comes by its port to its address and UDP port. A video packet of a known frame lands its
pixels in a line whose deadline has not passed, which is present once it is full; a packet of a new frame begins it, and a codestream's piece is kept;
a line whose deadline passes is late, with all rows of its precinct where the codestream does not give them; a decoded line fills its row; an audio or
ancillary packet becomes the next record of the ring. -/
def Sys2Proof.Claims.StreamReceive : Prop :=
  ∀ (s : State) (f port : Nat) (r : RxFlow), s.writes = [] → tget? s.rx f = some r →
    let width := s.fWidth false f
    let pg := pgPix (s.fSamp false f) (s.fDepth false f)
    let pb := pgBytes (s.fSamp false f) (s.fDepth false f)
    let idx (seq row : Nat) : Nat := s.lineIdx false f seq row
    (bitAt (s.fCtl false f) 61 = false →
      (∀ (p : VideoPacket), (s.rx.map (fun x => x.1)).filter (fun g => decide (s.fKind false g ≤ 1) && s.fTakes g port p.udp p.addr) = [f] →
        (∀ row x0 data fr l, s.fKind false f = 0 → p.segs = [(row, x0, data)] → r.frames.find? (fun fr => fr.ts = p.ts % 2 ^ 32) = some fr → row < s.fRows false f →
          tget? r.lines (idx fr.seq row) = some l → l.seq = fr.seq → l.present = false → s.dueAt l.ldl = false →
          Ends (exec (.rxPacket port p) s) (fun t => ∃ r', tget? t.rx f = some r' ∧ r'.frames = r.frames ∧
            let pix := (l.pix ||| pixRange x0 (data.length / pb * pg)) % 2 ^ width
            tget? r'.lines (idx fr.seq row) = some { l with pix := pix, present := decide (pix = 2 ^ width - 1) }))
        ∧ ((∀ fr ∈ r.frames, fr.ts ≠ p.ts % 2 ^ 32 ∧ fr.ft < s.frameTime f p.ts) → p.segs = [] →
          Ends (exec (.rxPacket port p) s) (fun t => ∃ r' fr, tget? t.rx f = some r' ∧ r'.frames.getLast? = some fr
            ∧ fr.ts = p.ts % 2 ^ 32 ∧ fr.ft = s.frameTime f p.ts ∧ fr.seq = (r.frames.getLast?).elim 0 (fun x => x.seq + 1)
            ∧ r'.frames.length ≤ s.fSlots false f ∧ (s.fKind false f = 1 → tget [] r'.code fr.seq = tget [] r.code fr.seq ++ [(p.eseq, p.code)]))))
      ∧ (∀ (p : RecordPacket), (s.rx.map (fun x => x.1)).filter (fun g => (s.fKind false g = 2 || s.fKind false g = 3) && s.fTakes g port p.udp p.addr) = [f] →
        let need := 16 + 16 * ceilDiv p.payload.length 16
        r.wpos + need ≤ s.fStride false f →
        Ends (exec (.rxRecordPacket port p) s) (fun t => ∃ r', tget? t.rx f = some r' ∧ r'.wpos = r.wpos + need ∧ r'.recNo = (r.recNo + 1) % 2 ^ 24)))
    ∧ (∀ slot row l, tget? r.lines (slot * s.fRows false f + row) = some l → idx l.seq row = slot * s.fRows false f + row →
        row < s.fRows false f → l.present = false → s.dueAt l.ldl = true →
        Ends (exec (.lineDeadline f slot row) s) (fun t => ∃ r', tget? t.rx f = some r'
          ∧ tget? r'.lines (slot * s.fRows false f + row) = some { l with present := true, late := true }
          ∧ (s.fKind false f = 1 → s.decoded f l.seq row = none →
              let h := max 1 (ceilDiv (s.fRows false f) (max 1 (Config.jxsShape width (s.fRows false f) (jxsProfile (s.fSamp false f))).1))
              row % h = 0 → ∀ i < h, row + i < s.fRows false f → ∀ m, tget? r.lines (slot * s.fRows false f + row + i) = some m → m.seq = l.seq → m.present = false →
                tget? r'.lines (slot * s.fRows false f + row + i) = some { m with present := true, late := true })))
    ∧ (∀ seq row engine l, s.fKind false f = 1 → 8 ≤ engine → bits (s.fCtl false f) 59 56 = engine → row < s.fRows false f →
        tget? r.lines (idx seq row) = some l → l.seq = seq → l.present = false → s.dueAt l.ldl = false →
        (s.decoded f seq row = none → exec (.jxsLineDecoded f seq row engine) s = .next s)
        ∧ (s.decoded f seq row ≠ none → Ends (exec (.jxsLineDecoded f seq row engine) s) (fun t => ∃ r' l', tget? t.rx f = some r' ∧ tget? r'.lines (idx seq row) = some l' ∧ l'.present = true
          ∧ l'.late = l.late ∧ l'.seq = seq)))

/-- R172, R173, R401: a committed row that is due leaves for the flow's address with its ring's bytes and the flow goes on to the next row, or after the
last row to the next frame. -/
def Sys2Proof.Claims.StreamTransmit : Prop :=
  ∀ (s : State) (f ftx due : Nat) (x : TxFlow) (bs : List Byte), s.writes = [] → tget? s.tx f = some x → s.wallFlow f = false → s.fKind true f = 0 →
    s.nextFtx f x = some ftx → due = clampTime ((ftx : Int) + s.fOfs1 true f + (x.row * s.fLineNs true f : Nat)) → s.dueAt due = true → x.poison = false →
    (x.committed x.frame x.row).isSome = true → s.ringRead true f ((s.lineAddr true f x.frame x.row + 64) % 2 ^ 72) (s.rowBytes f) = .ok bs →
    s.portUp (bits (s.fCtl true f) 51 48) = true →
    Ends (exec (.txRowDue f) s) (fun t => t.mem = s.mem ∧ t.out = s.out ++ [.row (s.fDest f) f (ftx * 9 / 100000 % 2 ^ 32) x.row bs]
      ∧ ∃ y, tget? t.tx f = some y ∧ (x.row + 1 < s.fRows true f → y.frame = x.frame ∧ y.row = x.row + 1 ∧ y.ftx = some ftx ∧ y.lines = x.lines)
        ∧ (s.fRows true f ≤ x.row + 1 → y.frame = x.frame + 1 ∧ y.row = 0 ∧ y.prevFtx = ftx ∧ y.lines = x.lines))

/-- R167, R177, R387: enabling a flow whose control word is valid starts it from nothing, an invalid one sets BAD and leaves it off; disabling it discards
its progress. -/
def Sys2Proof.Claims.FlowControl : Prop :=
  ∀ (s : State) (f v : Nat), s.writes = [] →
    let w := setBits (setBits v 63 63 1) 62 62 0
    (∀ tx, s.flowOn tx f = false → bitAt v 63 = true → s.flowOk tx f w = true → Ends (exec (.flowEnable tx f v) s) (fun t => t.flowOn tx f = true
      ∧ t.flowPoisoned tx f = false ∧ t.mem = s.mem
      ∧ (tx = true → ∀ y, tget? t.tx f = some y → y.frame = 0 ∧ y.row = 0 ∧ y.lines = [])
      ∧ (tx = false → ∀ y, tget? t.rx f = some y → y.frames = [] ∧ y.lines = [] ∧ y.wpos = 0 ∧ y.recNo = 0)))
    ∧ (∀ tx, s.flowOn tx f = false → bitAt v 63 = true → v < 2 ^ 64 → s.flowOk tx f w = false → Ends (exec (.flowEnable tx f v) s) (fun t => t.flowOn tx f = false
      ∧ bitAt (t.fCtl tx f) 62 = true ∧ bitAt (t.fCtl tx f) 63 = false))
    ∧ (∀ tx, s.flowOn tx f = true → bitAt v 63 = false → Ends (exec (.flowDisable tx f v) s) (fun t => t.flowOn tx f = false ∧ t.mem = s.mem))

/-! ### PEAL -/

/-- R211, R212: PEAL_CFG with a member list that obeys the rules turns the group on, and one that breaks them sets BAD; arming a frame object in time adds
its frame. -/
def Sys2Proof.Claims.PealArming : Prop :=
  ∀ (s : State) (v : Nat), s.writes = [] → s.pealOn = false ∨ s.earlyArrivals = [] →
    (s.pealOn = false → bitAt v 31 = true →
      (s.pealOk v = true → Ends (exec (.pealEnable v) s) (fun t => t.pealOn = true ∧ t.pealGroup = v % 65536 ∧ t.pealGuard = guardOf v
        ∧ bitAt (t.r32 (pealBlk + 0x30)) 31 = false ∧ t.mem = s.mem))
      ∧ (s.pealOk v = false → Ends (exec (.pealEnable v) s) (fun t => t.pealOn = false ∧ bitAt (t.r32 (pealBlk + 0x30)) 31 = true ∧ t.mem = s.mem)))
    ∧ (let obj : VA := BitVec.ofNat 72 (v / 64 % 2 ^ 58 * 64 + s.r32 (pealBlk + 0x28) % 256 * 2 ^ 64)
       ∀ fr tms, (s.frameRead 0 obj.toNat).bind (parseFrame obj) = some (fr, tms) → s.pealOn = true → fr.pealGrp = s.pealGroup →
        s.tnow + s.pealGuard / 4 < fr.pres → (∀ x ∈ s.peal, x.frameNo ≠ fr.frameNo) → s.peal.length < 8 →
        Ends (exec (.pealArm v) s) (fun t => t.mem = s.mem ∧ ∃ a, t.peal = s.peal ++ [a] ∧ a.frameNo = fr.frameNo ∧ a.pres = fr.pres ∧ a.subst = fr.subst
          ∧ a.buffer = none ∧ a.arrivedSelf = false ∧ a.arrivals = 0 ∧ a.decided = none ∧ a.decision = none))

/-- R214 to R217: an ARRIVE of an undecided frame sets its member's bit; the tenor decides GO when every bit is set, else SKIP or SUBSTITUTE, and sends the
decision again; a member keeps a decision in time; at frame start a GO shows the buffer. -/
def Sys2Proof.Claims.PealDecisions : Prop :=
  ∀ (s : State) (a : Armed), s.writes = [] → s.peal.find? (fun x => x.frameNo = a.frameNo) = some a →
    (∀ e header payload h bs p i, s.pair? e = some p → s.portUp p.lport = true → p.down = false → p.accepts 2 (header ++ payload) = some (h, bs) → p.unacked = [] → h.seq = p.expSeq →
      s.isTenor = true → (parseArrive bs).group = s.pealGroup → (parseArrive bs).frame = a.frameNo → s.tnow ≤ (parseArrive bs).pres → a.decided = none →
      s.tnow + s.pealGuard ≤ a.pres → i ≤ bits s.pealCfg 29 24 → bitAt (s.pealMember i) 8 = false → s.pealMember i % 256 = e →
      Ends (exec (.arrive e header payload) s) (fun t => t.mem = s.mem ∧ ∃ b, t.peal.find? (fun x => x.frameNo = a.frameNo) = some b ∧ bitAt b.arrivals i = true
        ∧ (∀ j, bitAt a.arrivals j = true → bitAt b.arrivals j = true) ∧ b.decided = none ∧ b.pres = a.pres))
    ∧ (s.isTenor = true → a.decided = none → a.pres ≤ s.tnow + s.pealGuard →
        let all := (List.range (bits s.pealCfg 29 24 + 1)).all (fun m => bitAt a.arrivals m)
        let d := if all then 0 else if a.subst = 1 then 2 else 1
        Ends (exec (.pealCollectionClose a.frameNo) s) (fun t => t.mem = s.mem ∧ ∃ b, t.peal.find? (fun x => x.frameNo = a.frameNo) = some b
          ∧ b.decided = some (d, a.arrivals) ∧ b.sends = 1 ∧ (s.tnow + s.pealGuard / 4 < a.pres → b.decision = some (d, a.arrivals))))
    ∧ (a.decided.isSome = true → a.sends < 5 → a.pres + a.sends * (s.pealGuard / 8) ≤ s.tnow + s.pealGuard →
        Ends (exec (.pealDecideResend a.frameNo) s) (fun t => t.mem = s.mem ∧ t.peal.find? (fun x => x.frameNo = a.frameNo) = some { a with sends := a.sends + 1 }))
    ∧ (∀ e header payload h bs p, s.pair? e = some p → s.portUp p.lport = true → p.accepts 3 (header ++ payload) = some (h, bs) → s.pealOn = true →
        let d := parseDecide bs
        let tenor := bitAt (s.pealMember 0) 8 = false ∧ s.pealMember 0 % 256 = e
        (d.group = s.pealGroup → tenor → d.frame = a.frameNo → a.decision = none → s.tnow + s.pealGuard / 4 < a.pres →
          Ends (exec (.decideMsg e header payload) s) (fun t => t.mem = s.mem
            ∧ t.peal.find? (fun x => x.frameNo = a.frameNo) = some { a with decision := some (d.decision, d.bitmap) }))
        ∧ (d.group ≠ s.pealGroup ∨ ¬tenor → exec (.decideMsg e header payload) s = .next s))
    ∧ (∀ b bm, a.decision = some (0, bm) → a.buffer = some b → b < 2 ^ 64 → a.pres ≤ s.tnow → a.pres ≠ 2 ^ 64 - 1 →
        Ends (exec (.pealFrameStart a.frameNo) s) (fun t => t.r64 (pealBlk + 0x10) = b ∧ ∀ x ∈ t.peal, x.frameNo ≠ a.frameNo))
    ∧ (∀ bm, a.decision = some (2, bm) → bitAt bm s.pealSelf = false ∨ a.arrivedSelf = false → a.pres ≤ s.tnow → a.pres ≠ 2 ^ 64 - 1 →
        Ends (exec (.pealFrameStart a.frameNo) s) (fun t => t.r64 (pealBlk + 0x10) = s.r64 (pealBlk + 8) ∧ ∀ x ∈ t.peal, x.frameNo ≠ a.frameNo))

/-! ### The dispatcher -/

/-- R357, R358, R362, R361, R197: a doorbell within the ring sets TAIL and one beyond it sets the error bit; the record at the head of an open queue whose
waits are over becomes a launch with the next LID and HEAD goes on; a node whose batch is due launches its oldest records. -/
def Sys2Proof.Claims.LaunchTakes : Prop :=
  ∀ (s : State) (q : Nat), s.writes = [] →
    (∀ v, bitAt (s.r32 (qBlk q)) 29 = false → v < 2 ^ 32 →
      ((v + 2 ^ 32 - s.r32 (qBlk q + 0x2C)) % 2 ^ 32 ≤ s.qSize q → Ends (exec (.doorbell q v) s) (fun t => t.r32 (qBlk q + 0x28) = v
        ∧ (∀ o, o ≠ qBlk q + 0x28 → t.r32 o = s.r32 o) ∧ t.launches = s.launches ∧ t.mem = s.mem))
      ∧ (s.qSize q < (v + 2 ^ 32 - s.r32 (qBlk q + 0x2C)) % 2 ^ 32 → Ends (exec (.doorbell q v) s) (fun t => bitAt (t.r32 (qBlk q + 0x38)) 1 = true
        ∧ (∀ o, o ≠ qBlk q + 0x38 → t.r32 o = s.r32 o) ∧ t.launches = s.launches ∧ t.mem = s.mem)))
    ∧ (∀ r b u l, s.qOpen q = true → s.bootState = 6 →
        (s.dread (s.qCtx q) (((s.addr72 (qBlk q + 0x08) (qBlk q + 0x10)).toNat + 64 * (s.r32 (qBlk q + 0x2C) % s.qSize q)) % 2 ^ 72) 64).bind parseRecord = some r →
        s.readBinding (s.qCtx q) r = some b → s.recordOk (s.qCtx q) (s.qClassD q) (b.gxw = 0) r b = true → r.serial = false → b.gate = 0 →
        ({ (s.endGate q).w32 (qBlk q + 0x2C) (s.r32 (qBlk q + 0x2C) + 1) with heldHeads := s.heldHeads.filter (fun x => x ≠ q) }.tookLid).takeRecord q (s.qCtx q) (nextLid s)
          (some (s.r32 (qBlk q + 0x2C))) r b true none (tget [] s.bells q) = (u, .ok l) →
        Ends (exec (.launchTake q) s) (fun t => t.launch? (nextLid s) = some l ∧ l.lid = nextLid s ∧ l.queue = q ∧ l.ctx = s.qCtx q ∧ l.nextWg = 0 ∧ l.doneWgs = 0
          ∧ l.ring = some (s.r32 (qBlk q + 0x2C)) ∧ l.bind = b ∧ l.start = tget [] s.bells q ∧ t.r32 (qBlk q + 0x2C) = (s.r32 (qBlk q + 0x2C) + 1) % 2 ^ 32 ∧ t.crews = s.crews ∧ t.mem = s.mem))
    ∧ (∀ nd k r b u l, tget? s.nodes q = some nd → s.batchDue nd = k → k ≠ 0 → s.bootState = 6 → s.template nd = some (r, b) → r.serial = false → b.gate = 0 →
        s.batchDue { nd with queue := nd.queue.drop k } = 0 →
        s.tookLid.takeRecord nd.qid nd.ctx (nextLid s) none { r with gx := 1, gy := 1, gz := 1, gang := 0 } b false
          (some ⟨q, nd.pool, (nd.queue.take k).map (fun e => e.1), false, (tget? s.pools nd.pool).elim 0 (fun p => p.rlines)⟩) (tget [] s.bells (64 + q)) = (u, .ok l) →
        Ends (exec (.nodeBatchTimeout q) s) (fun t => t.launch? (nextLid s) = some l 
          ∧ l.batch = some ⟨q, nd.pool, (nd.queue.take k).map (fun e => e.1), false, (tget? s.pools nd.pool).elim 0 (fun p => p.rlines)⟩
          ∧ l.ring = none ∧ tget? t.nodes q = some { nd with queue := nd.queue.drop k } ∧ t.pools = s.pools ∧ t.mem = s.mem))

/-- R364, R87: a completion entry holds TSTART, TEND, CHARGE, LID, STATUS and FLAGS at its index modulo the ring's size: its bytes 0 to 23, and after them bytes 24 to
31, a release at SYS scope of the others. -/
def Sys2Proof.Claims.CompletionEntries : Prop :=
  ∀ (s : State) (q n tstart tend charge lid status lflags : Nat) (irq : Bool) (pre : List Nat) (whole : Option Nat)
    (ps qs : List (Nat × Nat)),
    let va := ((s.addr72 (qBlk q + 0x18) (qBlk q + 0x20)).toNat + 32 * (n % s.qSize q)) % 2 ^ 72
    GraphOk s → s.access (s.qCtx q) .ring va 24 = .ok ps → s.access (s.qCtx q) .ring ((va + 24) % 2 ^ 72) 8 = .ok qs →
    let pas := paList ps ++ paList qs
    pas.Nodup → (∀ a ∈ pas, a < scrBase) →
    let t := s.writeCompletion q n tstart tend charge lid status lflags irq pre whole
    let bytes := leBytes 8 tstart ++ leBytes 8 tend ++ leBytes 8 charge ++ leBytes 4 lid ++ leBytes 1 status ++ leBytes 1 lflags ++ leBytes 2 0
    (∀ i a, pas[i]? = some a → ∃ p : Ev, p.thr = [engineOf 1 (q * 2 ^ 32 + n)] ∧ Wrote s t p (if i < 24 then Sync.plain else ⟨false, true, 4, 1⟩) (.mem a) (bytes.getD i 0))
    ∧ (∀ d ∈ t.evs, ∀ e ∈ t.evs, s.evs.length ≤ d.id → s.evs.length ≤ e.id → d.rel = false → e.rel = true → d.kind ≠ 2 → e.hb.testBit d.id = true)
    ∧ (∀ a, a ∉ pas → t.rd a = s.rd a) ∧ t.regs = s.regs

/-- R366, R51, R369: a D-class launch whose slack falls below 0 before its first residency is shed, or counted late once; a gang that has waited long enough
reserves cores of one span that can hold a member. -/
def Sys2Proof.Claims.SlackAndReservation : Prop :=
  ∀ (s : State) (lid : Nat) (l : Launch), s.writes = [] → s.launch? lid = some l →
    (∀ d, l.deadline = some d → l.record.classD = true → l.nextWg = 0 → l.lateDone = false → d < s.tnow + l.est →
      (l.record.shed = true → Ends (exec (.launchSlackExpiry lid) s) (fun t => t.launch? lid = none ∧ t.crews = s.crews))
      ∧ (l.record.shed = false → Ends (exec (.launchSlackExpiry lid) s) (fun t => t.launch? lid = some { l with lateDone := true } ∧ t.crews = s.crews
          ∧ bits (t.r32 (qBlk l.queue + 0x38)) 31 16 = min (bits (s.r32 (qBlk l.queue + 0x38)) 31 16 + 1) 65535)))
    ∧ (∀ x sp, l.record.gang ≠ 0 → l.nextWg < l.record.total → l.deferred = [] → s.reserved = [] → l.gangWait = some x →
        x + 1000 * max 1 (s.r32 (0x00081000 + 4) % 65536) ≤ s.tnow → sp < Config.spans →
        l.record.gang ≤ ((List.range 16).filter (fun c => s.quadLive ((16 * sp + c) / 4))).length →
        Ends (exec (.gangReserve lid) s) (fun t => ∃ span cores, t.reserved = [(span, (lid, l.nextWg / l.record.gang, cores))] ∧ span < Config.spans
          ∧ (∀ c ∈ cores, c / 16 = span ∧ s.fits c l.kern l.record.crews = true) ∧ t.crews = s.crews ∧ t.mem = s.mem))

/-- R17, R18, R23, R71: a single workgroup placed on a core that fits it is resident there with every crew at SENTRY, all lanes active, s0 to s3 and b0 as
stated and everything else 0, its scratch and matrix storage empty, and the core's sampler cache invalidated. -/
def Sys2Proof.Claims.WorkgroupPlacement : Prop :=
  ∀ (s : State) (lid : Nat) (l : Launch) (p : Place), s.writes = [] → s.launch? lid = some l → l.record.gang = 0 → l.nextWg < l.record.total → l.deferred = [] →
    l.batch = none → s.nodes = [] → s.slackGone l = false → s.settleDispatch.classOk l [p.core] none = true → s.fits p.core l.kern l.record.crews = true →
    s.slotsOk p l.record.crews = true →
    Ends (exec (.workgroupPlace lid [p]) s) (fun t => t.mem = s.mem ∧ tget 0 t.smpSince p.core = s.hist.length
      ∧ (∃ w, t.wg? s.nextHandle = some w ∧ w.lid = l.lid ∧ w.wgi = l.nextWg ∧ w.core = p.core ∧ w.phase = .resident ∧ w.slots = p.slots ∧ w.scratch = [] ∧ w.bars = [] ∧ w.gregs = [] ∧ w.mx = Matrix.empty
          ∧ w.crews = (List.range l.record.crews).map (fun k => s.nextHandle + 1 + k))
      ∧ (∃ l', t.launch? lid = some l' ∧ l'.nextWg = l.nextWg + 1 ∧ (l.tstart = 0 → l'.tstart = s.tnow))
      ∧ ∀ k < l.record.crews, ∃ c, t.crew? (s.nextHandle + 1 + k) = some c ∧ c.g = s.nextHandle ∧ c.id = k ∧ (c.part, c.idx) = p.slots.getD k (0, 0)
          ∧ c.stack = [.path l.kern.sentry (BitVec.allOnes 32) none 0 none] ∧ c.guards = [] ∧ c.threads.length = 32 ∧ c.runs = [] ∧ c.pend = [] ∧ c.wait = .none
          ∧ tget 0 c.s 0 = BitVec.ofNat 64 l.nextWg ∧ tget 0 c.s 1 = BitVec.ofNat 64 l.record.crews ∧ (∀ r, 2 ≤ r → tget 0 c.s r = 0)
          ∧ tget 0 c.b 0 = l.record.args ∧ (∀ r, r ≠ 0 → tget 0 c.b r = 0) ∧ (∀ r, tget 0 c.v r = 0) ∧ (∀ r, tget 0 c.p r = 0))

/-- R356, R372, R365: enabling a queue with a legal size and aligned rings starts it with HEAD and TAIL 0, and otherwise sets BAD; disabling clears EN;
CRFAULT is cleared by software. -/
def Sys2Proof.Claims.QueueControl : Prop :=
  ∀ (s : State) (q v : Nat), s.writes = [] →
    let ok := 4 ≤ bits v 11 8 ∧ bits v 11 8 ≤ 12 ∧ s.r32 (qBlk q + 0x08) % 64 = 0 ∧ s.r32 (qBlk q + 0x18) % 32 = 0
    (bitAt (s.r32 (qBlk q)) 31 = false → bitAt v 31 = true →
      (ok → Ends (exec (.queueEnable q v) s) (fun t => bitAt (t.r32 (qBlk q)) 31 = true ∧ t.qCtx q = bits v 21 16 ∧ t.qSize q = 2 ^ bits v 11 8
        ∧ t.qClassD q = bitAt v 28 ∧ t.r32 (qBlk q + 0x28) = 0 ∧ t.r32 (qBlk q + 0x2C) = 0 ∧ t.mem = s.mem ∧ t.launches = s.launches))
      ∧ (¬ok → Ends (exec (.queueEnable q v) s) (fun t => bitAt (t.r32 (qBlk q)) 31 = false ∧ bitAt (t.r32 (qBlk q)) 30 = true ∧ t.mem = s.mem)))
    ∧ (bitAt (s.r32 (qBlk q)) 31 = true → bitAt v 31 = false → Ends (exec (.queueDisable q v) s) (fun t => bitAt (t.r32 (qBlk q)) 31 = false
        ∧ (∀ o, o ≠ qBlk q → t.r32 o = s.r32 o) ∧ t.launches = s.launches ∧ t.mem = s.mem))
    ∧ Ends (exec (.crfaultClear q) s) (fun t => bitAt (t.r32 (qBlk q + 0x38)) 2 = false ∧ (∀ o, o ≠ qBlk q + 0x38 → t.r32 o = s.r32 o) ∧ t.launches = s.launches)

/-- R194, R374, R375: pools and nodes are enabled by a valid descriptor and else refused with BAD; a pool starts with every record free; a pool no node uses and
any node can be disabled; a hardware work queue starts empty
without poison, and disabling it leaves its poison to be read. -/
def Sys2Proof.Claims.PoolNodeControl : Prop :=
  ∀ (s : State) (n v : Nat), s.writes = [] →
    let desc (blk len : Nat) : Option (List Byte) := s.dread (bits v 21 16) ((s.addr72 (blk + 0x08) (blk + 0x10)).toNat / 32 * 32) len
    (bitAt (s.r32 (poolBlk n)) 31 = false → bitAt v 31 = true →
      (∀ p, (desc (poolBlk n) 32).bind (parsePool (bits v 21 16)) = some p → Ends (exec (.poolEnable n v) s) (fun t => tget? t.pools n = some p ∧ p.busy = []
        ∧ p.ctx = bits v 21 16 ∧ bitAt (t.r32 (poolBlk n)) 31 = true ∧ t.mem = s.mem))
      ∧ ((desc (poolBlk n) 32).bind (parsePool (bits v 21 16)) = none → Ends (exec (.poolEnable n v) s) (fun t => t.pools = s.pools
          ∧ bitAt (t.r32 (poolBlk n)) 31 = false ∧ bitAt (t.r32 (poolBlk n)) 30 = true)))
    ∧ (bitAt (s.r32 (poolBlk n)) 31 = true → bitAt v 31 = false → s.nodes = [] → Ends (exec (.poolDisable n v) s) (fun t => tget? t.pools n = none
        ∧ bitAt (t.r32 (poolBlk n)) 31 = false ∧ t.mem = s.mem))
    ∧ (bitAt (s.r32 (nodeBlk n)) 31 = false → bitAt v 31 = true →
      (∀ x, (desc (nodeBlk n) 32).bind (parseNode (bits v 21 16) (bits v 5 0)) = some x → s.nodeOk x = true →
        Ends (exec (.nodeEnable n v) s) (fun t => tget? t.nodes n = some x ∧ x.queue = [] ∧ bitAt (t.r32 (nodeBlk n)) 31 = true ∧ t.mem = s.mem))
      ∧ ((∀ x, (desc (nodeBlk n) 32).bind (parseNode (bits v 21 16) (bits v 5 0)) = some x → s.nodeOk x = false) →
          Ends (exec (.nodeEnable n v) s) (fun t => t.nodes = s.nodes ∧ bitAt (t.r32 (nodeBlk n)) 31 = false ∧ bitAt (t.r32 (nodeBlk n)) 30 = true)))
    ∧ (bitAt (s.r32 (nodeBlk n)) 31 = true → bitAt v 31 = false → Ends (exec (.nodeDisable n v) s) (fun t => tget? t.nodes n = none
        ∧ bitAt (t.r32 (nodeBlk n)) 31 = false ∧ t.launches = s.launches ∧ t.mem = s.mem))
    ∧ (bitAt v 31 = true → Ends (exec (.hwqEnable n v) s) (fun t => tget? t.hwqs n
        = some { ctx := if bitAt (s.r32 (hwqBlk n)) 31 then bits (s.r32 (hwqBlk n)) 21 16 else bits v 21 16, entries := [], targets := [], poison := false } ∧ bitAt (t.r32 (hwqBlk n)) 31 = true ∧ t.mem = s.mem))
    ∧ (bitAt (s.r32 (hwqBlk n)) 31 = true → bitAt v 31 = false → Ends (exec (.hwqDisable n v) s) (fun t =>
        (∀ ctx, t.queueFor n ctx = none) ∧ (∀ h, tget? s.hwqs n = some h → (tget? t.hwqs n).elim false (fun x => x.poison) = h.poison)
        ∧ bitAt (t.r32 (hwqBlk n)) 31 = false ∧ t.mem = s.mem))

/-! ### The trap ring, MMU_RESUME, invalidation -/

/-- R380, R378, R393: the oldest record of a context enters its ring at PUT, behind its number, bytes 0 to 7 last, as a release at SYS scope, and PUT counts; its crew's stop knows the number and
waits under it. A write that faults sets RFAULT and leaves the record where it is until the driver writes MMU_TRGET. -/
def Sys2Proof.Claims.TrapRingWrites : Prop :=
  ∀ (s : State) (ctx n : Nat) (r : TrapRec), s.Settled → GraphOk s →
    let put := s.r32 (mmuBlk ctx + 0x20)
    let va := ((s.addr72 (mmuBlk ctx + 0x10) (mmuBlk ctx + 0x18)).toNat + 128 * (put % n)) % 2 ^ 72
    (s.ringSize ctx = some n → s.trapBuf.find? (fun x => x.ctx = ctx) = some r → s.ringFull ctx = false → ctx ∉ s.trapStalled → r.cls ≠ 255 →
      r.bytes.length = 124 →
      (∀ ps, s.access ctx .ring va 128 = .ok ps → (paList ps).Nodup → (∀ a ∈ paList ps, a < scrBase) → Ends (exec (.trapRecordWrite ctx) s) (fun t =>
          (∀ i a, (paList ps)[i]? = some a → ∃ p : Ev, p.thr = [engineOf 2 ctx] ∧ Wrote s t p (if i < 8 then ⟨false, true, 4, 1⟩ else Sync.plain) (.mem a)
              ((leBytes 4 (s.nextSeq ctx) ++ r.bytes).getD i 0))
          ∧ (∀ a, a ∉ paList ps → t.rd a = s.rd a)
          ∧ t.r32 (mmuBlk ctx + 0x20) = (put + 1) % 2 ^ 32 ∧ (∀ o, o ≠ mmuBlk ctx + 0x20 → t.r32 o = s.r32 o)
          ∧ (s.nextSeq ctx < 2 ^ 32 - 1 → t.nextSeq ctx = s.nextSeq ctx + 1) ∧ (∀ x ∈ t.trapBuf, x.id ≠ r.id)
          ∧ (∀ cid c st, r.cid = some cid → r.cls ≠ 40 → s.crew? cid = some c → c.stop = some st →
              t.crew? cid = some { c with stop := some { st with seq := some (s.nextSeq ctx) } }
              ∧ (r.waits = true → r.cmd = none →
                ({ ctx := ctx, seq := s.nextSeq ctx, cid := some cid, cmd := none, wg := none, slot := none, bytes := r.bytes } : Waiting) ∈ t.waiting))))
      ∧ (∀ f, s.access ctx .ring va 128 = .error f → Ends (exec (.trapRecordWrite ctx) s) (fun t => bitAt (t.r32 (mmuBlk ctx + 0x40)) 3 = true
          ∧ t.trapBuf = s.trapBuf ∧ ctx ∈ t.trapStalled ∧ t.crews = s.crews ∧ t.mem = s.mem)))
    ∧ ∀ v, Ends (exec (.trgetWrite ctx v) s) (fun t => t.r32 (mmuBlk ctx + 0x24) = v % 2 ^ 32 ∧ (∀ o, o ≠ mmuBlk ctx + 0x24 → t.r32 o = s.r32 o)
        ∧ ctx ∉ t.trapStalled ∧ t.trapBuf = s.trapBuf ∧ t.crews = s.crews ∧ t.mem = s.mem)

/-- R382, R390, R393, R269: REPLAY of a waiting record lets its crew go on, or its command or workgroup try again, and at SYSC gives the s-registers that the driver
has changed; KILL kills its launch; DEBUG stops its crew's partition when the context holds the right; a number that names no waiting record sets BADSEQ alone. -/
def Sys2Proof.Claims.MmuResume : Prop :=
  ∀ (s : State) (ctx seq : Nat) (regs : List (Nat × Nat)), s.writes = [] →
    (∀ w cid c, s.waitingAt ctx seq = some w → w.cid = some cid → w.cmd = none → w.wg = none → w.slot = none → s.crew? cid = some c →
        s.stopOfCrew ctx cid = none →
      (c.stop.isSome = true → Ends (exec (.replay ctx ⟨seq, regs⟩) s) (fun t => t.crews = ((s.serveSysc ctx seq regs).resumeCrew cid).crews
        ∧ (t.crew? cid).elim false (fun x => x.stop.isNone) = true ∧ w ∉ t.waiting ∧ t.launches = s.launches ∧ t.regs = s.regs ∧ t.mem = s.mem))
      ∧ (∀ st r v, c.stop = some st → st.trap.cls = 14 → r < 64 → Ends (exec (.replay ctx ⟨seq, [(r, v)]⟩) s) (fun t => ∃ c', t.crew? cid = some c'
          ∧ c'.stop = none ∧ tget 0 c'.s r = BitVec.ofNat 64 v ∧ ∀ q, q ≠ r → tget 0 c'.s q = tget 0 c.s q))
      ∧ (∀ st, c.stop = some st → st.trap.cls ≠ 14 → s.serveSysc ctx seq regs = { s with crews := tset s.crews cid c })
      ∧ Ends (exec (.killStop ctx seq) s) (fun t => t.launch? (s.lidOf c) = none ∧ (∀ e ∈ t.wgs, e.2.lid ≠ s.lidOf c) ∧ w ∉ t.waiting)
      ∧ (s.debugRight ctx = true → Ends (exec (.debugStop ctx seq) s) (fun t => t.partStopped (s.coreOf c) c.part = true
          ∧ (∃ d ∈ t.dbg, d.core = s.coreOf c ∧ d.part = c.part ∧ (cid, ctx) ∈ d.causes) ∧ w ∉ t.waiting ∧ t.launches = s.launches)))
    ∧ (∀ w id, s.waitingAt ctx seq = some w → w.cid = none → w.cmd = some id → w.wg = none → s.stopOfIssued w = none →
        Ends (exec (.replay ctx ⟨seq, regs⟩) s) (fun t =>
          t.cmds = s.cmds.map (fun k => if k.id = id then { k with held := false } else k) ∧ w ∉ t.waiting ∧ t.crews = s.crews ∧ t.mem = s.mem))
    ∧ (∀ w g x, s.waitingAt ctx seq = some w → w.cid = none → w.cmd = none → w.wg = some g → s.stopOfIssued w = none → s.wg? g = some x →
        Ends (exec (.replay ctx ⟨seq, regs⟩) s) (fun t => t.wg? g = some { x with fault := none } ∧ w ∉ t.waiting ∧ t.crews = s.crews ∧ t.mem = s.mem))
    ∧ (s.waitingAt ctx seq = none → ∀ e ∈ [Instr.replay ctx ⟨seq, regs⟩, .killStop ctx seq, .debugStop ctx seq], Ends (exec e s) (fun t =>
        bitAt (t.r32 (mmuBlk ctx + 0x40)) 2 = true ∧ (∀ o, o ≠ mmuBlk ctx + 0x40 → t.r32 o = s.r32 o) ∧ t.crews = s.crews ∧ t.launches = s.launches
        ∧ t.waiting = s.waiting ∧ t.mem = s.mem))

namespace Sys2Proof.Claims

/-- Every old root was written at an instant that the write history has reached. -/
def RootsOk (s : State) : Prop := ∀ r ∈ s.oldRoots, r.2.2 ≤ s.hist.length

end Sys2Proof.Claims

/-- R386, R394, R136, R409, R383: GO of MMU_INV, MXE_SCINV and DBG_ICINV is set by a write and clears when the invalidation is done, after which a
context whose translations were all invalidated uses its current ones alone, no scale of the context is cached, and fetches use break bits as they stand. An
uncorrectable memory error poisons its line and makes a class 32 record.
The model's own choices in it: log entries 7, 50, 55, 95, 106. -/
def Obligations.Invalidations : Prop :=
  ∀ (s : State), s.writes = [] →
    (∀ v, bitAt v 31 = true → Ends (exec (.mmuInvalidate v) s) (fun t => bitAt (t.r32 mmuGlb) 31 = true ∧ (∀ o, o ≠ mmuGlb → t.r32 o = s.r32 o) ∧ t.invals = s.invals
      ∧ t.mem = s.mem ∧ (bitAt (s.r32 mmuGlb) 31 = true → t.r32 mmuGlb = s.r32 mmuGlb)
      ∧ (bitAt (s.r32 mmuGlb) 31 = false → bitAt (t.r32 mmuGlb) 30 = bitAt v 30 ∧ bits (t.r32 mmuGlb) 21 16 = bits v 21 16 ∧ t.r32 mmuGlb % 2 ^ 16 = v % 2 ^ 16)))
    ∧ (bitAt (s.r32 mmuGlb) 31 = true → RootsOk s → Ends (exec .mmuInvalidateDone s) (fun t => bitAt (t.r32 mmuGlb) 31 = false ∧ (∀ o, o ≠ mmuGlb → t.r32 o = s.r32 o)
        ∧ t.mem = s.mem ∧ (bitAt (s.r32 mmuGlb) 30 = true → ∀ va, let ctx := bits (s.r32 mmuGlb) 21 16
            t.translate ctx va = walkRoot t.rd (t.r64 (mmuBlk ctx)) va)))
    ∧ (∀ q v, bitAt v 31 = true → Ends (exec (.scinvGo q v) s) (fun t => q ∈ t.scinvBusy ∧ t.scales = s.scales ∧ t.mem = s.mem
        ∧ (q ∈ s.scinvBusy → t.regs = s.regs) ∧ (q ∉ s.scinvBusy → bits (t.r32 (mxeBlk q + 0x10)) 21 16 = bits v 21 16 ∧ t.r32 (mxeBlk q + 0x10) % 2 ^ 16 = v % 2 ^ 16
          ∧ bitAt (t.r32 (mxeBlk q + 0x10)) 30 = bitAt v 30)))
    ∧ (∀ q ∈ s.scinvBusy, Ends (exec (.scinvDone q) s) (fun t => let v := s.r32 (mxeBlk q + 0x10)
        q ∉ t.scinvBusy ∧ (∀ u, u ∈ t.scales ↔ u ∈ s.scales ∧ ¬(u.quad = q ∧ u.ctx = bits v 21 16 ∧ (bitAt v 30 = true ∨ u.tid = v % 65536))) ∧ t.regs = s.regs))
    ∧ Ends (exec .icinvGo s) (fun t => bitAt (t.r32 icinvOff) 31 = true ∧ (∀ o, o ≠ icinvOff → t.r32 o = s.r32 o) ∧ t.icMark = s.icMark ∧ t.mem = s.mem)
    ∧ (bitAt (s.r32 icinvOff) 31 = true → Ends (exec .icinvDone s) (fun t => bitAt (t.r32 icinvOff) 31 = false ∧ t.icMark = t.hist.length ∧ t.icLines = [] ∧ t.mem = s.mem
        ∧ ∀ o, o ≠ icinvOff → t.r32 o = s.r32 o))
    ∧ (∀ line retired ctx slot, Ends (exec (.deferredMemoryError line retired ctx slot) s) (fun t => line ∈ t.poisoned ∧ t.crews = s.crews ∧ t.mem = s.mem
        ∧ (s.trapBuf.length < 64 → ∃ r, t.trapBuf = s.trapBuf ++ [r] ∧ recField r.bytes 4 1 = 32 ∧ r.deferred = true ∧ recField r.bytes 40 10 = 128 * line % 2 ^ 80
          ∧ (tget? s.tags line = none → r.ctx = ctx) ∧ ∀ k, tget? s.tags line = some k → r.ctx = k.ctx ∧ recField r.bytes 6 2 = k.who.slot % 2 ^ 16
            ∧ recField r.bytes 12 4 = k.who.lid % 2 ^ 32 ∧ recField r.bytes 16 4 = k.who.wgi % 2 ^ 32)))

/-! ### Eviction and restore -/

namespace Sys2Proof.Claims

/-- The keys of a table rise strictly, so that each names one entry. -/
def InOrder {α : Type} (t : Tbl α) : Prop := (t.map (fun e => e.1)).Pairwise (· < ·)

end Sys2Proof.Claims

/-- R388, R195, R428: the victims of an eviction stop, each with a save block of its own that was free; nobody else's phase changes. Outside a retiring quad each
victim belongs to a launch with a workgroup parked on a dry pool, or makes room for a D-class launch as a T-class one or one with a later deadline. -/
def Sys2Proof.Claims.VictimsStop : Prop :=
  ∀ (s : State) (core lid : Nat) (vs : List Nat) (t0 : State), s.writes = [] → InOrder s.wgs → s.victims core lid = some (t0, vs) → vs ≠ [] →
    Ends (exec (.eviction core lid vs) s) (fun t => t.mem = s.mem ∧ t.launches = s.launches ∧ (∀ g, g ∉ vs → t.wg? g = s.wg? g)
      ∧ ∀ g ∈ vs, ∃ w l k, s.wg? g = some w ∧ w.phase = .resident ∧ s.launch? w.lid = some l ∧ k < bits (s.r32 (mmuBlk l.ctx + 0x30)) 31 16
          ∧ (∀ e ∈ t.wgs, e.1 ≠ g → e.2.block = some k → ∀ m, s.launch? e.2.lid = some m → m.ctx ≠ l.ctx)
          ∧ (∃ o, t.wg? g = some { w with phase := .stopping, block := some k, order := o })
          ∧ (s.reeve.retiring.contains (core / 4) = false → (∃ g0 ∈ vs, ∃ w0, s.wg? g0 = some w0 ∧ w0.lid = w.lid ∧ w0.core = core ∧ s.dryWg w0 = true)
              ∨ ∃ m, s.launch? lid = some m ∧ m.record.classD = true ∧ (l.record.classD = false ∨ s.dueOf lid < s.dueOf l.lid)))

namespace Sys2Proof.Claims

/-- What a fault of a save or restore leaves besides the workgroup's phase: its launch killed, a class 40 record that waits, or the partition of the
record's slot stopped, as the context's policy says (R381). -/
def SaveFaultReported (s t : State) (g : Nat) (w : Workgroup) (p : Workgroup → Prop) : Prop :=
  let how := s.policy (s.ctxOfLid w.lid) 40
  (how = .kill → t.launch? w.lid = none ∧ t.wg? g = none) ∧ (how ≠ .kill → ∃ w', t.wg? g = some w' ∧ p w')
  ∧ (how = .wait → ∃ r ∈ t.trapBuf, r.ctx = s.ctxOfLid w.lid ∧ recField r.bytes 4 1 = 40 ∧ r.waits = true ∧ r.cid = some g)
  ∧ (how = .debug → t.partStopped w.core 0 = true)

/-- No byte outside the writable pages of the workgroup's save block has changed. -/
def OnlyBlock (s t : State) (w : Workgroup) : Prop := ∀ a, (∀ p ∈ s.blockPages w, a < p.2 ∨ p.2 + 65536 ≤ a) → t.rd a = s.rd a

end Sys2Proof.Claims

/-- R389, R390, R392: a victim whose waits are over is saved and counted; a save write that faults is reported, and the core part goes to the emergency area
when that is free and enabled, else the victim waits its turn; a copy out of the area frees it. -/
def Sys2Proof.Claims.SavesAndFaults : Prop :=
  ∀ (s : State) (g : Nat) (w : Workgroup), s.Settled → s.wg? g = some w →
    (s.saving g w = true → w.fault = none → s.blockPages w ≠ [] → Ends (exec (.saveComplete g) s) (fun t =>
        t.wg? g = some { w with phase := .evicted, fault := none, saved := some (s.oracle, (s.blockPages w).map (fun p => p.1)) }
      ∧ tget 0 t.npre (s.ctxOfLid w.lid) = tget 0 s.npre (s.ctxOfLid w.lid) + 1 ∧ OnlyBlock s t w ∧ t.crews = s.crews ∧ t.launches = s.launches))
    ∧ (∀ va f, (s.saving g w = true ∨ w.phase = .emergency) → w.fault = none → s.inBlock w va = true → s.access (s.ctxOfLid w.lid) .save va 1 = .error f →
        Ends (exec (.saveFault g va) s) (fun t => SaveFaultReported s t g w (fun w' => w'.fault = some va ∧ w'.crews = w.crews ∧ w'.block = w.block
          ∧ (w.phase = .emergency → w'.phase = .emergency)
          ∧ (w.phase ≠ .emergency → s.emerg = none → s.emergQueue = [] → bitAt (s.r32 emergOff) 0 = true → w'.phase = .emergency ∧ t.emerg = some g)
          ∧ (w.phase ≠ .emergency → s.emerg ≠ none ∨ bitAt (s.r32 emergOff) 0 = false → w'.phase = .saving ∧ t.emerg = s.emerg ∧ g ∈ t.emergQueue))))
    ∧ (w.phase = .emergency → w.fault = none → s.blockPages w ≠ [] → Ends (exec (.emergencyCopyDone g) s) (fun t =>
        t.wg? g = some { w with phase := .evicted, fault := none, saved := some (s.oracle, (s.blockPages w).map (fun p => p.1)) } ∧ t.emerg ≠ some g ∧ (s.emergQueue = [] → t.emerg = none ∧ OnlyBlock s t w)
        ∧ tget 0 t.npre (s.ctxOfLid w.lid) = tget 0 s.npre (s.ctxOfLid w.lid) + 1 ∧ t.crews = s.crews))

/-- R388 to R390, R392: an evicted workgroup of no gang returns to a core that fits it, on as many free slots as it had, whose GEN counts; the end of a restore makes the
whole unit resident, frees its blocks and applies what was held; a restore read that faults leaves the unit saved. -/
def Sys2Proof.Claims.Restores : Prop :=
  ∀ (s : State) (g : Nat) (w : Workgroup) (l : Launch), s.writes = [] → s.wg? g = some w → s.launch? w.lid = some l →
    (∀ p, w.phase = .evicted → w.fault = none → l.record.gang = 0 → w.crews.Nodup →
      (s.wgs.filter (fun x => x.2.phase = .evicted && x.2.order = w.order)).map (fun x => x.1) = [g] →
      s.fits p.core l.kern w.slots.length = true → s.slotsOk p w.slots.length = true → s.restoreOk l p.core = true →
      Ends (exec (.workgroupRestore [p] [g]) s) (fun t => t.wg? g = some { w with phase := .restoring, core := p.core, order := s.nextOrder, slots := p.slots } ∧ t.mem = s.mem
        ∧ (∀ cid ∈ w.crews, ∀ c, s.crew? cid = some c →
            t.crew? cid = some { c with part := (p.slots.getD c.id (0, 0)).1, idx := (p.slots.getD c.id (0, 0)).2, lastIssue := s.cycle })
        ∧ (∀ cid, cid ∉ w.crews → t.crew? cid = s.crew? cid)
        ∧ ∀ x ∈ p.slots, tget 0 t.gens (slotNo p.core x.1 x.2) = (tget 0 s.gens (slotNo p.core x.1 x.2) + 1) % 65536))
    ∧ (w.phase = .restoring → InOrder s.wgs → (∀ x ∈ s.returning w, s.blockReadable x.2 = true ∧ s.blockSpoilt x.2 = false
        ∧ (∀ k ∈ s.cmds, k.cid ∉ x.2.crews) ∧ ∀ k ∈ s.copies, k.cid ∉ x.2.crews) →
      Ends (exec (.restoreComplete g) s) (fun t => t.mem = s.mem ∧ t.launches = s.launches ∧ ∀ x ∈ s.returning w, ∃ w', t.wg? x.1 = some w' ∧ w'.phase = .resident
        ∧ w'.block = none ∧ w'.saved = none ∧ w'.heldSubs = [] ∧ w'.core = x.2.core ∧ w'.scratch = x.2.scratch ∧ w'.crews = x.2.crews
        ∧ tget 0 t.smpSince x.2.core = s.hist.length))
    ∧ (w.phase = .restoring → (∃ x ∈ s.returning w, s.blockReadable x.2 = false) → Ends (exec (.restoreComplete g) s) (fun t => t = s))
    ∧ (∀ va f, w.phase = .restoring → s.inBlock w va = true → s.access (s.ctxOfLid w.lid) .engine va 1 = .error f →
        Ends (exec (.restoreFault g va) s) (fun t => SaveFaultReported s t g w (fun w' => w' = { w with phase := .evicted, fault := some va }
          ∧ (InOrder s.wgs → ∀ x ∈ s.returning w, x.1 ≠ g → t.wg? x.1 = some { x.2 with phase := .evicted }))))

/-! ### Bring-up, the clock, the ports -/

/-- R397, R398, R404, R9: power-on leaves step 1 with nothing resident; the steps of bring-up follow each other, a failure of step 1 or 2 ends in FAILED, the end of
MEMTRAIN sets MEMSZ, a link that fails leaves the host without one, NETLINK trains every enabled port of the layout, and PTPLOCK ends with a lock or after 10 s with NOLOCK, free-running where no Sync has come; at READY time counts. -/
def Sys2Proof.Claims.BringUp : Prop :=
  ∀ (s : State), s.writes = [] →
    Ends (exec .powerOnReset s) (fun t => t.bootState = 1 ∧ t.regs = [] ∧ t.crews = [] ∧ t.wgs = [] ∧ t.launches = [] ∧ t.mem = [] ∧ t.tnow = 0 ∧ t.started = false
      ∧ t.reeve.retiredFlash = s.reeve.retiredFlash ∧ t.reeve.retired = s.reeve.retiredFlash ∧ t.reeve.log = s.reeve.log ∧ t.reeve.svn = s.reeve.svn ∧ t.imageDigest = s.imageDigest)
    ∧ (s.bootState = 1 ∨ s.bootState = 2 → ∀ info, Ends (exec (.bringupStepEnd (.failed info)) s) (fun t => t.bootState = 15 ∧ t.failStep = s.bootState
        ∧ t.r32 0x0008 = info % 2 ^ 24 ∧ t.mem = s.mem))
    ∧ (s.bootState = 1 → Ends (exec (.bringupStepEnd .ok) s) (fun t => t.bootState = 2 ∧ t.mem = s.mem ∧ t.reeve.meas = shake256 (s.reeve.meas ++ s.imageDigest)))
    ∧ (s.bootState = 2 → Ends (exec (.bringupStepEnd .ok) s) (fun t => t.bootState = 3 ∧ t.memSize = 180000000000 ∧ t.mem = s.mem))
    ∧ (s.bootState = 3 → ∀ r ∈ [StepResult.ok, .degraded], Ends (exec (.bringupStepEnd r) s) (fun t => t.bootState = 4
        ∧ (r = .degraded → bitAt (t.r32 0x000C) 24 = true) ∧ t.noLink = false
        ∧ (∀ p < 16, s.portPresent p = true → bitAt (s.r32 (portBlk p)) 31 = true → t.portState p = 1) ∧ t.mem = s.mem))
    ∧ (s.bootState = 3 → ∀ info, Ends (exec (.bringupStepEnd (.failed info)) s) (fun t => t.bootState = 3 ∧ t.noLink = true ∧ t.mem = s.mem))
    ∧ (s.bootState = 4 → s.portsDone = true → Ends (exec (.bringupStepEnd .ok) s) (fun t => t.bootState = 5 ∧ t.mem = s.mem))
    ∧ (∀ m, s.bootState = 5 → s.ptpHears m.port m.domain = true → s.started = true → s.lock = 1 ∨ s.lock = 3 → ((m.masterTime : Int) - (s.tnow : Int)).natAbs ≤ 100 →
        15 ≤ s.ptp.good → Ends (exec (.ptpSync m) s) (fun t => t.lock = 2 ∧ t.bootState = 6 ∧ t.tnow = s.tnow ∧ t.mem = s.mem))
    ∧ (s.bootState = 5 → s.lock ≠ 2 → 10000000000 ≤ s.ptp.inStep → Ends (exec .ptplockTimeout s) (fun t => t.bootState = 6 ∧ bitAt (t.r32 0x000C) 23 = true ∧ t.started = true
        ∧ (s.started = true → t.tnow = s.tnow) ∧ (s.started = false → t.tnow = (Config.reeveClock + s.reeve.clock) % 2 ^ 64 ∧ t.lock = 0) ∧ t.mem = s.mem))

/-- R398, R399, R405, R41: the first Sync of step 5 sets the time; a later one shows its offset, sets STEPREQ when the master is more than 1 ms ahead, and moves
LOCK; Announce, the loss of Syncs, the end of HOLD and the clearing of EN move LOCK as the table of R399 says; STEP adds to the time or sets STEPBAD; slewing takes or adds at
most 1,000 ppm, and no more than the offset that is left. -/
def Sys2Proof.Claims.PtpClock : Prop :=
  ∀ (s : State), s.writes = [] →
    (∀ m, s.ptpHears m.port m.domain = true →
      (s.started = false → s.bootState = 5 → Ends (exec (.ptpSync m) s) (fun t => t.started = true ∧ t.tnow = m.masterTime % 2 ^ 64 ∧ t.mem = s.mem))
      ∧ (s.started = true → let off : Int := (m.masterTime : Int) - (s.tnow : Int)
          Ends (exec (.ptpSync m) s) (fun t => t.tnow = s.tnow ∧ t.crews = s.crews ∧ t.mem = s.mem
            ∧ ((-2 ^ 31 ≤ off ∧ off < 2 ^ 31) → (BitVec.ofNat 32 (t.r32 (ptpcBlk + 12))).toInt = off)
            ∧ (1000000 < off → bitAt (t.r32 (ptpcBlk + 8)) 2 = true)
            ∧ (s.lock = 2 → t.lock = if 1000 < off.natAbs then 3 else 2)
            ∧ (s.lock = 1 ∨ s.lock = 3 → t.lock = if off.natAbs ≤ 100 ∧ 15 ≤ s.ptp.good then 2 else s.lock)
            ∧ (t.lock = s.lock → t.ptp.good = if off.natAbs ≤ 100 then s.ptp.good + 1 else 0))))
    ∧ (∀ port domain, s.ptpHears port domain = true → s.lock = 0 → Ends (exec (.ptpAnnounce port domain) s) (fun t => t.lock = 1 ∧ t.tnow = s.tnow ∧ t.mem = s.mem))
    ∧ (s.lock = 2 → 3000000000 ≤ s.ptp.sinceSync → Ends (exec .ptpSyncLoss s) (fun t => t.lock = 3 ∧ t.tnow = s.tnow ∧ t.mem = s.mem))
    ∧ (s.lock = 3 → s.r32 (ptpcBlk + 0x18) % 65536 * 1000000000 ≤ s.ptp.inHoldover → Ends (exec .holdoverExpiry s) (fun t => t.lock = 0 ∧ t.tnow = s.tnow ∧ t.mem = s.mem))
    ∧ Ends (exec .ptpcDisable s) (fun t => t.lock = 0 ∧ bitAt (t.r32 ptpcBlk) 31 = false ∧ bits (t.r32 ptpcBlk) 23 0 = bits (s.r32 ptpcBlk) 23 0 ∧ t.tnow = s.tnow ∧ t.mem = s.mem)
    ∧ (∀ v, (v = 0 → Ends (exec (.ptpcStep v) s) (fun t => t = s))
        ∧ (v ≠ 0 → v < 2 ^ 63 → s.tnow + v ≤ 2 ^ 64 - 2 → s.started = true → s.tfrac < 65536 → Ends (exec (.ptpcStep v) s) (fun t => t.tnow = s.tnow + v
            ∧ bitAt (t.r32 (ptpcBlk + 8)) 2 = false ∧ t.crews = s.crews ∧ t.mem = s.mem))
        ∧ (2 ^ 63 ≤ v ∨ v ≠ 0 ∧ 2 ^ 64 - 2 < s.tnow + v → Ends (exec (.ptpcStep v) s) (fun t => t.tnow = s.tnow ∧ bitAt (t.r32 (ptpcBlk + 8)) 3 = true ∧ t.crews = s.crews
            ∧ t.mem = s.mem)))
    ∧ ∀ ns frac, let adv := 65536 * ns + frac
        s.passSlewed ns frac ≤ adv + adv / 1000 ∧ adv ≤ s.passSlewed ns frac + adv / 1000 ∧ (bitAt (s.r32 ptpcBlk) 31 = false → s.passSlewed ns frac = adv)
        ∧ (0 ≤ s.ptp.offset → adv ≤ s.passSlewed ns frac ∧ s.passSlewed ns frac ≤ adv + (65536 * s.ptp.offset.natAbs - s.ptp.slewed))
        ∧ (s.ptp.offset < 0 → s.passSlewed ns frac ≤ adv ∧ adv ≤ s.passSlewed ns frac + (65536 * s.ptp.offset.natAbs - s.ptp.slewed))

/-- R400, R404: a port's EN and AN are stored; setting EN trains a present port and clearing it takes the port down; training ends UP or FAILED; a new MODE trains every
enabled port of its layout, while 3 or the same MODE changes nothing. HIF_WALL holds EN and TXF.
The model's own choices in it: log entry 73. -/
def Obligations.Ports : Prop :=
  ∀ (s : State) (p v : Nat), s.writes = [] → p < 16 →
    (bitAt v 31 = true → Ends (exec (.portTrain p v) s) (fun t => bits (t.r32 (portBlk p)) 31 30 = bits v 31 30 ∧ (s.portPresent p = true → t.portState p = 1)
      ∧ (s.portPresent p = false → t.portState p = s.portState p) ∧ (∀ o, o ≠ portBlk p → t.r32 o = s.r32 o) ∧ t.mem = s.mem))
    ∧ (bitAt v 31 = false → Ends (exec (.portDisable p v) s) (fun t => bits (t.r32 (portBlk p)) 31 30 = bits v 31 30 ∧ (s.portPresent p = true → t.portState p = 0)
        ∧ (∀ o, o ≠ portBlk p → t.r32 o = s.r32 o) ∧ t.mem = s.mem))
    ∧ (∀ up, s.portPresent p = true → s.portState p = 1 → Ends (exec (.portTrainDone p up) s) (fun t => t.portState p = (if up then 2 else 3)
        ∧ bits (t.r32 (portBlk p)) 31 30 = bits (s.r32 (portBlk p)) 31 30 ∧ (∀ o, o ≠ portBlk p → t.r32 o = s.r32 o) ∧ t.mem = s.mem))
    ∧ (v % 4 ≠ 3 → v % 4 ≠ bits (s.r32 0x0020) 1 0 → Ends (exec (.ethmodeSet v) s) (fun t => t.r32 0x0020 = v % 4 ∧ t.mem = s.mem
        ∧ ∀ q < 16, (t.portPresent q = true → bitAt (s.r32 (portBlk q)) 31 = true → t.portState q = 1) ∧ (t.portPresent q = false → t.portState q = 0)))
    ∧ (v % 4 = 3 ∨ v % 4 = bits (s.r32 0x0020) 1 0 → Ends (exec (.ethmodeSet v) s) (fun t => t = s))
    ∧ Ends (exec (.wallEnable v) s) (fun t => bitAt (t.r32 0x0028) 31 = bitAt v 31 ∧ t.r32 0x0028 % 256 = v % 256 ∧ (∀ o, o ≠ 0x0028 → t.r32 o = s.r32 o) ∧ t.mem = s.mem)

/-! ### Host accesses -/

/-- R3, R11, R12, R395, R396: a good access writes its register or reads its value; a bad one is discarded and counted, or reads ones; past a BAR the function is not
addressed; BAR2 reads and writes memory; configuration space shows the identifiers; unmasking a vector sends its pending message; MMU_RESUME, PTPC_STEP and PEAL_ARM refuse
a 32-bit write, and MMU_EMERG acts once both its halves stand.
The model's own choices in it: log entries 12, 74, 78, 105. -/
def Obligations.HostAccesses : Prop :=
  ∀ (s : State) (a : HostAccess), s.Settled → GraphOk s → s.noLink = false →
    (a.size = 4 ∨ a.size = 8 → a.off % a.size = 0 →
      let bad (t : State) : Prop := bits (t.r32 0x0018) 15 0 = min (bits (s.r32 0x0018) 15 0 + 1) 65535 ∧ (∀ o, o ≠ 0x0018 → t.r32 o = s.r32 o) ∧ t.mem = s.mem ∧ t.crews = s.crews
      (a.bar = 0 → inRanges a.off = true → a.write = false → s.hostUp a = true →
        Ends (exec (.registerWrite a) s) (fun t => t = { s with out := s.out ++ [.read (s.hostRead a.off a.size)] }))
      ∧ (a.bar = 0 → a.write = true → a.size = 4 → a.data < 2 ^ 32 → (∀ c < 64, ∀ w ∈ [0x28, 0x2C, 0x10, 0x14], a.off = mmuBlk c + w → Ends (exec (.registerWrite a) s) (fun t =>
          t.r32 a.off = (if w = 0x28 then a.data / 2 ^ 22 * 2 ^ 22 + s.r32 a.off % 2 ^ 22 else a.data) ∧ (∀ o, o ≠ a.off → t.r32 o = s.r32 o) ∧ t.mem = s.mem ∧ t.crews = s.crews)))
      ∧ (a.bar = 0 → a.write = true → a.size = 4 → (a.off / 8 * 8 = ptpcBlk + 0x10 ∨ a.off / 8 * 8 = pealBlk + 0x20 ∨ ∃ c < 64, a.off / 8 * 8 = mmuBlk c + 0x38) →
          Ends (exec (.registerWrite a) s) bad)
      ∧ (a.bar = 0 → a.write = true → a.size = 8 → a.off = emergOff → let base := bits a.data 51 16 * 65536
          Ends (exec (.registerWrite a) s) (fun t => bits (t.r64 emergOff) 51 16 = bits a.data 51 16 ∧ bitAt (t.r32 emergOff) 0 = bitAt a.data 0
            ∧ (∀ x, x < base ∨ base + 18 * 65536 ≤ x → t.rd x = s.rd x)
            ∧ ∀ g q w, s.emerg = none → s.emergQueue = g :: q → s.wg? g = some w → bitAt a.data 0 = true → t.emerg = some g ∧ t.wg? g = some { w with phase := .emergency }))
      ∧ (a.bar = 0 → inRanges a.off = false → a.off + a.size ≤ 2 ^ 24 → Ends (exec (.badHostAccess a) s) (fun t => bad t
          ∧ (a.write = false → Out.read (2 ^ (8 * a.size) - 1) ∈ t.out)))
      ∧ (a.bar = 0 → 2 ^ 24 < a.off + a.size → Ends (exec (.badHostAccess a) s) (fun t => t = { s with out := s.out ++ [.unsupported] }))
      ∧ (a.bar = 2 → s.memSize < a.off + a.size → a.off + a.size ≤ 2 ^ 38 → Ends (exec (.badHostAccess a) s) bad))
    ∧ (a.bar = 2 → a.off + a.size ≤ s.memSize → a.off + a.size ≤ 2 ^ 38 →
        (a.write = true → Ends (exec (.hostMemoryAccess a) s) (fun t => (∀ x, x < a.off ∨ a.off + a.size ≤ x → t.rd x = s.rd x) ∧ t.regs = s.regs ∧ t.crews = s.crews
          ∧ ∀ i < a.size, Wrote s t (s.placeOf (.host a.req)) ⟨false, true, 4, 1⟩ (.mem (a.off + i)) (BitVec.ofNat 8 (a.data / 2 ^ (8 * i)))))
        ∧ (a.write = false → Ends (exec (.hostMemoryAccess a) s) (fun t => t.mem = s.mem ∧ t.regs = s.regs ∧ t.crews = s.crews
          ∧ ∃ got, Gets s t (s.placeOf (.host a.req)) ⟨true, false, 4, 1⟩ (s.hostBytes a) got ∧ t.out = s.out ++ [.read (leNat got)])))
    ∧ (a.bar = configBar → a.write = false → (a.size = 4 → a.off = 0 → Ends (exec (.registerWrite a) s) (fun t => t = { s with out := s.out ++ [.read 0x0B481F9A] }))
        ∧ (a.size = 4 → a.off = 8 → Ends (exec (.registerWrite a) s) (fun t => ∃ rev < 256, t = { s with out := s.out ++ [.read (0x12000000 + rev)] }))
        ∧ (a.size = 2 → a.off = 0x2E → Ends (exec (.registerWrite a) s) (fun t => t = { s with out := s.out ++ [.read 0x0950] })))
    ∧ (∀ v < 256, Ends (exec (.msixUnmask v) s) (fun t => tget true t.msixMask v = false ∧ tget false t.pba v = false ∧ t.mem = s.mem ∧ t.regs = s.regs
        ∧ t.out = if tget false s.pba v then s.out ++ [.msix v] else s.out))

/-! ### Debug and counters -/

/-- R415, R411, R406: CONTINUE lets a partition go once every causing context has; STEP lets its target go for one word with the partition still stopped; KILL kills the causing
crews' launches, and those of the issued commands that caused the stop; STOP stops a partition; each needs the right, and a stopped partition but for STOP, and else sets
BADCMD alone; while the handler is busy with a dump of the context's or a step a command is ignored (R423). -/
def Sys2Proof.Claims.DebugCommands : Prop :=
  ∀ (s : State) (ctx target : Nat), s.writes = [] → ctx < 64 →
    let core := bits target 13 6
    let part := bits target 5 4
    let badOnly (t : State) : Prop := bitAt (t.r32 (dbgBlk ctx + 0x60)) 1 = true ∧ (∀ o, o ≠ dbgBlk ctx + 0x60 → t.r32 o = s.r32 o) ∧ t.crews = s.crews ∧ t.dbg = s.dbg
      ∧ t.launches = s.launches ∧ t.mem = s.mem
    (s.dbgBusy ctx = true → ∀ e ∈ [Instr.continueStop ctx target, .stepS ctx target, .stepL ctx target, .commitDump ctx target, .debugKill ctx target,
        .stopPartition ctx target], Ends (exec e s) (fun t => t = s))
    ∧ (s.dbgBusy ctx = false → (s.debugRight ctx = false ∨ s.stopOf core part = none → ∀ e ∈ [Instr.continueStop ctx target, .stepS ctx target, .stepL ctx target, .commitDump ctx target,
        .debugKill ctx target], Ends (exec e s) badOnly)
    ∧ (s.debugRight ctx = false → Ends (exec (.stopPartition ctx target) s) badOnly)
    ∧ (s.debugRight ctx = true → core < 192 → Ends (exec (.stopPartition ctx target) s) (fun t => t.partStopped core part = true
        ∧ (∃ d ∈ t.dbg, d.core = core ∧ d.part = part ∧ ctx ∈ d.contexts) ∧ t.crews = s.crews ∧ t.launches = s.launches))
    ∧ (∀ d, s.debugRight ctx = true → s.stopOf core part = some d → d.dumpFault = none → d.step = none →
        (d.contexts.all (fun x => (ctx :: d.gone).contains x) = true → Ends (exec (.continueStop ctx target) s) (fun t => t.partStopped core part = false
          ∧ (∀ e ∈ d.causes, ∀ c, s.crew? e.1 = some c → (t.crew? e.1).elim false (fun x => x.stop.isNone) = true)
          ∧ (∀ k, (∀ e ∈ d.causes, e.1 ≠ k) → t.crew? k = s.crew? k) ∧ (∀ w ∈ t.waiting, ∀ cid, w.cid = some cid → (cid, w.ctx) ∉ d.causes)
          ∧ t.mem = s.mem ∧ t.launches = s.launches))
        ∧ (d.contexts.all (fun x => (ctx :: d.gone).contains x) = false → Ends (exec (.continueStop ctx target) s) (fun t => t.partStopped core part = true
          ∧ t.crews = s.crews ∧ t.mem = s.mem))
        ∧ (∀ cid c, s.targetCrew ctx target = some cid → s.crew? cid = some c → ∀ e ∈ [(Instr.stepS ctx target, Stream.s), (.stepL ctx target, .l)],
            (((s.resumeCrew cid).crew? cid).elim false (fun c => c.ready e.2) = true →
              Ends (exec e.1 s) (fun t => t.crews = (s.resumeCrew cid).crews ∧ t.partStopped core part = true ∧ t.mem = s.mem
                ∧ ∃ x ∈ t.dbg, x.core = core ∧ x.part = part ∧ x.step = some (cid, e.2)))
            ∧ (((s.resumeCrew cid).crew? cid).elim false (fun c => c.ready e.2) = false →
              Ends (exec e.1 s) (fun t => t.crews = (s.resumeCrew cid).crews ∧ ∃ x ∈ t.dbg, x.core = core ∧ x.part = part ∧ x.step = none ∧ (cid, ctx) ∈ x.causes)))
        ∧ Ends (exec (.debugKill ctx target) s) (fun t => ∀ e ∈ d.causes, e.2 = ctx → ∀ c, s.crew? e.1 = some c → t.launch? (s.lidOf c) = none)
        ∧ Ends (exec (.debugKill ctx target) s) (fun t => ∀ i ∈ d.issued, i.record.ctx = ctx → ∀ lid, s.issuedLid i = some lid → t.launch? lid = none)))

/-- R416, R417, R406, R421, R422: COMMIT loads the edited entries' registers and sets TAINT; RIGHT := 0 lets go of every stop that the context alone caused; RELEASE clears TAINT once
nothing of the context is left; CAP copies the counters, and CLR clears them. -/
def Sys2Proof.Claims.DebugStateAndCounters : Prop :=
  ∀ (s : State) (ctx : Nat), s.writes = [] → ctx < 64 →
    (∀ target d, s.debugRight ctx = true → s.stopOf (bits target 13 6) (bits target 5 4) = some d → d.dumpFault = none → d.step = none → s.dbgBusy ctx = false →
      (ctx ∈ d.gone → Ends (exec (.commitDump ctx target) s) (fun t => t = s)) ∧ (ctx ∉ d.gone →
      Ends (exec (.commitDump ctx target) s) (fun t => bitAt (t.r32 (dbgBlk ctx)) 30 = true
        ∧ (s.cmds = [] → s.copies = [] → InOrder s.crews → (∀ o, o ≠ dbgBlk ctx → t.r32 o = s.r32 o) ∧ t.dbg = s.dbg ∧ t.mem = s.mem
          ∧ (∀ cid c bs, s.crew? cid = some c → s.coreOf c = d.core → c.part = d.part → s.ctxOf c = ctx → (s.wg? c.g).elim false Workgroup.onCore = true →
              s.vread ctx .engine ((s.dumpAddr ctx d.core d.part + 65536 * c.idx) % 2 ^ 72) (0x1000 + 128 * (s.kernOf c).vregs) = .ok bs →
              t.crew? cid = some (if bitAt (leNat ((bs.drop 0x0E).take 1)) 3 then commitCrew (s.kernOf c).vregs bs c else c))
          ∧ ∀ cid c, s.crew? cid = some c → s.ctxOf c ≠ ctx → t.crew? cid = some c))))
    ∧ (∀ (vregs : Nat) (bs : List Byte) (c : Crew), let c' := commitCrew vregs bs c
        (∀ r < 64, (tget 0 c'.s r).toNat = leNat ((bs.drop (0x40 + 8 * r)).take 8)) ∧ (∀ r < 16, (tget 0 c'.b r).toNat = leNat ((bs.drop (0x240 + 10 * r)).take 10) % 2 ^ 72)
        ∧ (∀ r < vregs, ∀ l < 32, (tget 0 c'.v (32 * r + l)).toNat = leNat ((bs.drop (0x1000 + 128 * r + 4 * l)).take 4))
        ∧ (∀ r < 7, (tget 0 c'.p r).toNat = leNat ((bs.drop (0x2E0 + 4 * r)).take 4)) ∧ (∀ r < 16, tget 0 c'.bins r = leNat ((bs.drop (0x340 + 4 * r)).take 4))
        ∧ (c'.g, c'.id, c'.part, c'.idx, c'.threads) = (c.g, c.id, c.part, c.idx, c.threads))
    ∧ (∀ v, bitAt v 31 = false → Ends (exec (.debugRevoke ctx v) s) (fun t => t.debugRight ctx = false ∧ t.mem = s.mem ∧ t.launches = s.launches
        ∧ ∀ core part d, s.stopOf core part = some d → ctx ∈ d.contexts → (∀ x ∈ d.contexts, x = ctx) → t.partStopped core part = false))
    ∧ (∀ v, bitAt v 28 = true → Ends (exec (.releaseTaint ctx v) s) (fun t => t.debugRight ctx = (bitAt v 31 && !bitAt (s.r32 (mmuBlk ctx + 8)) 8)
        ∧ t.mem = s.mem ∧ ((∃ l ∈ s.launches, l.2.ctx = ctx) → bitAt (t.r32 (dbgBlk ctx)) 30 = bitAt (s.r32 (dbgBlk ctx)) 30)
        ∧ ((∀ l ∈ s.launches, l.2.ctx ≠ ctx) → (∀ g ∈ s.wgs, ∀ l, s.launch? g.2.lid = some l → l.ctx ≠ ctx) → bitAt (t.r32 (dbgBlk ctx)) 30 = false)))
    ∧ Ends (exec (.capCounters ctx) s) (fun t => (∀ k < 8, t.r64 (ctrBlk ctx + 0x10 + 8 * k) = (tget 0 s.counters (8 * ctx + k)).toNat)
        ∧ bits (t.r32 (ctrBlk ctx + 8)) 23 8 = min (tget 0 s.npre ctx) 65535 ∧ (bitAt (t.r32 (ctrBlk ctx + 8)) 0 = true ↔ tget 0 s.npre ctx ≠ 0) ∧ t.crews = s.crews ∧ t.mem = s.mem)
    ∧ Ends (exec (.clrCounters ctx) s) (fun t => (∀ k < 8, tget 0 t.counters (8 * ctx + k) = 0) ∧ tget 0 t.npre ctx = 0 ∧ t.r32 (ctrBlk ctx + 8) = 0 ∧ t.crews = s.crews ∧ t.mem = s.mem)

/-! ### Reeve -/

/-- R425, R427, R428, R384: sensors show their readings and levels, and level 3 fails the device and kills every launch; an error's row is tested on a spare row and classed, an
uncorrected one in a crew's registers or pool raises a machine check, and an array with no spare row retires its quad. -/
def Sys2Proof.Claims.SensorsAndErrors : Prop :=
  ∀ (s : State), s.writes = [] →
    (∀ readings levels, Ends (exec (.sensorSample readings levels) s) (fun t =>
        ((∀ l ∈ levels, l % 4 ≠ 3) ∨ s.launches = [] → ∀ n < 64, t.r32 (sensOff n) = readings.getD n 0 % 65536 + levels.getD n 0 % 4 * 65536)
        ∧ ((∀ l ∈ levels, l % 4 ≠ 3) → t.crews = s.crews ∧ t.launches = s.launches ∧ t.mem = s.mem ∧ t.bootState = s.bootState)
        ∧ ((∃ n < 64, levels.getD n 0 % 4 = 3) → t.bootState = 15 ∧ t.failStep = 7 ∧ ∀ l ∈ s.launches, t.launch? l.1 = none)))
    ∧ (∀ e, e.crew = none → e.row < spareRows → e.unit < 1024 → let a := arrayNo e.kind e.unit
        let mine := s.reeve.spares.filter (fun x => x.array = a)
        (mine.length < 8 → (∀ x ∈ mine, x.row ≠ e.row) → Ends (exec (.arrayError e) s) (fun t => t.reeve.spares = s.reeve.spares ++ [⟨a, e.row, true⟩]
          ∧ t.crews = s.crews ∧ t.regs = s.regs ∧ t.mem = s.mem))
        ∧ (8 ≤ mine.length → (∀ x ∈ mine, x.row ≠ e.row) → e.kind ≠ .l2Slice → s.quadLive (arrayQuad a) = true → Ends (exec (.arrayError e) s) (fun t =>
          arrayQuad a ∈ t.reeve.retiredFlash ∧ (arrayQuad a ∈ t.reeve.retiring ∨ arrayQuad a ∈ t.reeve.retired) ∧ t.crews = s.crews ∧ t.mem = s.mem))
        ∧ (8 ≤ mine.length → (∀ x ∈ mine, x.row ≠ e.row) → e.kind = .l2Slice → Ends (exec (.arrayError e) s) (fun t => e.unit ∈ t.reeve.slicesFlash
          ∧ t.reeve.retiredFlash = s.reeve.retiredFlash ∧ t.reeve.retiring = s.reeve.retiring ∧ t.crews = s.crews ∧ t.mem = s.mem)))
    ∧ (∀ e cid c, e.crew = some cid → e.corrected = false → e.kind = .regFile ∨ e.kind = .pool → s.crew? cid = some c → c.stop = none →
        (s.policy (s.ctxOf c) 16 = .debug → Ends (exec (.arrayError e) s) (fun t => t.partStopped (s.coreOf c) c.part = true
          ∧ (t.crew? cid).elim false (fun x => x.stop.elim false (fun st => st.trap.cls = 16)) = true))
        ∧ (s.policy (s.ctxOf c) 16 = .kill → Ends (exec (.arrayError e) s) (fun t => t.launch? (s.lidOf c) = none)))
    ∧ (∀ a row lasting, (⟨a, row, true⟩ : Spare) ∈ s.reeve.spares → (∀ e ∈ s.reeve.queuedErrs, e.1 ≠ a) → Ends (exec (.rowTestDone a row lasting) s) (fun t =>
        (if lasting then (⟨a, row, false⟩ : Spare) ∈ t.reeve.spares ∧ bits (t.r32 (reeveBlk + 0x18)) 15 0 = min (bits (s.r32 (reeveBlk + 0x18)) 15 0 + 1) 65535
         else (⟨a, row, true⟩ : Spare) ∉ t.reeve.spares ∧ bits (t.r32 (reeveBlk + 0x18)) 31 16 = min (bits (s.r32 (reeveBlk + 0x18)) 31 16 + 1) 65535)
        ∧ (⟨a, row, true⟩ : Spare) ∉ t.reeve.spares ∧ t.crews = s.crews ∧ t.mem = s.mem))

/-- R429 to R431, R428, R426, R433: UPDATE rejects an image whose signature or digest is wrong, or whose SVN is too low, and else stores its SVN, extends M and
keeps an image for Reeve for the next boot; Kiln's microcode goes in
when Kiln is idle; RETIRE retires a quad but the last; QUOTE writes its report behind the nonce; LOGREAD copies records; the end of a command clears GO and shows its status. -/
def Sys2Proof.Claims.ReeveCommands : Prop :=
  ∀ (s : State), s.Settled →
    (∀ arg, s.reeve.busyCmd = some (1, arg) → s.bufOk 0 s.reeveLen = true →
      let img := s.pread s.reeveBuf s.reeveLen
      let h := img.take 96
      let good := Config.falconOk h ((img.drop 96).take 1280) = true ∧ shake256 ((img.drop 1376).take (leNat ((h.drop 12).take 4))) = (h.drop 16).take 64
      let target := leNat ((h.drop 4).take 1)
      let svn := leNat ((h.drop 8).take 4)
      (¬good → Ends (exec .updateCmd s) (fun t => t.reeve = { s.reeve with busyCmd := some (0, 1) } ∧ t.regs = s.regs ∧ t.mem = s.mem))
      ∧ (good → svn < tget 0 s.reeve.svn target → Ends (exec .updateCmd s) (fun t => t.reeve = { s.reeve with busyCmd := some (0, 2) } ∧ t.regs = s.regs ∧ t.mem = s.mem))
      ∧ (good → tget 0 s.reeve.svn target ≤ svn → hdrOk h s.reeveLen = true → (target = 1 → s.portPresent (leNat ((h.drop 5).take 1)) = true) →
          Ends (exec .updateCmd s) (fun t => tget 0 t.reeve.svn target = svn ∧ t.reeve.meas = shake256 (s.reeve.meas ++ (h.drop 16).take 64)
            ∧ t.reeve.busyCmd = some (0, 0) ∧ (target = 2 → t.reeve.kilnUpdate = true)
            ∧ (target = 0 → t.imageDigest = (h.drop 16).take 64) ∧ t.mem = s.mem)))
    ∧ (s.reeve.kilnUpdate = true → s.kilnIdle = true → Ends (exec .kilnUpdateApply s) (fun t => t = { s with reeve := { s.reeve with kilnUpdate := false, kilnBusy := true } }))
    ∧ Ends (exec .kilnUpdateDone s) (fun t => t = { s with reeve := { s.reeve with kilnBusy := false } })
    ∧ (∀ q, s.reeve.busyCmd = some (2, q) →
        (s.quadLive q = true → q ∉ s.reeve.retiring → 1 + s.reeve.retiring.length < s.quadsLive → Ends (exec .retireCmd s) (fun t => t.reeve.busyCmd = some (0, 0)
          ∧ (q ∈ t.reeve.retiring ∨ q ∈ t.reeve.retired) ∧ t.reeve.retiredFlash = s.reeve.retiredFlash ∧ t.crews = s.crews ∧ t.mem = s.mem))
        ∧ (s.quadLive q = false ∨ s.quadsLive ≤ 1 → Ends (exec .retireCmd s) (fun t => t.reeve = { s.reeve with busyCmd := some (0, 3) } ∧ t.mem = s.mem)))
    ∧ (∀ arg, s.reeve.busyCmd = some (3, arg) → let r := s.report431 (s.pread s.reeveBuf 32)
        s.bufOk 0 (32 + r.length) = true → Ends (exec .quoteCmd s) (fun t => t.reeve.busyCmd = some (0, 0)
          ∧ (List.range r.length).map (fun i => t.rd (s.reeveBuf + 32 + i)) = r ∧ (∀ a, a < s.reeveBuf + 32 ∨ s.reeveBuf + 32 + r.length ≤ a → t.rd a = s.rd a) ∧ t.crews = s.crews))
    ∧ (∀ page r, s.reeve.busyCmd = some (4, page) → let n := s.reeveLen % 65536 / 32
        let start := page * 65536 + s.reeveLen / 65536
        s.bufOk 0 (32 * n) = true → Ends (exec .logreadCmd s) (fun t => t.reeve.busyCmd = some (0, 0) ∧ t.reeve.log = s.reeve.log ∧ t.crews = s.crews
          ∧ (∀ i < n, s.reeve.log.find? (fun x => x.num = start + i) = some r → (List.range 32).map (fun j => t.rd (s.reeveBuf + 32 * i + j)) = r.bytes)
          ∧ ∀ a, a < s.reeveBuf ∨ s.reeveBuf + 32 * n ≤ a → t.rd a = s.rd a))
    ∧ (∀ st, s.reeve.busyCmd = some (0, st) → Ends (exec .reeveCommandDone s) (fun t => bitAt (t.r32 reeveBlk) 31 = false ∧ t.r32 reeveBlk % 256 = st % 256
        ∧ t.reeve = { s.reeve with busyCmd := none } ∧ (∀ o, o ≠ reeveBlk → t.r32 o = s.r32 o) ∧ t.mem = s.mem))

/-! ### The machine as a whole -/

/-- R222, R225, R234 to R236: decoding what the encoder gives for a well-formed instruction gives that instruction, with every operand at every value its field admits. -/
def Sys2Proof.Claims.EncodeThenDecode : Prop :=
  ∀ (i : Instr) (n w : Nat), i.wf = true → encode i = some (n, w) → (n = 32 ∨ n = 64 ∨ n = 96) ∧ w < 2 ^ n ∧ decodeTableWord n w = some i

/-- R220, R222, R225: every word decodes to a well-formed instruction that encodes to that word: no bit of it is dropped. -/
def Sys2Proof.Claims.DecodeThenEncode : Prop :=
  (∀ x < 2 ^ 32, ∀ y < 2 ^ 32, (decodeS x y).wf = true ∧ encode (decodeS x y) = if isSX x then some (64, x + 2 ^ 32 * y) else some (32, x))
  ∧ ∀ x < 2 ^ 96, (decodeL x).wf = true ∧ encode (decodeL x) = some (96, x)

/-- R377 and the model's own rule that an event whose condition does not hold changes nothing: from every state a step answers a next state, in which every byte that
the step has written has entered memory.
The model's own choices in it: log entries 2, 111. -/
def Obligations.EveryStepGoesOn : Prop := ∀ s : State, ∃ t, step s = .next t ∧ t.writes = []

/-- The one canonical form of memory (the model's own): every step keeps it.
The model's own choices in it: log entry 1. -/
def Obligations.MemoryStaysCanonical : Prop := ∀ s t : State, Memory.wf s.mem = true → step s = .next t → Memory.wf t.mem = true

namespace Sys2Proof.Claims

/-- What the tables keep from step to step: each key names one entry; a pool's records in use lie within it; old roots stand in the write history; the graph of the
order of memory keeps its form. -/
structure TablesOk (s : State) : Prop where
  crews : InOrder s.crews
  wgs : InOrder s.wgs
  launches : InOrder s.launches
  pools : InOrder s.pools
  records : ∀ p ∈ s.pools, PoolOk p.2
  roots : RootsOk s
  exited : InOrder s.exited
  orders : InOrder s.orders
  joins : InOrder s.joins
  graph : GraphOk s

end Sys2Proof.Claims

/-- R194, R195, R386, R90 and the model's own form of its tables: every step keeps what the statements on evictions, pools, invalidations and memory accesses assume of a state.
The model's own choices in it: log entries 2, 7. -/
def Obligations.TablesStayInOrder : Prop := ∀ s t : State, TablesOk s → step s = .next t → TablesOk t

/-- R9, R372, R373, R393, R397, R404 to R406: reset leaves step 1 of bring-up, no crew, workgroup or launch, time not counting, every port enabled for the layout of MODE 0 and down, PTP enabled in domain 127
without lock, 48 quads in service, the estimates and gang wait at their values; memory lists nothing, in canonical form, and the tables are in order.
The model's own choices in it: log entries 1, 7, 9, 10, 11, 12, 13. -/
def Obligations.ResetState : Prop :=
  let s := State.reset
  s.Settled ∧ TablesOk s ∧ s.crews = [] ∧ s.wgs = [] ∧ s.launches = [] ∧ s.mem = [] ∧ s.tnow = 0 ∧ s.started = false ∧ s.bootState = 1 ∧ s.failStep = 0
  ∧ s.hostRead 0 4 = 0x0B482030 ∧ s.quadsLive = 48 ∧ s.memSize = 0 ∧ s.lock = 0 ∧ s.r32 ptpcBlk = 0x807F0001 ∧ s.r32 (ptpcBlk + 0x18) = 60
  ∧ (∀ p < 16, s.r32 (portBlk p) = 0xC0000000) ∧ (∀ p, s.portPresent p = decide (p < 4)) ∧ (∀ c < 64, s.debugRight c = false ∧ s.r64 (mmuBlk c) = 0 ∧ s.r32 (mmuBlk c + 8) = 0)
  ∧ (∀ q < 64, s.r32 (qBlk q) = 0 ∧ s.r32 (qBlk q + 0x30) = 1000000 ∧ s.r32 (qBlk q + 0x34) = 65536) ∧ s.r32 0x00081004 = 50 ∧ s.gwait = 50000 ∧ s.evs = [] ∧ s.orders = [] ∧ s.scs = [] ∧ s.joins = [] ∧ s.noLink = false ∧ s.peal = [] ∧ s.pools = [] ∧ s.nodes = [] ∧ s.hwqs = []

/-- R26, R27, R29, R35, R43: a step issues, for the crew that the agenda names or else the focused one, the instruction that the bytes at its S-PC decode
to, or the L-word at the head of its run, if the crew is ready and has its turn; or an event at the head of the agenda happens, or time passes. Round
that a step counts the oracle and lets copies under way move, keeps the fetched words, lets go of the writes that a stop held, lets the crew's slot pass, and does what has fallen due.
The model's own choices in it: log entries 2, 3, 98, 111. -/
def Obligations.StepRunsDecoded : Prop :=
  ∀ (s : State),
    let s1 : State := ({ s with oracle := s.oracle + 1 } : State).drift
    let here : State := { s1 with agenda := s.agenda.tail }
    (∀ (cid : Nat) (c : Crew) (st : Stream) (i : Instr) (bs : List Byte),
      let s2 : State := { here with focus := cid }
      (s.agenda = [] ∧ cid = s.focus ∧ st = (if (s1.crew? cid).elim false Crew.lReady then .l else .s)
        ∨ s.agenda.head? = some (match st with
            | .s => .issueS cid
            | .l => .issueL cid)) →
      s2.crew? cid = some c → c.ready st = true → s2.mayIssue cid st c = true → (s2.stepping cid st c || s2.hasTurn cid st c) = true → s2.breaksOn st c = false →
      (match st with
        | .s => s2.fetch c c.pc.toNat 4 = .ok bs ∧ decodeSBytes bs = .ok (i, 4)
            ∨ ∃ b d, s2.fetch c c.pc.toNat 4 = .ok b ∧ s2.fetch c ((c.pc.toNat + 4) % 2 ^ 72) 4 = .ok d ∧ bs = b ++ d ∧ decodeSBytes bs = .ok (i, 8)
        | .l => s2.fetch c (s2.lAddr c) 12 = .ok bs ∧ decodeLBytes bs = .ok i) →
      let s3 := (s2.breakBit (s2.coreOf c) (s2.ctxOf c) st (match st with
        | .s => c.pc.toNat
        | .l => s2.lAddr c)).1.setCrew cid { c with ir := wordsOf bs }
      (st = .s → s3.blocked c i = false) →
      step s = Res.after (Res.after (exec i (s3.setCrew cid { c.release with ir := wordsOf bs })) (fun t => t.issued cid st (s2.stepping cid st c) (s2.coreOf c) c.part (s2.turnKey st c) c.idx ((c.pend.filter (fun p => p.held)).map (fun p => p.id)))) State.settle)
    ∧ (∀ i, s.agenda.head? = some (.event i) → encode i = none → step s = Res.after (exec i here) State.settle)
    ∧ ∀ ns frac cycles, s.agenda.head? = some (.time ns frac cycles) → step s = Res.after (fin (here.passTimeTo ns frac cycles)) State.settle

/-- R223 to R236: words written out from the encodings decode to the instructions that they stand for (a check of a few words). -/
def Obligations.SampleWordsDecode : Prop :=
  decodeTableWord 32 0x010C4140 = some (.saddR ⟨false, 3, 4, 5, 0⟩) ∧ decodeTableWord 32 0x020C4FFF = some (.saddI ⟨false, 3, 4, 0xFFF⟩)
  ∧ decodeTableWord 32 0x53008020 = some (.brd ⟨false, 0, 16, 32⟩) ∧ decodeTableWord 64 0xFFFFFFFE22100000 = some (.sldiSx ⟨false, 4, 0, 0, 0, 0xFFFFFFFE⟩)
  ∧ decodeTableWord 32 0xEE000000 = some (.nop ⟨true, 0⟩)
  ∧ decodeTableWord 96 0x00781C0C1000080000000000 = some (.vadd ⟨false, 7, false, 7, 3, 4, 0, 0, 0, true, 0, 0, 0⟩)

/-! ### Statements that stand together -/

/-- R249 to R251, R224: the register, test, bit-count, immediate and load-immediate forms of the scalar unit complete with the value of their row. -/
def Obligations.ScalarForms : Prop := Claims.ScalarRegisterForms ∧ Claims.ScalarTestsAndBitCounts ∧ Claims.ScalarImmediateForms ∧ Claims.ScalarLoadImmediate

/-- R255, R34: jumps, calls and returns complete at their targets.
The model's own choices in it: log entry 26. -/
def Obligations.UniformControlFlow : Prop := Claims.UniformJumps ∧ Claims.CallAndReturn

/-- R30 to R33, R255: branches split and joins put together the lanes of a path.
The model's own choices in it: log entry 91. -/
def Obligations.DivergenceAndReconvergence : Prop := Claims.BranchDivergent ∧ Claims.JoinReconverges ∧ Claims.SpilledStack

/-- R40 to R45, R259, R260: the reads of time and the waits for it.
The model's own choices in it: log entries 88, 111. -/
def Obligations.TimeInstructions : Prop := Claims.TimeReads ∧ Claims.TimeWaits

/-- R271 onward: the lane forms of fixed latency complete with the value of their row in every active lane.
The model's own choices in it: log entry 24. -/
def Obligations.LaneFixedForms : Prop := Claims.LaneArithmeticForms ∧ Claims.LaneMixedForms ∧ Claims.LaneBitForms ∧ Claims.LaneConversionForms

/-- R377, R378, R381, R382, R384: what a trap saves, what its record shows, what the context's policy makes of it, and how its crew goes on.
The model's own choices in it: log entries 89, 101. -/
def Obligations.TakingATrap : Prop := Claims.TrapEntry ∧ Claims.TrapPolicies ∧ Claims.TrapRecordLayout ∧ Claims.ResumeAfterTrap

/-- R168, R319 to R323: pixels, status and cursors of streams.
The model's own choices in it: log entries 20, 85, 92. -/
def Obligations.StreamInstructions : Prop := Claims.StreamPixels ∧ Claims.StreamStatus

/-- R325 to R336: the loads and commands of the matrix engine are posted with what they capture at issue; no engine form, CPY or QPOP does anything with an empty Active.
The model's own choices in it: log entry 18. -/
def Obligations.MatrixInstructions : Prop := Claims.MatrixLoads ∧ Claims.MatrixCommands ∧ Claims.EmptyActivePostsNothing

/-- R138 to R149, R264: rounds fire, and a commit moves the threads that have arrived.
The model's own choices in it: log entry 57. -/
def Obligations.RegroupRoundsCommit : Prop := Claims.RegroupRounds ∧ Claims.RegroupPacking

/-- R20, R28, R36, R38, R43, R45, R221, R343, R345, R346, R379, R384: what keeps a crew at its instruction, and what happens to crews between their instructions.
The model's own choices in it: log entries 53, 88, 111. -/
def Obligations.EventsOfCrews : Prop := Claims.MarkersHold ∧ Claims.MarkersDeliver ∧ Claims.CrewEvents ∧ Claims.BarrierTimeouts

/-- R119 to R134, R325 to R336: loads commit, passes and folds compute.
The model's own choices in it: log entries 33, 36, 37, 46, 93, 94, 110. -/
def Obligations.MatrixEngineEvents : Prop := Claims.MatrixLoadEvents ∧ Claims.MatrixPasses ∧ Claims.FoldUnit

/-- R150 to R162: steps, switches and bindings of the radiance cache.
The model's own choices in it: log entries 58, 59, 60, 61, 99, 100. -/
def Obligations.KilnAndRadianceCache : Prop := Claims.KilnSteps ∧ Claims.RadianceBinding

/-- R199 to R210: packets between peers, acknowledgements, resends and failure.
The model's own choices in it: log entries 39, 40, 41, 102. -/
def Obligations.PeerTransport : Prop := Claims.PeerData ∧ Claims.PeerRecovery

/-- R163 to R177: receive flows, transmit flows, and their enabling.
The model's own choices in it: log entries 20, 21, 22, 97. -/
def Obligations.StreamFlows : Prop := Claims.StreamReceive ∧ Claims.StreamTransmit ∧ Claims.FlowControl

/-- R211 to R219: arming, arrival, decisions and frame starts of a Peal group.
The model's own choices in it: log entries 14, 45. -/
def Obligations.WallBarrier : Prop := Claims.PealArming ∧ Claims.PealDecisions

/-- R356 to R365: launches are taken, and completions are written.
The model's own choices in it: log entry 44. -/
def Obligations.LaunchesStartAndComplete : Prop := Claims.LaunchTakes ∧ Claims.CompletionEntries

/-- R17, R18, R23, R51, R366, R369: slack, reservations and the placement of a workgroup.
The model's own choices in it: log entries 29, 30, 92, 96. -/
def Obligations.Placement : Prop := Claims.SlackAndReservation ∧ Claims.WorkgroupPlacement

/-- R194, R356, R372 to R375: the control registers of queues, pools, nodes and hardware work queues. -/
def Obligations.QueuesPoolsAndNodes : Prop := Claims.QueueControl ∧ Claims.PoolNodeControl

/-- R380, R382, R393: the trap ring, and MMU_RESUME.
The model's own choices in it: log entries 87, 104. -/
def Obligations.TrapRingAndResume : Prop := Claims.TrapRingWrites ∧ Claims.MmuResume

/-- R388 to R392: victims, saves and their faults, restores.
The model's own choices in it: log entries 68, 69, 70, 71, 108. -/
def Obligations.EvictionAndRestore : Prop := Claims.VictimsStop ∧ Claims.SavesAndFaults ∧ Claims.Restores

/-- R397 to R399, R404, R405: bring-up, and the PTP clock unit.
The model's own choices in it: log entries 13, 72, 73, 103, 109. -/
def Obligations.BringUpAndClock : Prop := Claims.BringUp ∧ Claims.PtpClock

/-- R406, R410 to R417, R421, R422: the debug handler's commands, COMMIT, revocation and the counters.
The model's own choices in it: log entries 34, 51, 52, 90. -/
def Obligations.DebugHandler : Prop := Claims.DebugCommands ∧ Claims.DebugStateAndCounters

/-- R425 to R433: sensors, errors, retirement, updates, attestation and the log.
The model's own choices in it: log entries 35, 75, 76, 77. -/
def Obligations.FleetController : Prop := Claims.SensorsAndErrors ∧ Claims.ReeveCommands

/-- R220, R222, R225, R234 to R236: encoding and decoding agree in both directions, over every instruction that has a word and over every word. -/
def Obligations.EncodingsRoundTrip : Prop := Claims.EncodeThenDecode ∧ Claims.DecodeThenEncode
end

