-- ==== Sys2Proof/Laws/Dispatch.lean ====
section
/-! SUPPORT. The meaning that each constructor's arm calls: one equation for each, so that no proof unfolds the dispatch. -/

namespace Sys2Proof.Machine

theorem exec_saddR (a : SA) (s : State) : exec (.saddR a) s = execSaddR a s := rfl
theorem exec_saddI (a : SI) (s : State) : exec (.saddI a) s = execSaddI a s := rfl
theorem exec_ssub (a : SA) (s : State) : exec (.ssub a) s = execSsub a s := rfl
theorem exec_smulR (a : SA) (s : State) : exec (.smulR a) s = execSmulR a s := rfl
theorem exec_smulI (a : SI) (s : State) : exec (.smulI a) s = execSmulI a s := rfl
theorem exec_smulhI (a : SA) (s : State) : exec (.smulhI a) s = execSmulhI a s := rfl
theorem exec_smulhN (a : SA) (s : State) : exec (.smulhN a) s = execSmulhN a s := rfl
theorem exec_sdivI (a : SA) (s : State) : exec (.sdivI a) s = execSdivI a s := rfl
theorem exec_sdivN (a : SA) (s : State) : exec (.sdivN a) s = execSdivN a s := rfl
theorem exec_sremI (a : SA) (s : State) : exec (.sremI a) s = execSremI a s := rfl
theorem exec_sremN (a : SA) (s : State) : exec (.sremN a) s = execSremN a s := rfl
theorem exec_sandR (a : SA) (s : State) : exec (.sandR a) s = execSandR a s := rfl
theorem exec_sandI (a : SI) (s : State) : exec (.sandI a) s = execSandI a s := rfl
theorem exec_sorR (a : SA) (s : State) : exec (.sorR a) s = execSorR a s := rfl
theorem exec_sorI (a : SI) (s : State) : exec (.sorI a) s = execSorI a s := rfl
theorem exec_sxorR (a : SA) (s : State) : exec (.sxorR a) s = execSxorR a s := rfl
theorem exec_sxorI (a : SI) (s : State) : exec (.sxorI a) s = execSxorI a s := rfl
theorem exec_sshlR (a : SA) (s : State) : exec (.sshlR a) s = execSshlR a s := rfl
theorem exec_sshlI (a : SI) (s : State) : exec (.sshlI a) s = execSshlI a s := rfl
theorem exec_sshrR (a : SA) (s : State) : exec (.sshrR a) s = execSshrR a s := rfl
theorem exec_sshrI (a : SI) (s : State) : exec (.sshrI a) s = execSshrI a s := rfl
theorem exec_ssraR (a : SA) (s : State) : exec (.ssraR a) s = execSsraR a s := rfl
theorem exec_ssraI (a : SI) (s : State) : exec (.ssraI a) s = execSsraI a s := rfl
theorem exec_sminI (a : SA) (s : State) : exec (.sminI a) s = execSminI a s := rfl
theorem exec_sminN (a : SA) (s : State) : exec (.sminN a) s = execSminN a s := rfl
theorem exec_smaxI (a : SA) (s : State) : exec (.smaxI a) s = execSmaxI a s := rfl
theorem exec_smaxN (a : SA) (s : State) : exec (.smaxN a) s = execSmaxN a s := rfl
theorem exec_ssetI (a : SA) (s : State) : exec (.ssetI a) s = execSsetI a s := rfl
theorem exec_ssetN (a : SA) (s : State) : exec (.ssetN a) s = execSsetN a s := rfl
theorem exec_sbit32 (a : SA) (s : State) : exec (.sbit32 a) s = execSbit32 a s := rfl
theorem exec_sbit64 (a : SA) (s : State) : exec (.sbit64 a) s = execSbit64 a s := rfl
theorem exec_sldiLo (a : SX) (s : State) : exec (.sldiLo a) s = execSldiLo a s := rfl
theorem exec_sldiHi (a : SX) (s : State) : exec (.sldiHi a) s = execSldiHi a s := rfl
theorem exec_sldiSx (a : SX) (s : State) : exec (.sldiSx a) s = execSldiSx a s := rfl
theorem exec_baddR (a : SA) (s : State) : exec (.baddR a) s = execBaddR a s := rfl
theorem exec_baddI (a : SI) (s : State) : exec (.baddI a) s = execBaddI a s := rfl
theorem exec_bsetLo (a : SA) (s : State) : exec (.bsetLo a) s = execBsetLo a s := rfl
theorem exec_bsetHi (a : SA) (s : State) : exec (.bsetHi a) s = execBsetHi a s := rfl
theorem exec_bgetLo (a : SA) (s : State) : exec (.bgetLo a) s = execBgetLo a s := rfl
theorem exec_bgetHi (a : SA) (s : State) : exec (.bgetHi a) s = execBgetHi a s := rfl
theorem exec_bmov (a : SA) (s : State) : exec (.bmov a) s = execBmov a s := rfl
theorem exec_sldN8 (a : SM) (s : State) : exec (.sldN8 a) s = execSldN8 a s := rfl
theorem exec_sldI8 (a : SM) (s : State) : exec (.sldI8 a) s = execSldI8 a s := rfl
theorem exec_sldN16 (a : SM) (s : State) : exec (.sldN16 a) s = execSldN16 a s := rfl
theorem exec_sldI16 (a : SM) (s : State) : exec (.sldI16 a) s = execSldI16 a s := rfl
theorem exec_sldN32 (a : SM) (s : State) : exec (.sldN32 a) s = execSldN32 a s := rfl
theorem exec_sldI32 (a : SM) (s : State) : exec (.sldI32 a) s = execSldI32 a s := rfl
theorem exec_sld64 (a : SM) (s : State) : exec (.sld64 a) s = execSld64 a s := rfl
theorem exec_sst8 (a : SM) (s : State) : exec (.sst8 a) s = execSst8 a s := rfl
theorem exec_sst16 (a : SM) (s : State) : exec (.sst16 a) s = execSst16 a s := rfl
theorem exec_sst32 (a : SM) (s : State) : exec (.sst32 a) s = execSst32 a s := rfl
theorem exec_sst64 (a : SM) (s : State) : exec (.sst64 a) s = execSst64 a s := rfl
theorem exec_satomAdd (a : SM) (s : State) : exec (.satomAdd a) s = execSatomAdd a s := rfl
theorem exec_satomAnd (a : SM) (s : State) : exec (.satomAnd a) s = execSatomAnd a s := rfl
theorem exec_satomOr (a : SM) (s : State) : exec (.satomOr a) s = execSatomOr a s := rfl
theorem exec_satomXor (a : SM) (s : State) : exec (.satomXor a) s = execSatomXor a s := rfl
theorem exec_satomMin (a : SM) (s : State) : exec (.satomMin a) s = execSatomMin a s := rfl
theorem exec_satomMax (a : SM) (s : State) : exec (.satomMax a) s = execSatomMax a s := rfl
theorem exec_satomMinn (a : SM) (s : State) : exec (.satomMinn a) s = execSatomMinn a s := rfl
theorem exec_satomMaxn (a : SM) (s : State) : exec (.satomMaxn a) s = execSatomMaxn a s := rfl
theorem exec_satomXchg (a : SM) (s : State) : exec (.satomXchg a) s = execSatomXchg a s := rfl
theorem exec_scas (a : SM) (s : State) : exec (.scas a) s = execScas a s := rfl
theorem exec_jmp (a : SJ) (s : State) : exec (.jmp a) s = execJmp a s := rfl
theorem exec_jmpcEqz (a : SJ) (s : State) : exec (.jmpcEqz a) s = execJmpcEqz a s := rfl
theorem exec_jmpcNez (a : SJ) (s : State) : exec (.jmpcNez a) s = execJmpcNez a s := rfl
theorem exec_jmpcLtz (a : SJ) (s : State) : exec (.jmpcLtz a) s = execJmpcLtz a s := rfl
theorem exec_jmpcGez (a : SJ) (s : State) : exec (.jmpcGez a) s = execJmpcGez a s := rfl
theorem exec_call (a : SJ) (s : State) : exec (.call a) s = execCall a s := rfl
theorem exec_ret (a : SA) (s : State) : exec (.ret a) s = execRet a s := rfl
theorem exec_brd (a : SB) (s : State) : exec (.brd a) s = execBrd a s := rfl
theorem exec_join (a : SR) (s : State) : exec (.join a) s = execJoin a s := rfl
theorem exec_lrun (a : SL) (s : State) : exec (.lrun a) s = execLrun a s := rfl
theorem exec_bar (a : SA) (s : State) : exec (.bar a) s = execBar a s := rfl
theorem exec_gbar (a : SA) (s : State) : exec (.gbar a) s = execGbar a s := rfl
theorem exec_peal (a : SA) (s : State) : exec (.peal a) s = execPeal a s := rfl
theorem exec_tget (a : SI) (s : State) : exec (.tget a) s = execTget a s := rfl
theorem exec_twait (a : SA) (s : State) : exec (.twait a) s = execTwait a s := rfl
theorem exec_twaitPres (a : SA) (s : State) : exec (.twaitPres a) s = execTwaitPres a s := rfl
theorem exec_lnch (a : SM6) (s : State) : exec (.lnch a) s = execLnch a s := rfl
theorem exec_lnchNb (a : SM6) (s : State) : exec (.lnchNb a) s = execLnchNb a s := rfl
theorem exec_exit (a : SR) (s : State) : exec (.exit a) s = execExit a s := rfl
theorem exec_gsetT (a : SA) (s : State) : exec (.gsetT a) s = execGsetT a s := rfl
theorem exec_gsetF (a : SA) (s : State) : exec (.gsetF a) s = execGsetF a s := rfl
theorem exec_gsetTrig (a : SM6) (s : State) : exec (.gsetTrig a) s = execGsetTrig a s := rfl
theorem exec_gclr (a : SA) (s : State) : exec (.gclr a) s = execGclr a s := rfl
theorem exec_binc (a : SA) (s : State) : exec (.binc a) s = execBinc a s := rfl
theorem exec_rgrp (a : SX) (s : State) : exec (.rgrp a) s = execRgrp a s := rfl
theorem exec_rhom (a : SI) (s : State) : exec (.rhom a) s = execRhom a s := rfl
theorem exec_sread (a : SP) (s : State) : exec (.sread a) s = execSread a s := rfl
theorem exec_swrite (a : SI) (s : State) : exec (.swrite a) s = execSwrite a s := rfl
theorem exec_fence (a : SF) (s : State) : exec (.fence a) s = execFence a s := rfl
theorem exec_yieldCrew (a : SR) (s : State) : exec (.yieldCrew a) s = execYieldCrew a s := rfl
theorem exec_trap (a : SI) (s : State) : exec (.trap a) s = execTrap a s := rfl
theorem exec_sysc (a : SI) (s : State) : exec (.sysc a) s = execSysc a s := rfl
theorem exec_brkpt (a : SI) (s : State) : exec (.brkpt a) s = execBrkpt a s := rfl
theorem exec_nop (a : SR) (s : State) : exec (.nop a) s = execNop a s := rfl
theorem exec_sHint (op : Nat) (a : SR) (s : State) : exec (.sHint op a) s = execSHint op a s := rfl
theorem exec_sIllegalOpcode (op : Nat) (a : SR) (s : State) : exec (.sIllegalOpcode op a) s = execSIllegalOpcode op a s := rfl
theorem exec_vadd (f : LF) (s : State) : exec (.vadd f) s = execVadd f s := rfl
theorem exec_vsub (f : LF) (s : State) : exec (.vsub f) s = execVsub f s := rfl
theorem exec_vmul (f : LF) (s : State) : exec (.vmul f) s = execVmul f s := rfl
theorem exec_vmulh (f : LF) (s : State) : exec (.vmulh f) s = execVmulh f s := rfl
theorem exec_vmulw (f : LF) (s : State) : exec (.vmulw f) s = execVmulw f s := rfl
theorem exec_vaddc (k : AddcVar) (f : LF) (s : State) : exec (.vaddc k f) s = execVaddc k f s := rfl
theorem exec_vfma (k : FmaVar) (f : LF) (s : State) : exec (.vfma k f) s = execVfma k f s := rfl
theorem exec_vdiv (k : DivVar) (f : LF) (s : State) : exec (.vdiv k f) s = execVdiv k f s := rfl
theorem exec_vdot (k : DotVar) (f : LF) (s : State) : exec (.vdot k f) s = execVdot k f s := rfl
theorem exec_vmin (k : MinVar) (f : LF) (s : State) : exec (.vmin k f) s = execVmin k f s := rfl
theorem exec_vmax (k : MinVar) (f : LF) (s : State) : exec (.vmax k f) s = execVmax k f s := rfl
theorem exec_vclamp (f : LF) (s : State) : exec (.vclamp f) s = execVclamp f s := rfl
theorem exec_vmed3 (f : LF) (s : State) : exec (.vmed3 f) s = execVmed3 f s := rfl
theorem exec_vabs (f : LF) (s : State) : exec (.vabs f) s = execVabs f s := rfl
theorem exec_vneg (f : LF) (s : State) : exec (.vneg f) s = execVneg f s := rfl
theorem exec_vsel (f : LF) (s : State) : exec (.vsel f) s = execVsel f s := rfl
theorem exec_vlerp (f : LF) (s : State) : exec (.vlerp f) s = execVlerp f s := rfl
theorem exec_vsad (f : LF) (s : State) : exec (.vsad f) s = execVsad f s := rfl
theorem exec_vcmp (k : CmpVar) (f : LF) (s : State) : exec (.vcmp k f) s = execVcmp k f s := rfl
theorem exec_vand (f : LF) (s : State) : exec (.vand f) s = execVand f s := rfl
theorem exec_vor (f : LF) (s : State) : exec (.vor f) s = execVor f s := rfl
theorem exec_vxor (f : LF) (s : State) : exec (.vxor f) s = execVxor f s := rfl
theorem exec_vnot (f : LF) (s : State) : exec (.vnot f) s = execVnot f s := rfl
theorem exec_vlop3 (f : LF) (s : State) : exec (.vlop3 f) s = execVlop3 f s := rfl
theorem exec_vshl (f : LF) (s : State) : exec (.vshl f) s = execVshl f s := rfl
theorem exec_vshr (f : LF) (s : State) : exec (.vshr f) s = execVshr f s := rfl
theorem exec_vsra (f : LF) (s : State) : exec (.vsra f) s = execVsra f s := rfl
theorem exec_vbfe (f : LF) (s : State) : exec (.vbfe f) s = execVbfe f s := rfl
theorem exec_vbfi (f : LF) (s : State) : exec (.vbfi f) s = execVbfi f s := rfl
theorem exec_vpopc (f : LF) (s : State) : exec (.vpopc f) s = execVpopc f s := rfl
theorem exec_vclz (k : ClzVar) (f : LF) (s : State) : exec (.vclz k f) s = execVclz k f s := rfl
theorem exec_vbrev (f : LF) (s : State) : exec (.vbrev f) s = execVbrev f s := rfl
theorem exec_vprmt (f : LF) (s : State) : exec (.vprmt f) s = execVprmt f s := rfl
theorem exec_vrcp (f : LF) (s : State) : exec (.vrcp f) s = execVrcp f s := rfl
theorem exec_vrsq (f : LF) (s : State) : exec (.vrsq f) s = execVrsq f s := rfl
theorem exec_vsqrt (f : LF) (s : State) : exec (.vsqrt f) s = execVsqrt f s := rfl
theorem exec_vexp2 (f : LF) (s : State) : exec (.vexp2 f) s = execVexp2 f s := rfl
theorem exec_vlog2 (f : LF) (s : State) : exec (.vlog2 f) s = execVlog2 f s := rfl
theorem exec_vsin (k : TrigVar) (f : LF) (s : State) : exec (.vsin k f) s = execVsin k f s := rfl
theorem exec_vcos (k : TrigVar) (f : LF) (s : State) : exec (.vcos k f) s = execVcos k f s := rfl
theorem exec_vtanh (f : LF) (s : State) : exec (.vtanh f) s = execVtanh f s := rfl
theorem exec_vfrc (f : LF) (s : State) : exec (.vfrc f) s = execVfrc f s := rfl
theorem exec_vrnd (f : LF) (s : State) : exec (.vrnd f) s = execVrnd f s := rfl
theorem exec_vclass (f : LF) (s : State) : exec (.vclass f) s = execVclass f s := rfl
theorem exec_vldexp (f : LF) (s : State) : exec (.vldexp f) s = execVldexp f s := rfl
theorem exec_vcvt (k : SrcType) (f : LF) (s : State) : exec (.vcvt k f) s = execVcvt k f s := rfl
theorem exec_vpack (k : HalfVar) (f : LF) (s : State) : exec (.vpack k f) s = execVpack k f s := rfl
theorem exec_vunpk (k : HalfVar) (f : LF) (s : State) : exec (.vunpk k f) s = execVunpk k f s := rfl
theorem exec_vbqnt (f : LF) (s : State) : exec (.vbqnt f) s = execVbqnt f s := rfl
theorem exec_vbscl (f : LF) (s : State) : exec (.vbscl f) s = execVbscl f s := rfl
theorem exec_vmov (f : LF) (s : State) : exec (.vmov f) s = execVmov f s := rfl
theorem exec_vmovi (f : LF) (s : State) : exec (.vmovi f) s = execVmovi f s := rfl
theorem exec_vmovs (f : LF) (s : State) : exec (.vmovs f) s = execVmovs f s := rfl
theorem exec_vshfl (k : ShfWidth) (f : LF) (s : State) : exec (.vshfl k f) s = execVshfl k f s := rfl
theorem exec_vshfu (k : ShfWidth) (f : LF) (s : State) : exec (.vshfu k f) s = execVshfu k f s := rfl
theorem exec_vshfd (k : ShfWidth) (f : LF) (s : State) : exec (.vshfd k f) s = execVshfd k f s := rfl
theorem exec_vshfx (k : ShfWidth) (f : LF) (s : State) : exec (.vshfx k f) s = execVshfx k f s := rfl
theorem exec_vvote (k : VoteVar) (f : LF) (s : State) : exec (.vvote k f) s = execVvote k f s := rfl
theorem exec_vbal (f : LF) (s : State) : exec (.vbal f) s = execVbal f s := rfl
theorem exec_vplog (k : PlogVar) (f : LF) (s : State) : exec (.vplog k f) s = execVplog k f s := rfl
theorem exec_vpmov (k : PmovVar) (f : LF) (s : State) : exec (.vpmov k f) s = execVpmov k f s := rfl
theorem exec_vred (k : RedOp) (f : LF) (s : State) : exec (.vred k f) s = execVred k f s := rfl
theorem exec_vscanInc (k : RedOp) (f : LF) (s : State) : exec (.vscanInc k f) s = execVscanInc k f s := rfl
theorem exec_vscanExc (k : RedOp) (f : LF) (s : State) : exec (.vscanExc k f) s = execVscanExc k f s := rfl
theorem exec_vmatch (f : LF) (s : State) : exec (.vmatch f) s = execVmatch f s := rfl
theorem exec_vld (k : Space) (f : LF) (s : State) : exec (.vld k f) s = execVld k f s := rfl
theorem exec_vst (k : Space) (f : LF) (s : State) : exec (.vst k f) s = execVst k f s := rfl
theorem exec_vsmp (f : LF) (s : State) : exec (.vsmp f) s = execVsmp f s := rfl
theorem exec_atom (k : AtomVar) (f : LF) (s : State) : exec (.atom k f) s = execAtom k f s := rfl
theorem exec_cas (k : Space) (f : LF) (s : State) : exec (.cas k f) s = execCas k f s := rfl
theorem exec_vfence (f : LF) (s : State) : exec (.vfence f) s = execVfence f s := rfl
theorem exec_cpy (f : LF) (s : State) : exec (.cpy f) s = execCpy f s := rfl
theorem exec_cseal (f : LF) (s : State) : exec (.cseal f) s = execCseal f s := rfl
theorem exec_cwait (f : LF) (s : State) : exec (.cwait f) s = execCwait f s := rfl
theorem exec_srd (f : LF) (s : State) : exec (.srd f) s = execSrd f s := rfl
theorem exec_swr (f : LF) (s : State) : exec (.swr f) s = execSwr f s := rfl
theorem exec_sstatGet (f : LF) (s : State) : exec (.sstatGet f) s = execSstatGet f s := rfl
theorem exec_sstatSet (f : LF) (s : State) : exec (.sstatSet f) s = execSstatSet f s := rfl
theorem exec_ralloc (f : LF) (s : State) : exec (.ralloc f) s = execRalloc f s := rfl
theorem exec_rallocNb (f : LF) (s : State) : exec (.rallocNb f) s = execRallocNb f s := rfl
theorem exec_rpush (f : LF) (s : State) : exec (.rpush f) s = execRpush f s := rfl
theorem exec_qpop (f : LF) (s : State) : exec (.qpop f) s = execQpop f s := rfl
theorem exec_mldb (k : MldbFmt) (f : LF) (s : State) : exec (.mldb k f) s = execMldb k f s := rfl
theorem exec_smcp (f : LF) (s : State) : exec (.smcp f) s = execSmcp f s := rfl
theorem exec_mma (k : MmaFmt) (f : LF) (s : State) : exec (.mma k f) s = execMma k f s := rfl
theorem exec_msca (f : LF) (s : State) : exec (.msca f) s = execMsca f s := rfl
theorem exec_macz (f : LF) (s : State) : exec (.macz f) s = execMacz f s := rfl
theorem exec_macrd (k : MacrdVar) (f : LF) (s : State) : exec (.macrd k f) s = execMacrd k f s := rfl
theorem exec_macwr (f : LF) (s : State) : exec (.macwr f) s = execMacwr f s := rfl
theorem exec_collAdd (f : LF) (s : State) : exec (.collAdd f) s = execCollAdd f s := rfl
theorem exec_collWr (f : LF) (s : State) : exec (.collWr f) s = execCollWr f s := rfl
theorem exec_trav (f : LF) (s : State) : exec (.trav f) s = execTrav f s := rfl
theorem exec_rast (f : LF) (s : State) : exec (.rast f) s = execRast f s := rfl
theorem exec_rcq (f : LF) (s : State) : exec (.rcq f) s = execRcq f s := rfl
theorem exec_rcqTrain (f : LF) (s : State) : exec (.rcqTrain f) s = execRcqTrain f s := rfl
theorem exec_lHint (op : Nat) (f : LF) (s : State) : exec (.lHint op f) s = execLHint op f s := rfl
theorem exec_lIllegalOpcode (op : Nat) (f : LF) (s : State) : exec (.lIllegalOpcode op f) s = execLIllegalOpcode op f s := rfl
theorem exec_crewRetire (cid : Nat) (s : State) : exec (.crewRetire cid) s = execCrewRetire cid s := rfl
theorem exec_barrierTimeout (b : BarRef) (s : State) : exec (.barrierTimeout b) s = execBarrierTimeout b s := rfl
theorem exec_twaitWake (cid : Nat) (s : State) : exec (.twaitWake cid) s = execTwaitWake cid s := rfl
theorem exec_copyLeaveHead (cid : Nat) (s : State) : exec (.copyLeaveHead cid) s = execCopyLeaveHead cid s := rfl
theorem exec_copyLand (op lane : Nat) (s : State) : exec (.copyLand op lane) s = execCopyLand op lane s := rfl
theorem exec_passGrant (quad : Nat) (s : State) : exec (.passGrant quad) s = execPassGrant quad s := rfl
theorem exec_passComplete (quad : Nat) (mismatch : Bool) (row : Nat) (s : State) : exec (.passComplete quad mismatch row) s = execPassComplete quad mismatch row s := rfl
theorem exec_foldGrant (quad : Nat) (s : State) : exec (.foldGrant quad) s = execFoldGrant quad s := rfl
theorem exec_scaleUnitFill (quad : Nat) (s : State) : exec (.scaleUnitFill quad) s = execScaleUnitFill quad s := rfl
theorem exec_mldbLeaveHead (cmd : Nat) (s : State) : exec (.mldbLeaveHead cmd) s = execMldbLeaveHead cmd s := rfl
theorem exec_mldbCommit (cmd : Nat) (s : State) : exec (.mldbCommit cmd) s = execMldbCommit cmd s := rfl
theorem exec_smcpCommit (cmd : Nat) (s : State) : exec (.smcpCommit cmd) s = execSmcpCommit cmd s := rfl
theorem exec_regroupRoundTimeout (round : Nat) (s : State) : exec (.regroupRoundTimeout round) s = execRegroupRoundTimeout round s := rfl
theorem exec_regroupCommit (round : Nat) (moved : Bool) (s : State) : exec (.regroupCommit round moved) s = execRegroupCommit round moved s := rfl
theorem exec_guardWatchRead (w : WatchRef) (s : State) : exec (.guardWatchRead w) s = execGuardWatchRead w s := rfl
theorem exec_rcqGrant (quad : Nat) (s : State) : exec (.rcqGrant quad) s = execRcqGrant quad s := rfl
theorem exec_rcqComplete (quad : Nat) (s : State) : exec (.rcqComplete quad) s = execRcqComplete quad s := rfl
theorem exec_travComplete (cmd : Nat) (s : State) : exec (.travComplete cmd) s = execTravComplete cmd s := rfl
theorem exec_rasteriseTriangle (cmd lane view : Nat) (s : State) : exec (.rasteriseTriangle cmd lane view) s = execRasteriseTriangle cmd lane view s := rfl
theorem exec_rastReturn (cmd : Nat) (s : State) : exec (.rastReturn cmd) s = execRastReturn cmd s := rfl
theorem exec_kilnStep (slot : Nat) (s : State) : exec (.kilnStep slot) s = execKilnStep slot s := rfl
theorem exec_kilnSwitchDue (slot : Nat) (s : State) : exec (.kilnSwitchDue slot) s = execKilnSwitchDue slot s := rfl
theorem exec_kilnSwitchWrite (slot : Nat) (s : State) : exec (.kilnSwitchWrite slot) s = execKilnSwitchWrite slot s := rfl
theorem exec_rcuWritebackRetry (slot : Nat) (s : State) : exec (.rcuWritebackRetry slot) s = execRcuWritebackRetry slot s := rfl
theorem exec_bindRco (slot value : Nat) (s : State) : exec (.bindRco slot value) s = execBindRco slot value s := rfl
theorem exec_unbindRco (slot value : Nat) (s : State) : exec (.unbindRco slot value) s = execUnbindRco slot value s := rfl
theorem exec_unbindComplete (slot : Nat) (s : State) : exec (.unbindComplete slot) s = execUnbindComplete slot s := rfl
theorem exec_pauseKiln (value : Nat) (s : State) : exec (.pauseKiln value) s = execPauseKiln value s := rfl
theorem exec_rxPacket (port : Nat) (p : VideoPacket) (s : State) : exec (.rxPacket port p) s = execRxPacket port p s := rfl
theorem exec_rxRecordPacket (port : Nat) (p : RecordPacket) (s : State) : exec (.rxRecordPacket port p) s = execRxRecordPacket port p s := rfl
theorem exec_lineDeadline (flow slot row : Nat) (s : State) : exec (.lineDeadline flow slot row) s = execLineDeadline flow slot row s := rfl
theorem exec_jxsLineDecoded (flow seq row engine : Nat) (s : State) : exec (.jxsLineDecoded flow seq row engine) s = execJxsLineDecoded flow seq row engine s := rfl
theorem exec_txRowDue (flow : Nat) (s : State) : exec (.txRowDue flow) s = execTxRowDue flow s := rfl
theorem exec_flowEnable (tx : Bool) (flow value : Nat) (s : State) : exec (.flowEnable tx flow value) s = execFlowEnable tx flow value s := rfl
theorem exec_flowDisable (tx : Bool) (flow value : Nat) (s : State) : exec (.flowDisable tx flow value) s = execFlowDisable tx flow value s := rfl
theorem exec_nodeBatchTimeout (node : Nat) (s : State) : exec (.nodeBatchTimeout node) s = execNodeBatchTimeout node s := rfl
theorem exec_recordCopyLand (op : Nat) (s : State) : exec (.recordCopyLand op) s = execRecordCopyLand op s := rfl
theorem exec_collSend (cid : Nat) (s : State) : exec (.collSend cid) s = execCollSend cid s := rfl
theorem exec_gpxData (entry : Nat) (header payload : List Byte) (s : State) : exec (.gpxData entry header payload) s = execGpxData entry header payload s := rfl
theorem exec_gpxAck (entry : Nat) (packet : List Byte) (s : State) : exec (.gpxAck entry packet) s = execGpxAck entry packet s := rfl
theorem exec_gpxResendTimeout (entry : Nat) (s : State) : exec (.gpxResendTimeout entry) s = execGpxResendTimeout entry s := rfl
theorem exec_arrive (entry : Nat) (header payload : List Byte) (s : State) : exec (.arrive entry header payload) s = execArrive entry header payload s := rfl
theorem exec_decideMsg (entry : Nat) (header payload : List Byte) (s : State) : exec (.decideMsg entry header payload) s = execDecideMsg entry header payload s := rfl
theorem exec_pealCollectionClose (frame : Nat) (s : State) : exec (.pealCollectionClose frame) s = execPealCollectionClose frame s := rfl
theorem exec_pealDecideResend (frame : Nat) (s : State) : exec (.pealDecideResend frame) s = execPealDecideResend frame s := rfl
theorem exec_pealFrameStart (frame : Nat) (s : State) : exec (.pealFrameStart frame) s = execPealFrameStart frame s := rfl
theorem exec_pealArm (value : Nat) (s : State) : exec (.pealArm value) s = execPealArm value s := rfl
theorem exec_pealEnable (value : Nat) (s : State) : exec (.pealEnable value) s = execPealEnable value s := rfl
theorem exec_peerRevalidate (entry value : Nat) (s : State) : exec (.peerRevalidate entry value) s = execPeerRevalidate entry value s := rfl
theorem exec_doorbell (queue value : Nat) (s : State) : exec (.doorbell queue value) s = execDoorbell queue value s := rfl
theorem exec_launchTake (queue : Nat) (s : State) : exec (.launchTake queue) s = execLaunchTake queue s := rfl
theorem exec_launchSlackExpiry (lid : Nat) (s : State) : exec (.launchSlackExpiry lid) s = execLaunchSlackExpiry lid s := rfl
theorem exec_workgroupPlace (lid : Nat) (places : List Place) (s : State) : exec (.workgroupPlace lid places) s = execWorkgroupPlace lid places s := rfl
theorem exec_gangReserve (lid : Nat) (s : State) : exec (.gangReserve lid) s = execGangReserve lid s := rfl
theorem exec_queueEnable (queue value : Nat) (s : State) : exec (.queueEnable queue value) s = execQueueEnable queue value s := rfl
theorem exec_queueDisable (queue value : Nat) (s : State) : exec (.queueDisable queue value) s = execQueueDisable queue value s := rfl
theorem exec_crfaultClear (queue : Nat) (s : State) : exec (.crfaultClear queue) s = execCrfaultClear queue s := rfl
theorem exec_poolEnable (pool value : Nat) (s : State) : exec (.poolEnable pool value) s = execPoolEnable pool value s := rfl
theorem exec_poolDisable (pool value : Nat) (s : State) : exec (.poolDisable pool value) s = execPoolDisable pool value s := rfl
theorem exec_nodeEnable (node value : Nat) (s : State) : exec (.nodeEnable node value) s = execNodeEnable node value s := rfl
theorem exec_nodeDisable (node value : Nat) (s : State) : exec (.nodeDisable node value) s = execNodeDisable node value s := rfl
theorem exec_hwqEnable (queue value : Nat) (s : State) : exec (.hwqEnable queue value) s = execHwqEnable queue value s := rfl
theorem exec_hwqDisable (queue value : Nat) (s : State) : exec (.hwqDisable queue value) s = execHwqDisable queue value s := rfl
theorem exec_trapRecordWrite (ctx : Nat) (s : State) : exec (.trapRecordWrite ctx) s = execTrapRecordWrite ctx s := rfl
theorem exec_trgetWrite (ctx value : Nat) (s : State) : exec (.trgetWrite ctx value) s = execTrgetWrite ctx value s := rfl
theorem exec_replay (ctx : Nat) (entry : Resumed) (s : State) : exec (.replay ctx entry) s = execReplay ctx entry s := rfl
theorem exec_killStop (ctx seq : Nat) (s : State) : exec (.killStop ctx seq) s = execKillStop ctx seq s := rfl
theorem exec_debugStop (ctx seq : Nat) (s : State) : exec (.debugStop ctx seq) s = execDebugStop ctx seq s := rfl
theorem exec_deferredMemoryError (line : Nat) (retired : Bool) (ctx slot : Nat) (s : State) :
    exec (.deferredMemoryError line retired ctx slot) s = execDeferredMemoryError line retired ctx slot s := rfl
theorem exec_eviction (core lid : Nat) (victims : List Nat) (s : State) : exec (.eviction core lid victims) s = execEviction core lid victims s := rfl
theorem exec_saveComplete (wg : Nat) (s : State) : exec (.saveComplete wg) s = execSaveComplete wg s := rfl
theorem exec_saveFault (wg addr : Nat) (s : State) : exec (.saveFault wg addr) s = execSaveFault wg addr s := rfl
theorem exec_emergencyCopyDone (wg : Nat) (s : State) : exec (.emergencyCopyDone wg) s = execEmergencyCopyDone wg s := rfl
theorem exec_workgroupRestore (p : List Place) (wgs : List Nat) (s : State) : exec (.workgroupRestore p wgs) s = execWorkgroupRestore p wgs s := rfl
theorem exec_restoreComplete (wg : Nat) (s : State) : exec (.restoreComplete wg) s = execRestoreComplete wg s := rfl
theorem exec_mmuInvalidate (value : Nat) (s : State) : exec (.mmuInvalidate value) s = execMmuInvalidate value s := rfl
theorem exec_mmuInvalidateDone (s : State) : exec .mmuInvalidateDone s = execMmuInvalidateDone s := rfl
theorem exec_scinvGo (quad value : Nat) (s : State) : exec (.scinvGo quad value) s = execScinvGo quad value s := rfl
theorem exec_scinvDone (quad : Nat) (s : State) : exec (.scinvDone quad) s = execScinvDone quad s := rfl
theorem exec_powerOnReset (s : State) : exec .powerOnReset s = execPowerOnReset s := rfl
theorem exec_bringupStepEnd (r : StepResult) (s : State) : exec (.bringupStepEnd r) s = execBringupStepEnd r s := rfl
theorem exec_ptplockTimeout (s : State) : exec .ptplockTimeout s = execPtplockTimeout s := rfl
theorem exec_ptpSync (m : PtpMsg) (s : State) : exec (.ptpSync m) s = execPtpSync m s := rfl
theorem exec_ptpAnnounce (port domain : Nat) (s : State) : exec (.ptpAnnounce port domain) s = execPtpAnnounce port domain s := rfl
theorem exec_ptpSyncLoss (s : State) : exec .ptpSyncLoss s = execPtpSyncLoss s := rfl
theorem exec_holdoverExpiry (s : State) : exec .holdoverExpiry s = execHoldoverExpiry s := rfl
theorem exec_ptpcDisable (s : State) : exec .ptpcDisable s = execPtpcDisable s := rfl
theorem exec_ptpcStep (value : Nat) (s : State) : exec (.ptpcStep value) s = execPtpcStep value s := rfl
theorem exec_ethmodeSet (value : Nat) (s : State) : exec (.ethmodeSet value) s = execEthmodeSet value s := rfl
theorem exec_portTrain (port value : Nat) (s : State) : exec (.portTrain port value) s = execPortTrain port value s := rfl
theorem exec_portTrainDone (port : Nat) (up : Bool) (s : State) : exec (.portTrainDone port up) s = execPortTrainDone port up s := rfl
theorem exec_portDisable (port value : Nat) (s : State) : exec (.portDisable port value) s = execPortDisable port value s := rfl
theorem exec_wallEnable (value : Nat) (s : State) : exec (.wallEnable value) s = execWallEnable value s := rfl
theorem exec_badHostAccess (a : HostAccess) (s : State) : exec (.badHostAccess a) s = execBadHostAccess a s := rfl
theorem exec_hostMemoryAccess (a : HostAccess) (s : State) : exec (.hostMemoryAccess a) s = execHostMemoryAccess a s := rfl
theorem exec_msixUnmask (vector : Nat) (s : State) : exec (.msixUnmask vector) s = execMsixUnmask vector s := rfl
theorem exec_registerWrite (a : HostAccess) (s : State) : exec (.registerWrite a) s = execRegisterWrite a s := rfl
theorem exec_continueStop (ctx target : Nat) (s : State) : exec (.continueStop ctx target) s = execContinueStop ctx target s := rfl
theorem exec_stepS (ctx target : Nat) (s : State) : exec (.stepS ctx target) s = execStepS ctx target s := rfl
theorem exec_stepL (ctx target : Nat) (s : State) : exec (.stepL ctx target) s = execStepL ctx target s := rfl
theorem exec_commitDump (ctx target : Nat) (s : State) : exec (.commitDump ctx target) s = execCommitDump ctx target s := rfl
theorem exec_stopPartition (ctx target : Nat) (s : State) : exec (.stopPartition ctx target) s = execStopPartition ctx target s := rfl
theorem exec_debugKill (ctx target : Nat) (s : State) : exec (.debugKill ctx target) s = execDebugKill ctx target s := rfl
theorem exec_debugRevoke (ctx value : Nat) (s : State) : exec (.debugRevoke ctx value) s = execDebugRevoke ctx value s := rfl
theorem exec_releaseTaint (ctx value : Nat) (s : State) : exec (.releaseTaint ctx value) s = execReleaseTaint ctx value s := rfl
theorem exec_icinvGo (s : State) : exec .icinvGo s = execIcinvGo s := rfl
theorem exec_icinvDone (s : State) : exec .icinvDone s = execIcinvDone s := rfl
theorem exec_capCounters (ctx : Nat) (s : State) : exec (.capCounters ctx) s = execCapCounters ctx s := rfl
theorem exec_clrCounters (ctx : Nat) (s : State) : exec (.clrCounters ctx) s = execClrCounters ctx s := rfl
theorem exec_sensorSample (readings : List Nat) (levels : List Nat) (s : State) : exec (.sensorSample readings levels) s = execSensorSample readings levels s := rfl
theorem exec_arrayError (e : ArrayErr) (s : State) : exec (.arrayError e) s = execArrayError e s := rfl
theorem exec_rowTestDone (array row : Nat) (lasting : Bool) (s : State) : exec (.rowTestDone array row lasting) s = execRowTestDone array row lasting s := rfl
theorem exec_updateCmd (s : State) : exec .updateCmd s = execUpdateCmd s := rfl
theorem exec_kilnUpdateApply (s : State) : exec .kilnUpdateApply s = execKilnUpdateApply s := rfl
theorem exec_retireCmd (s : State) : exec .retireCmd s = execRetireCmd s := rfl
theorem exec_quoteCmd (s : State) : exec .quoteCmd s = execQuoteCmd s := rfl
theorem exec_logreadCmd (s : State) : exec .logreadCmd s = execLogreadCmd s := rfl
theorem exec_reeveCommandDone (s : State) : exec .reeveCommandDone s = execReeveCommandDone s := rfl
theorem exec_pendingWriteReturn (cid pid : Nat) (s : State) : exec (.pendingWriteReturn cid pid) s = execPendingWriteReturn cid pid s := rfl
theorem exec_restoreFault (wg addr : Nat) (s : State) : exec (.restoreFault wg addr) s = execRestoreFault wg addr s := rfl
theorem exec_kilnUpdateDone (s : State) : exec .kilnUpdateDone s = execKilnUpdateDone s := rfl

end Sys2Proof.Machine
end

