-- ==== Sys2Proof/Laws/Store.lean ====
section
/-! SUPPORT. Tables and byte memory: read after write, what a write leaves alone, and the canonical form that every memory operation keeps. -/

namespace Sys2Proof.Machine

variable {α : Type}

/-! ### Tables -/

@[simp] theorem tget?_tset_same (t : Tbl α) (k : Nat) (v : α) : tget? (tset t k v) k = some v := by
  induction t with
  | nil => simp [tset, tget?]
  | cons e t ih =>
    obtain ⟨j, u⟩ := e
    by_cases h : j = k
    · simp [tset, tget?, h]
    · by_cases h2 : k < j
      · simp [tset, tget?, h, h2]
      · simp [tset, tget?, h, h2, ih]

theorem tget?_tset_other (t : Tbl α) (k j : Nat) (v : α) (h : j ≠ k) : tget? (tset t k v) j = tget? t j := by
  induction t with
  | nil => simp [tset, tget?, Ne.symm h]
  | cons e t ih =>
    obtain ⟨i, u⟩ := e
    by_cases h1 : i = k
    · subst h1; simp [tset, tget?, Ne.symm h]
    · by_cases h2 : k < i
      · simp only [tset, h1, if_false, h2, if_true]
        rw [tget?]
        simp only [Ne.symm h, if_false]
        by_cases h3 : j < k
        · have h4 : ¬ i = j := by omega
          have h5 : j < i := by omega
          simp [tget?, h3, h4, h5]
        · simp [h3]
      · by_cases h3 : i = j
        · subst h3; simp [tset, tget?, h1, h2]
        · by_cases h4 : j < i
          · simp [tset, tget?, h1, h2, h3, h4]
          · simp [tset, tget?, h1, h2, h3, h4, ih]

theorem tget_tset (d : α) (t : Tbl α) (k j : Nat) (v : α) : tget d (tset t k v) j = if j = k then v else tget d t j := by
  by_cases h : j = k
  · subst h; simp [tget]
  · simp [tget, tget?_tset_other t k j v h, h]

@[simp] theorem tset_tset_same (t : Tbl α) (k : Nat) (u v : α) : tset (tset t k u) k v = tset t k v := by
  induction t with
  | nil => simp [tset]
  | cons e t ih =>
    obtain ⟨j, w⟩ := e
    by_cases h : j = k
    · simp [tset, h]
    · by_cases h2 : k < j
      · simp [tset, h, h2]
      · simp [tset, h, h2, ih]

/-! ### Byte memory -/

theorem memAbove_mono {a b : Nat} (h : a < b) : ∀ m : List Host.Cell, memAbove b m = true → memAbove a m = true
  | [], _ => rfl
  | (c, v) :: t, hm => by
    simp only [memAbove, Bool.and_eq_true, decide_eq_true_eq] at hm ⊢
    exact ⟨by omega, memAbove_mono h t hm.2⟩

theorem tget?_above {a : Nat} : ∀ m : List Host.Cell, memAbove a m = true → tget? m a = none
  | [], _ => rfl
  | (b, v) :: t, hm => by
    simp only [memAbove, Bool.and_eq_true, decide_eq_true_eq] at hm
    have h1 : b ≠ a := by omega
    simp [tget?, h1, hm.1]

theorem memAbove_memSet {a b : Nat} (v : Byte) (h : b < a) : ∀ m : List Host.Cell, memAbove b m = true → memAbove b (memSet m a v) = true
  | [], _ => by by_cases hv : v = memDefault <;> simp [memSet, hv, memAbove, h]
  | (c, u) :: t, hm => by
    have hm' := hm
    simp only [memAbove, Bool.and_eq_true, decide_eq_true_eq] at hm'
    unfold memSet
    by_cases h1 : c = a
    · by_cases hv : v = memDefault
      · simp [h1, hv, hm'.2]
      · simp [h1, hv, memAbove, h, hm'.2]
    · by_cases h2 : a < c
      · by_cases hv : v = memDefault
        · simp [h1, h2, hv, hm]
        · simp [h1, h2, hv, memAbove, h, hm']
      · simp [h1, h2, memAbove, hm'.1, memAbove_memSet v h t hm'.2]

/-- Writing a byte keeps memory's canonical form. -/
theorem memSet_wf (a : Nat) (v : Byte) : ∀ m : List Host.Cell, Memory.wf m = true → Memory.wf (memSet m a v) = true
  | [], _ => by by_cases hv : v = memDefault <;> simp [memSet, hv, Memory.wf, memAbove]
  | (b, u) :: t, hm => by
    have hm' := hm
    simp only [Memory.wf, Bool.and_eq_true, decide_eq_true_eq] at hm'
    unfold memSet
    by_cases h1 : b = a
    · subst h1
      by_cases hv : v = memDefault
      · simp [hv, hm'.2]
      · simp [hv, Memory.wf, hm'.1.2, hm'.2]
    · by_cases h2 : a < b
      · by_cases hv : v = memDefault
        · simp [h1, h2, hv, hm]
        · simp [h1, h2, hv, Memory.wf, memAbove, hm', memAbove_mono h2 t hm'.1.2]
      · have h3 : b < a := by omega
        simp [h1, h2, Memory.wf, hm'.1.1, memAbove_memSet v h3 t hm'.1.2, memSet_wf a v t hm'.2]

/-- A byte written is read back. -/
theorem memGet_memSet_same (a : Nat) (v : Byte) : ∀ m : List Host.Cell, Memory.wf m = true → memGet (memSet m a v) a = v
  | [], _ => by by_cases hv : v = memDefault <;> simp [memSet, hv, memGet, tget, tget?]
  | (b, u) :: t, hm => by
    have hm' := hm
    simp only [Memory.wf, Bool.and_eq_true, decide_eq_true_eq] at hm'
    unfold memSet
    by_cases h1 : b = a
    · subst h1
      by_cases hv : v = memDefault
      · simp [hv, memGet, tget, tget?_above t hm'.1.2]
      · simp [hv, memGet, tget, tget?]
    · by_cases h2 : a < b
      · by_cases hv : v = memDefault
        · simp [h1, h2, hv, memGet, tget, tget?]
        · simp [h1, h2, hv, memGet, tget, tget?]
      · have := memGet_memSet_same a v t hm'.2
        simpa [h1, h2, memGet, tget, tget?] using this

/-- Every other byte stays as it was. -/
theorem memGet_memSet_other (a b : Nat) (v : Byte) (h : b ≠ a) : ∀ m : List Host.Cell, Memory.wf m = true → memGet (memSet m a v) b = memGet m b
  | [], _ => by by_cases hv : v = memDefault <;> simp [memSet, hv, memGet, tget, tget?, Ne.symm h]
  | (c, u) :: t, hm => by
    have hm' := hm
    simp only [Memory.wf, Bool.and_eq_true, decide_eq_true_eq] at hm'
    unfold memSet
    by_cases h1 : c = a
    · subst h1
      by_cases hv : v = memDefault
      · have ht : b < c → tget? t b = none := fun hb => tget?_above t (memAbove_mono hb t hm'.1.2)
        by_cases hb : b < c
        · simp [hv, memGet, tget, tget?, Ne.symm h, hb, ht hb]
        · simp [hv, memGet, tget, tget?, Ne.symm h, hb]
      · simp [hv, memGet, tget, tget?, Ne.symm h]
    · by_cases h2 : a < c
      · by_cases hv : v = memDefault
        · simp [h1, h2, hv]
        · by_cases hb : b < a
          · have h4 : ¬ c = b := by omega
            have h5 : b < c := by omega
            simp [h1, h2, hv, memGet, tget, tget?, Ne.symm h, hb, h4, h5]
          · simp [h1, h2, hv, memGet, tget, tget?, Ne.symm h, hb]
      · have := memGet_memSet_other a b v h t hm'.2
        by_cases h3 : c = b
        · simp [h, h3 ▸ h2, h3, memGet, tget, tget?]
        · by_cases h4 : b < c
          · simp [h1, h2, h3, h4, memGet, tget, tget?]
          · simpa [h1, h2, h3, h4, memGet, tget, tget?] using this

/-- The memory that a step's writes leave is that of its bytes written one by one. -/
theorem settleWrites_fst (m : List Host.Cell) : ∀ ws : List (List Host.Cell), (settleWrites m ws).1 = ws.flatten.foldr (fun c m => memSet m c.1 c.2) m
  | [] => rfl
  | u :: t => by
    have ih := settleWrites_fst m t
    simp only [settleWrites, List.foldr_cons, List.flatten_cons, List.foldr_append] at ih ⊢
    rw [ih]

theorem foldr_memSet_wf {m : List Host.Cell} (h : Memory.wf m = true) : ∀ ws : List Host.Cell, Memory.wf (ws.foldr (fun c m => memSet m c.1 c.2) m) = true
  | [] => h
  | c :: t => memSet_wf c.1 c.2 _ (foldr_memSet_wf h t)

/-- The end of a step keeps the canonical form. -/
theorem commit_wf (s : State) (h : Memory.wf s.mem = true) : Memory.wf s.commit.mem = true := by
  show Memory.wf (settleWrites s.mem s.writes).1 = true
  rw [settleWrites_fst]
  exact foldr_memSet_wf h _

@[simp] theorem commit_writes (s : State) : s.commit.writes = [] := rfl
@[simp] theorem wr_mem (s : State) (pa : Nat) (v : Byte) : (s.wr pa v).mem = s.mem := rfl

/-- A step that has written nothing changes nothing more. -/
theorem commit_clean (s : State) (h : s.writes = []) : s.commit = s := by
  cases s
  simp only at h
  subst h
  simp [State.commit, State.unordered, settleWrites]

/-- After a step, memory reads as the step saw it at its end. -/
theorem memGet_commit (s : State) (h : Memory.wf s.mem = true) (a : Nat) : memGet s.commit.mem a = s.rd a := by
  have key : ∀ ws : List Host.Cell, memGet (ws.foldr (fun c m => memSet m c.1 c.2) s.mem) a = match ws.find? (fun c => c.1 = a) with
      | some c => c.2
      | none => memGet s.mem a := by
    intro ws
    induction ws with
    | nil => simp
    | cons c t ih =>
      by_cases hc : c.1 = a
      · subst hc; simpa using memGet_memSet_same c.1 c.2 _ (foldr_memSet_wf h t)
      · simpa [hc, memGet_memSet_other c.1 a c.2 (Ne.symm hc) _ (foldr_memSet_wf h t)] using ih
  show memGet (settleWrites s.mem s.writes).1 a = _
  rw [settleWrites_fst]
  exact key _

/-- After a step every byte reads as the step saw it at its end. -/
theorem rd_commit (s : State) (h : Memory.wf s.mem = true) (a : Nat) : s.commit.rd a = s.rd a := memGet_commit s h a

/-! ### Bytes within a step -/

/-- A byte just written reads as written, and every other byte as before. -/
theorem rd_wr (s : State) (pa a : Nat) (v : Byte) : (s.wr pa v).rd a = if a = pa then v else s.rd a := by
  by_cases h : pa = a
  · simp [State.rd, State.wr, h]
  · simp [State.rd, State.wr, h, Ne.symm h]

/-- A run of writes leaves every byte that none of them names. -/
theorem rd_wrs_other (a : Nat) : ∀ (es : List (Nat × Byte)) (s : State), (∀ e ∈ es, e.1 ≠ a) → (es.foldl (fun s e => s.wr e.1 e.2) s).rd a = s.rd a
  | [], _, _ => rfl
  | e :: t, s, h => by
    rw [List.foldl_cons, rd_wrs_other a t _ (fun x hx => h x (List.mem_cons_of_mem _ hx)), rd_wr]
    simp [Ne.symm (h e (List.mem_cons_self ..))]

/-- A run of writes to distinct bytes gives each its value. -/
theorem rd_wrs_same : ∀ (es : List (Nat × Byte)) (s : State), (es.map (fun e => e.1)).Nodup → ∀ e ∈ es, (es.foldl (fun s e => s.wr e.1 e.2) s).rd e.1 = e.2
  | [], _, _, e, he => by simp at he
  | x :: t, s, hn, e, he => by
    simp only [List.map_cons, List.nodup_cons] at hn
    rw [List.foldl_cons]
    rcases List.mem_cons.mp he with rfl | ht
    · rw [rd_wrs_other e.1 t _ (fun y hy hxy => hn.1 (List.mem_map.mpr ⟨y, hy, hxy⟩)), rd_wr]
      simp
    · exact rd_wrs_same t _ hn.2 e ht

/-- Writes of a step leave everything of the state but its list of writes. -/
theorem wrs_eq : ∀ (es : List (Nat × Byte)) (s : State), es.foldl (fun s e => s.wr e.1 e.2) s = { s with writes := (es.map (fun e => [e])).reverse ++ s.writes }
  | [], _ => rfl
  | e :: t, s => by
    rw [List.foldl_cons, wrs_eq t]
    simp [State.wr]

/-- Bytes written to checked pieces change no field but the writes. -/
theorem wrPieces_eq (s : State) (ps : List (Nat × Nat)) (bs : List Byte) :
    s.wrPieces ps bs = { s with writes := (((paList ps).zip bs).map (fun e => [e])).reverse ++ s.writes } := wrs_eq _ s

end Sys2Proof.Machine
end

