-- ==== Sys2Proof/Laws/State.lean ====
section
/-! SUPPORT. What each shared update of State leaves of every other field, and the fields that interrupts touch. -/

namespace Sys2Proof.Machine

@[simp] theorem State.setCrew_mem (s : State) (cid : Nat) (c : Crew) : (s.setCrew cid c).mem = s.mem := rfl
@[simp] theorem State.setCrew_writes (s : State) (cid : Nat) (c : Crew) : (s.setCrew cid c).writes = s.writes := rfl
@[simp] theorem State.setCrew_hist (s : State) (cid : Nat) (c : Crew) : (s.setCrew cid c).hist = s.hist := rfl
@[simp] theorem State.setCrew_smpSince (s : State) (cid : Nat) (c : Crew) : (s.setCrew cid c).smpSince = s.smpSince := rfl
@[simp] theorem State.setCrew_invals (s : State) (cid : Nat) (c : Crew) : (s.setCrew cid c).invals = s.invals := rfl
@[simp] theorem State.setCrew_oldRoots (s : State) (cid : Nat) (c : Crew) : (s.setCrew cid c).oldRoots = s.oldRoots := rfl
@[simp] theorem State.setCrew_icMark (s : State) (cid : Nat) (c : Crew) : (s.setCrew cid c).icMark = s.icMark := rfl
@[simp] theorem State.setCrew_poisoned (s : State) (cid : Nat) (c : Crew) : (s.setCrew cid c).poisoned = s.poisoned := rfl
@[simp] theorem State.setCrew_regs (s : State) (cid : Nat) (c : Crew) : (s.setCrew cid c).regs = s.regs := rfl
@[simp] theorem State.setCrew_msixMask (s : State) (cid : Nat) (c : Crew) : (s.setCrew cid c).msixMask = s.msixMask := rfl
@[simp] theorem State.setCrew_pba (s : State) (cid : Nat) (c : Crew) : (s.setCrew cid c).pba = s.pba := rfl
@[simp] theorem State.setCrew_msixTable (s : State) (cid : Nat) (c : Crew) : (s.setCrew cid c).msixTable = s.msixTable := rfl
@[simp] theorem State.setCrew_gens (s : State) (cid : Nat) (c : Crew) : (s.setCrew cid c).gens = s.gens := rfl
@[simp] theorem State.setCrew_wgs (s : State) (cid : Nat) (c : Crew) : (s.setCrew cid c).wgs = s.wgs := rfl
@[simp] theorem State.setCrew_gangs (s : State) (cid : Nat) (c : Crew) : (s.setCrew cid c).gangs = s.gangs := rfl
@[simp] theorem State.setCrew_launches (s : State) (cid : Nat) (c : Crew) : (s.setCrew cid c).launches = s.launches := rfl
@[simp] theorem State.setCrew_nextHandle (s : State) (cid : Nat) (c : Crew) : (s.setCrew cid c).nextHandle = s.nextHandle := rfl
@[simp] theorem State.setCrew_nextOrder (s : State) (cid : Nat) (c : Crew) : (s.setCrew cid c).nextOrder = s.nextOrder := rfl
@[simp] theorem State.setCrew_batches (s : State) (cid : Nat) (c : Crew) : (s.setCrew cid c).batches = s.batches := rfl
@[simp] theorem State.setCrew_copies (s : State) (cid : Nat) (c : Crew) : (s.setCrew cid c).copies = s.copies := rfl
@[simp] theorem State.setCrew_cmds (s : State) (cid : Nat) (c : Crew) : (s.setCrew cid c).cmds = s.cmds := rfl
@[simp] theorem State.setCrew_scales (s : State) (cid : Nat) (c : Crew) : (s.setCrew cid c).scales = s.scales := rfl
@[simp] theorem State.setCrew_scinvBusy (s : State) (cid : Nat) (c : Crew) : (s.setCrew cid c).scinvBusy = s.scinvBusy := rfl
@[simp] theorem State.setCrew_rounds (s : State) (cid : Nat) (c : Crew) : (s.setCrew cid c).rounds = s.rounds := rfl
@[simp] theorem State.setCrew_deficits (s : State) (cid : Nat) (c : Crew) : (s.setCrew cid c).deficits = s.deficits := rfl
@[simp] theorem State.setCrew_heldHeads (s : State) (cid : Nat) (c : Crew) : (s.setCrew cid c).heldHeads = s.heldHeads := rfl
@[simp] theorem State.setCrew_gateFailed (s : State) (cid : Nat) (c : Crew) : (s.setCrew cid c).gateFailed = s.gateFailed := rfl
@[simp] theorem State.setCrew_gateMet (s : State) (cid : Nat) (c : Crew) : (s.setCrew cid c).gateMet = s.gateMet := rfl
@[simp] theorem State.setCrew_freeing (s : State) (cid : Nat) (c : Crew) : (s.setCrew cid c).freeing = s.freeing := rfl
@[simp] theorem State.setCrew_dWaits (s : State) (cid : Nat) (c : Crew) : (s.setCrew cid c).dWaits = s.dWaits := rfl
@[simp] theorem State.setCrew_reserved (s : State) (cid : Nat) (c : Crew) : (s.setCrew cid c).reserved = s.reserved := rfl
@[simp] theorem State.setCrew_pools (s : State) (cid : Nat) (c : Crew) : (s.setCrew cid c).pools = s.pools := rfl
@[simp] theorem State.setCrew_nodes (s : State) (cid : Nat) (c : Crew) : (s.setCrew cid c).nodes = s.nodes := rfl
@[simp] theorem State.setCrew_hwqs (s : State) (cid : Nat) (c : Crew) : (s.setCrew cid c).hwqs = s.hwqs := rfl
@[simp] theorem State.setCrew_rx (s : State) (cid : Nat) (c : Crew) : (s.setCrew cid c).rx = s.rx := rfl
@[simp] theorem State.setCrew_tx (s : State) (cid : Nat) (c : Crew) : (s.setCrew cid c).tx = s.tx := rfl
@[simp] theorem State.setCrew_rcos (s : State) (cid : Nat) (c : Crew) : (s.setCrew cid c).rcos = s.rcos := rfl
@[simp] theorem State.setCrew_peal (s : State) (cid : Nat) (c : Crew) : (s.setCrew cid c).peal = s.peal := rfl
@[simp] theorem State.setCrew_earlyArrivals (s : State) (cid : Nat) (c : Crew) : (s.setCrew cid c).earlyArrivals = s.earlyArrivals := rfl
@[simp] theorem State.setCrew_pairs (s : State) (cid : Nat) (c : Crew) : (s.setCrew cid c).pairs = s.pairs := rfl
@[simp] theorem State.setCrew_tnow (s : State) (cid : Nat) (c : Crew) : (s.setCrew cid c).tnow = s.tnow := rfl
@[simp] theorem State.setCrew_tfrac (s : State) (cid : Nat) (c : Crew) : (s.setCrew cid c).tfrac = s.tfrac := rfl
@[simp] theorem State.setCrew_started (s : State) (cid : Nat) (c : Crew) : (s.setCrew cid c).started = s.started := rfl
@[simp] theorem State.setCrew_cycle (s : State) (cid : Nat) (c : Crew) : (s.setCrew cid c).cycle = s.cycle := rfl
@[simp] theorem State.setCrew_ptp (s : State) (cid : Nat) (c : Crew) : (s.setCrew cid c).ptp = s.ptp := rfl
@[simp] theorem State.setCrew_trapBuf (s : State) (cid : Nat) (c : Crew) : (s.setCrew cid c).trapBuf = s.trapBuf := rfl
@[simp] theorem State.setCrew_seqs (s : State) (cid : Nat) (c : Crew) : (s.setCrew cid c).seqs = s.seqs := rfl
@[simp] theorem State.setCrew_trapStalled (s : State) (cid : Nat) (c : Crew) : (s.setCrew cid c).trapStalled = s.trapStalled := rfl
@[simp] theorem State.setCrew_waiting (s : State) (cid : Nat) (c : Crew) : (s.setCrew cid c).waiting = s.waiting := rfl
@[simp] theorem State.setCrew_emerg (s : State) (cid : Nat) (c : Crew) : (s.setCrew cid c).emerg = s.emerg := rfl
@[simp] theorem State.setCrew_emergQueue (s : State) (cid : Nat) (c : Crew) : (s.setCrew cid c).emergQueue = s.emergQueue := rfl
@[simp] theorem State.setCrew_dbg (s : State) (cid : Nat) (c : Crew) : (s.setCrew cid c).dbg = s.dbg := rfl
@[simp] theorem State.setCrew_counters (s : State) (cid : Nat) (c : Crew) : (s.setCrew cid c).counters = s.counters := rfl
@[simp] theorem State.setCrew_npre (s : State) (cid : Nat) (c : Crew) : (s.setCrew cid c).npre = s.npre := rfl
@[simp] theorem State.setCrew_stamps (s : State) (cid : Nat) (c : Crew) : (s.setCrew cid c).stamps = s.stamps := rfl
@[simp] theorem State.setCrew_reeve (s : State) (cid : Nat) (c : Crew) : (s.setCrew cid c).reeve = s.reeve := rfl
@[simp] theorem State.setCrew_agenda (s : State) (cid : Nat) (c : Crew) : (s.setCrew cid c).agenda = s.agenda := rfl
@[simp] theorem State.setCrew_rr (s : State) (cid : Nat) (c : Crew) : (s.setCrew cid c).rr = s.rr := rfl
@[simp] theorem State.setCrew_icLines (s : State) (cid : Nat) (c : Crew) : (s.setCrew cid c).icLines = s.icLines := rfl
@[simp] theorem State.setCrew_exited (s : State) (cid : Nat) (c : Crew) : (s.setCrew cid c).exited = s.exited := rfl
@[simp] theorem State.setCrew_noLink (s : State) (cid : Nat) (c : Crew) : (s.setCrew cid c).noLink = s.noLink := rfl
@[simp] theorem State.setCrew_tNext (s : State) (cid : Nat) (c : Crew) : (s.setCrew cid c).tNext = s.tNext := rfl
@[simp] theorem State.setCrew_kilnNext (s : State) (cid : Nat) (c : Crew) : (s.setCrew cid c).kilnNext = s.kilnNext := rfl
@[simp] theorem State.setCrew_tags (s : State) (cid : Nat) (c : Crew) : (s.setCrew cid c).tags = s.tags := rfl
@[simp] theorem State.setCrew_evs (s : State) (cid : Nat) (c : Crew) : (s.setCrew cid c).evs = s.evs := rfl
@[simp] theorem State.setCrew_orders (s : State) (cid : Nat) (c : Crew) : (s.setCrew cid c).orders = s.orders := rfl
@[simp] theorem State.setCrew_scs (s : State) (cid : Nat) (c : Crew) : (s.setCrew cid c).scs = s.scs := rfl
@[simp] theorem State.setCrew_joins (s : State) (cid : Nat) (c : Crew) : (s.setCrew cid c).joins = s.joins := rfl
@[simp] theorem State.setCrew_bells (s : State) (cid : Nat) (c : Crew) : (s.setCrew cid c).bells = s.bells := rfl
@[simp] theorem State.setCrew_focus (s : State) (cid : Nat) (c : Crew) : (s.setCrew cid c).focus = s.focus := rfl
@[simp] theorem State.setCrew_oracle (s : State) (cid : Nat) (c : Crew) : (s.setCrew cid c).oracle = s.oracle := rfl
@[simp] theorem State.setCrew_out (s : State) (cid : Nat) (c : Crew) : (s.setCrew cid c).out = s.out := rfl

@[simp] theorem State.modCrew_mem (s : State) (cid : Nat) (f : Crew → Crew) : (s.modCrew cid f).mem = s.mem := rfl
@[simp] theorem State.modCrew_writes (s : State) (cid : Nat) (f : Crew → Crew) : (s.modCrew cid f).writes = s.writes := rfl
@[simp] theorem State.modCrew_hist (s : State) (cid : Nat) (f : Crew → Crew) : (s.modCrew cid f).hist = s.hist := rfl
@[simp] theorem State.modCrew_smpSince (s : State) (cid : Nat) (f : Crew → Crew) : (s.modCrew cid f).smpSince = s.smpSince := rfl
@[simp] theorem State.modCrew_invals (s : State) (cid : Nat) (f : Crew → Crew) : (s.modCrew cid f).invals = s.invals := rfl
@[simp] theorem State.modCrew_oldRoots (s : State) (cid : Nat) (f : Crew → Crew) : (s.modCrew cid f).oldRoots = s.oldRoots := rfl
@[simp] theorem State.modCrew_icMark (s : State) (cid : Nat) (f : Crew → Crew) : (s.modCrew cid f).icMark = s.icMark := rfl
@[simp] theorem State.modCrew_poisoned (s : State) (cid : Nat) (f : Crew → Crew) : (s.modCrew cid f).poisoned = s.poisoned := rfl
@[simp] theorem State.modCrew_regs (s : State) (cid : Nat) (f : Crew → Crew) : (s.modCrew cid f).regs = s.regs := rfl
@[simp] theorem State.modCrew_msixMask (s : State) (cid : Nat) (f : Crew → Crew) : (s.modCrew cid f).msixMask = s.msixMask := rfl
@[simp] theorem State.modCrew_pba (s : State) (cid : Nat) (f : Crew → Crew) : (s.modCrew cid f).pba = s.pba := rfl
@[simp] theorem State.modCrew_msixTable (s : State) (cid : Nat) (f : Crew → Crew) : (s.modCrew cid f).msixTable = s.msixTable := rfl
@[simp] theorem State.modCrew_gens (s : State) (cid : Nat) (f : Crew → Crew) : (s.modCrew cid f).gens = s.gens := rfl
@[simp] theorem State.modCrew_wgs (s : State) (cid : Nat) (f : Crew → Crew) : (s.modCrew cid f).wgs = s.wgs := rfl
@[simp] theorem State.modCrew_gangs (s : State) (cid : Nat) (f : Crew → Crew) : (s.modCrew cid f).gangs = s.gangs := rfl
@[simp] theorem State.modCrew_launches (s : State) (cid : Nat) (f : Crew → Crew) : (s.modCrew cid f).launches = s.launches := rfl
@[simp] theorem State.modCrew_nextHandle (s : State) (cid : Nat) (f : Crew → Crew) : (s.modCrew cid f).nextHandle = s.nextHandle := rfl
@[simp] theorem State.modCrew_nextOrder (s : State) (cid : Nat) (f : Crew → Crew) : (s.modCrew cid f).nextOrder = s.nextOrder := rfl
@[simp] theorem State.modCrew_batches (s : State) (cid : Nat) (f : Crew → Crew) : (s.modCrew cid f).batches = s.batches := rfl
@[simp] theorem State.modCrew_copies (s : State) (cid : Nat) (f : Crew → Crew) : (s.modCrew cid f).copies = s.copies := rfl
@[simp] theorem State.modCrew_cmds (s : State) (cid : Nat) (f : Crew → Crew) : (s.modCrew cid f).cmds = s.cmds := rfl
@[simp] theorem State.modCrew_scales (s : State) (cid : Nat) (f : Crew → Crew) : (s.modCrew cid f).scales = s.scales := rfl
@[simp] theorem State.modCrew_scinvBusy (s : State) (cid : Nat) (f : Crew → Crew) : (s.modCrew cid f).scinvBusy = s.scinvBusy := rfl
@[simp] theorem State.modCrew_rounds (s : State) (cid : Nat) (f : Crew → Crew) : (s.modCrew cid f).rounds = s.rounds := rfl
@[simp] theorem State.modCrew_deficits (s : State) (cid : Nat) (f : Crew → Crew) : (s.modCrew cid f).deficits = s.deficits := rfl
@[simp] theorem State.modCrew_heldHeads (s : State) (cid : Nat) (f : Crew → Crew) : (s.modCrew cid f).heldHeads = s.heldHeads := rfl
@[simp] theorem State.modCrew_gateFailed (s : State) (cid : Nat) (f : Crew → Crew) : (s.modCrew cid f).gateFailed = s.gateFailed := rfl
@[simp] theorem State.modCrew_gateMet (s : State) (cid : Nat) (f : Crew → Crew) : (s.modCrew cid f).gateMet = s.gateMet := rfl
@[simp] theorem State.modCrew_freeing (s : State) (cid : Nat) (f : Crew → Crew) : (s.modCrew cid f).freeing = s.freeing := rfl
@[simp] theorem State.modCrew_dWaits (s : State) (cid : Nat) (f : Crew → Crew) : (s.modCrew cid f).dWaits = s.dWaits := rfl
@[simp] theorem State.modCrew_reserved (s : State) (cid : Nat) (f : Crew → Crew) : (s.modCrew cid f).reserved = s.reserved := rfl
@[simp] theorem State.modCrew_pools (s : State) (cid : Nat) (f : Crew → Crew) : (s.modCrew cid f).pools = s.pools := rfl
@[simp] theorem State.modCrew_nodes (s : State) (cid : Nat) (f : Crew → Crew) : (s.modCrew cid f).nodes = s.nodes := rfl
@[simp] theorem State.modCrew_hwqs (s : State) (cid : Nat) (f : Crew → Crew) : (s.modCrew cid f).hwqs = s.hwqs := rfl
@[simp] theorem State.modCrew_rx (s : State) (cid : Nat) (f : Crew → Crew) : (s.modCrew cid f).rx = s.rx := rfl
@[simp] theorem State.modCrew_tx (s : State) (cid : Nat) (f : Crew → Crew) : (s.modCrew cid f).tx = s.tx := rfl
@[simp] theorem State.modCrew_rcos (s : State) (cid : Nat) (f : Crew → Crew) : (s.modCrew cid f).rcos = s.rcos := rfl
@[simp] theorem State.modCrew_peal (s : State) (cid : Nat) (f : Crew → Crew) : (s.modCrew cid f).peal = s.peal := rfl
@[simp] theorem State.modCrew_earlyArrivals (s : State) (cid : Nat) (f : Crew → Crew) : (s.modCrew cid f).earlyArrivals = s.earlyArrivals := rfl
@[simp] theorem State.modCrew_pairs (s : State) (cid : Nat) (f : Crew → Crew) : (s.modCrew cid f).pairs = s.pairs := rfl
@[simp] theorem State.modCrew_tnow (s : State) (cid : Nat) (f : Crew → Crew) : (s.modCrew cid f).tnow = s.tnow := rfl
@[simp] theorem State.modCrew_tfrac (s : State) (cid : Nat) (f : Crew → Crew) : (s.modCrew cid f).tfrac = s.tfrac := rfl
@[simp] theorem State.modCrew_started (s : State) (cid : Nat) (f : Crew → Crew) : (s.modCrew cid f).started = s.started := rfl
@[simp] theorem State.modCrew_cycle (s : State) (cid : Nat) (f : Crew → Crew) : (s.modCrew cid f).cycle = s.cycle := rfl
@[simp] theorem State.modCrew_ptp (s : State) (cid : Nat) (f : Crew → Crew) : (s.modCrew cid f).ptp = s.ptp := rfl
@[simp] theorem State.modCrew_trapBuf (s : State) (cid : Nat) (f : Crew → Crew) : (s.modCrew cid f).trapBuf = s.trapBuf := rfl
@[simp] theorem State.modCrew_seqs (s : State) (cid : Nat) (f : Crew → Crew) : (s.modCrew cid f).seqs = s.seqs := rfl
@[simp] theorem State.modCrew_trapStalled (s : State) (cid : Nat) (f : Crew → Crew) : (s.modCrew cid f).trapStalled = s.trapStalled := rfl
@[simp] theorem State.modCrew_waiting (s : State) (cid : Nat) (f : Crew → Crew) : (s.modCrew cid f).waiting = s.waiting := rfl
@[simp] theorem State.modCrew_emerg (s : State) (cid : Nat) (f : Crew → Crew) : (s.modCrew cid f).emerg = s.emerg := rfl
@[simp] theorem State.modCrew_emergQueue (s : State) (cid : Nat) (f : Crew → Crew) : (s.modCrew cid f).emergQueue = s.emergQueue := rfl
@[simp] theorem State.modCrew_dbg (s : State) (cid : Nat) (f : Crew → Crew) : (s.modCrew cid f).dbg = s.dbg := rfl
@[simp] theorem State.modCrew_counters (s : State) (cid : Nat) (f : Crew → Crew) : (s.modCrew cid f).counters = s.counters := rfl
@[simp] theorem State.modCrew_npre (s : State) (cid : Nat) (f : Crew → Crew) : (s.modCrew cid f).npre = s.npre := rfl
@[simp] theorem State.modCrew_stamps (s : State) (cid : Nat) (f : Crew → Crew) : (s.modCrew cid f).stamps = s.stamps := rfl
@[simp] theorem State.modCrew_reeve (s : State) (cid : Nat) (f : Crew → Crew) : (s.modCrew cid f).reeve = s.reeve := rfl
@[simp] theorem State.modCrew_agenda (s : State) (cid : Nat) (f : Crew → Crew) : (s.modCrew cid f).agenda = s.agenda := rfl
@[simp] theorem State.modCrew_rr (s : State) (cid : Nat) (f : Crew → Crew) : (s.modCrew cid f).rr = s.rr := rfl
@[simp] theorem State.modCrew_icLines (s : State) (cid : Nat) (f : Crew → Crew) : (s.modCrew cid f).icLines = s.icLines := rfl
@[simp] theorem State.modCrew_exited (s : State) (cid : Nat) (f : Crew → Crew) : (s.modCrew cid f).exited = s.exited := rfl
@[simp] theorem State.modCrew_noLink (s : State) (cid : Nat) (f : Crew → Crew) : (s.modCrew cid f).noLink = s.noLink := rfl
@[simp] theorem State.modCrew_tNext (s : State) (cid : Nat) (f : Crew → Crew) : (s.modCrew cid f).tNext = s.tNext := rfl
@[simp] theorem State.modCrew_kilnNext (s : State) (cid : Nat) (f : Crew → Crew) : (s.modCrew cid f).kilnNext = s.kilnNext := rfl
@[simp] theorem State.modCrew_tags (s : State) (cid : Nat) (f : Crew → Crew) : (s.modCrew cid f).tags = s.tags := rfl
@[simp] theorem State.modCrew_evs (s : State) (cid : Nat) (f : Crew → Crew) : (s.modCrew cid f).evs = s.evs := rfl
@[simp] theorem State.modCrew_orders (s : State) (cid : Nat) (f : Crew → Crew) : (s.modCrew cid f).orders = s.orders := rfl
@[simp] theorem State.modCrew_scs (s : State) (cid : Nat) (f : Crew → Crew) : (s.modCrew cid f).scs = s.scs := rfl
@[simp] theorem State.modCrew_joins (s : State) (cid : Nat) (f : Crew → Crew) : (s.modCrew cid f).joins = s.joins := rfl
@[simp] theorem State.modCrew_bells (s : State) (cid : Nat) (f : Crew → Crew) : (s.modCrew cid f).bells = s.bells := rfl
@[simp] theorem State.modCrew_focus (s : State) (cid : Nat) (f : Crew → Crew) : (s.modCrew cid f).focus = s.focus := rfl
@[simp] theorem State.modCrew_oracle (s : State) (cid : Nat) (f : Crew → Crew) : (s.modCrew cid f).oracle = s.oracle := rfl
@[simp] theorem State.modCrew_out (s : State) (cid : Nat) (f : Crew → Crew) : (s.modCrew cid f).out = s.out := rfl

@[simp] theorem State.setWg_mem (s : State) (g : Nat) (w : Workgroup) : (s.setWg g w).mem = s.mem := rfl
@[simp] theorem State.setWg_writes (s : State) (g : Nat) (w : Workgroup) : (s.setWg g w).writes = s.writes := rfl
@[simp] theorem State.setWg_hist (s : State) (g : Nat) (w : Workgroup) : (s.setWg g w).hist = s.hist := rfl
@[simp] theorem State.setWg_smpSince (s : State) (g : Nat) (w : Workgroup) : (s.setWg g w).smpSince = s.smpSince := rfl
@[simp] theorem State.setWg_invals (s : State) (g : Nat) (w : Workgroup) : (s.setWg g w).invals = s.invals := rfl
@[simp] theorem State.setWg_oldRoots (s : State) (g : Nat) (w : Workgroup) : (s.setWg g w).oldRoots = s.oldRoots := rfl
@[simp] theorem State.setWg_icMark (s : State) (g : Nat) (w : Workgroup) : (s.setWg g w).icMark = s.icMark := rfl
@[simp] theorem State.setWg_poisoned (s : State) (g : Nat) (w : Workgroup) : (s.setWg g w).poisoned = s.poisoned := rfl
@[simp] theorem State.setWg_regs (s : State) (g : Nat) (w : Workgroup) : (s.setWg g w).regs = s.regs := rfl
@[simp] theorem State.setWg_msixMask (s : State) (g : Nat) (w : Workgroup) : (s.setWg g w).msixMask = s.msixMask := rfl
@[simp] theorem State.setWg_pba (s : State) (g : Nat) (w : Workgroup) : (s.setWg g w).pba = s.pba := rfl
@[simp] theorem State.setWg_msixTable (s : State) (g : Nat) (w : Workgroup) : (s.setWg g w).msixTable = s.msixTable := rfl
@[simp] theorem State.setWg_crews (s : State) (g : Nat) (w : Workgroup) : (s.setWg g w).crews = s.crews := rfl
@[simp] theorem State.setWg_gens (s : State) (g : Nat) (w : Workgroup) : (s.setWg g w).gens = s.gens := rfl
@[simp] theorem State.setWg_gangs (s : State) (g : Nat) (w : Workgroup) : (s.setWg g w).gangs = s.gangs := rfl
@[simp] theorem State.setWg_launches (s : State) (g : Nat) (w : Workgroup) : (s.setWg g w).launches = s.launches := rfl
@[simp] theorem State.setWg_nextHandle (s : State) (g : Nat) (w : Workgroup) : (s.setWg g w).nextHandle = s.nextHandle := rfl
@[simp] theorem State.setWg_nextOrder (s : State) (g : Nat) (w : Workgroup) : (s.setWg g w).nextOrder = s.nextOrder := rfl
@[simp] theorem State.setWg_batches (s : State) (g : Nat) (w : Workgroup) : (s.setWg g w).batches = s.batches := rfl
@[simp] theorem State.setWg_copies (s : State) (g : Nat) (w : Workgroup) : (s.setWg g w).copies = s.copies := rfl
@[simp] theorem State.setWg_cmds (s : State) (g : Nat) (w : Workgroup) : (s.setWg g w).cmds = s.cmds := rfl
@[simp] theorem State.setWg_scales (s : State) (g : Nat) (w : Workgroup) : (s.setWg g w).scales = s.scales := rfl
@[simp] theorem State.setWg_scinvBusy (s : State) (g : Nat) (w : Workgroup) : (s.setWg g w).scinvBusy = s.scinvBusy := rfl
@[simp] theorem State.setWg_rounds (s : State) (g : Nat) (w : Workgroup) : (s.setWg g w).rounds = s.rounds := rfl
@[simp] theorem State.setWg_deficits (s : State) (g : Nat) (w : Workgroup) : (s.setWg g w).deficits = s.deficits := rfl
@[simp] theorem State.setWg_heldHeads (s : State) (g : Nat) (w : Workgroup) : (s.setWg g w).heldHeads = s.heldHeads := rfl
@[simp] theorem State.setWg_gateFailed (s : State) (g : Nat) (w : Workgroup) : (s.setWg g w).gateFailed = s.gateFailed := rfl
@[simp] theorem State.setWg_gateMet (s : State) (g : Nat) (w : Workgroup) : (s.setWg g w).gateMet = s.gateMet := rfl
@[simp] theorem State.setWg_freeing (s : State) (g : Nat) (w : Workgroup) : (s.setWg g w).freeing = s.freeing := rfl
@[simp] theorem State.setWg_dWaits (s : State) (g : Nat) (w : Workgroup) : (s.setWg g w).dWaits = s.dWaits := rfl
@[simp] theorem State.setWg_reserved (s : State) (g : Nat) (w : Workgroup) : (s.setWg g w).reserved = s.reserved := rfl
@[simp] theorem State.setWg_pools (s : State) (g : Nat) (w : Workgroup) : (s.setWg g w).pools = s.pools := rfl
@[simp] theorem State.setWg_nodes (s : State) (g : Nat) (w : Workgroup) : (s.setWg g w).nodes = s.nodes := rfl
@[simp] theorem State.setWg_hwqs (s : State) (g : Nat) (w : Workgroup) : (s.setWg g w).hwqs = s.hwqs := rfl
@[simp] theorem State.setWg_rx (s : State) (g : Nat) (w : Workgroup) : (s.setWg g w).rx = s.rx := rfl
@[simp] theorem State.setWg_tx (s : State) (g : Nat) (w : Workgroup) : (s.setWg g w).tx = s.tx := rfl
@[simp] theorem State.setWg_rcos (s : State) (g : Nat) (w : Workgroup) : (s.setWg g w).rcos = s.rcos := rfl
@[simp] theorem State.setWg_peal (s : State) (g : Nat) (w : Workgroup) : (s.setWg g w).peal = s.peal := rfl
@[simp] theorem State.setWg_earlyArrivals (s : State) (g : Nat) (w : Workgroup) : (s.setWg g w).earlyArrivals = s.earlyArrivals := rfl
@[simp] theorem State.setWg_pairs (s : State) (g : Nat) (w : Workgroup) : (s.setWg g w).pairs = s.pairs := rfl
@[simp] theorem State.setWg_tnow (s : State) (g : Nat) (w : Workgroup) : (s.setWg g w).tnow = s.tnow := rfl
@[simp] theorem State.setWg_tfrac (s : State) (g : Nat) (w : Workgroup) : (s.setWg g w).tfrac = s.tfrac := rfl
@[simp] theorem State.setWg_started (s : State) (g : Nat) (w : Workgroup) : (s.setWg g w).started = s.started := rfl
@[simp] theorem State.setWg_cycle (s : State) (g : Nat) (w : Workgroup) : (s.setWg g w).cycle = s.cycle := rfl
@[simp] theorem State.setWg_ptp (s : State) (g : Nat) (w : Workgroup) : (s.setWg g w).ptp = s.ptp := rfl
@[simp] theorem State.setWg_trapBuf (s : State) (g : Nat) (w : Workgroup) : (s.setWg g w).trapBuf = s.trapBuf := rfl
@[simp] theorem State.setWg_seqs (s : State) (g : Nat) (w : Workgroup) : (s.setWg g w).seqs = s.seqs := rfl
@[simp] theorem State.setWg_trapStalled (s : State) (g : Nat) (w : Workgroup) : (s.setWg g w).trapStalled = s.trapStalled := rfl
@[simp] theorem State.setWg_waiting (s : State) (g : Nat) (w : Workgroup) : (s.setWg g w).waiting = s.waiting := rfl
@[simp] theorem State.setWg_emerg (s : State) (g : Nat) (w : Workgroup) : (s.setWg g w).emerg = s.emerg := rfl
@[simp] theorem State.setWg_emergQueue (s : State) (g : Nat) (w : Workgroup) : (s.setWg g w).emergQueue = s.emergQueue := rfl
@[simp] theorem State.setWg_dbg (s : State) (g : Nat) (w : Workgroup) : (s.setWg g w).dbg = s.dbg := rfl
@[simp] theorem State.setWg_counters (s : State) (g : Nat) (w : Workgroup) : (s.setWg g w).counters = s.counters := rfl
@[simp] theorem State.setWg_npre (s : State) (g : Nat) (w : Workgroup) : (s.setWg g w).npre = s.npre := rfl
@[simp] theorem State.setWg_stamps (s : State) (g : Nat) (w : Workgroup) : (s.setWg g w).stamps = s.stamps := rfl
@[simp] theorem State.setWg_reeve (s : State) (g : Nat) (w : Workgroup) : (s.setWg g w).reeve = s.reeve := rfl
@[simp] theorem State.setWg_agenda (s : State) (g : Nat) (w : Workgroup) : (s.setWg g w).agenda = s.agenda := rfl
@[simp] theorem State.setWg_rr (s : State) (g : Nat) (w : Workgroup) : (s.setWg g w).rr = s.rr := rfl
@[simp] theorem State.setWg_icLines (s : State) (g : Nat) (w : Workgroup) : (s.setWg g w).icLines = s.icLines := rfl
@[simp] theorem State.setWg_exited (s : State) (g : Nat) (w : Workgroup) : (s.setWg g w).exited = s.exited := rfl
@[simp] theorem State.setWg_noLink (s : State) (g : Nat) (w : Workgroup) : (s.setWg g w).noLink = s.noLink := rfl
@[simp] theorem State.setWg_tNext (s : State) (g : Nat) (w : Workgroup) : (s.setWg g w).tNext = s.tNext := rfl
@[simp] theorem State.setWg_kilnNext (s : State) (g : Nat) (w : Workgroup) : (s.setWg g w).kilnNext = s.kilnNext := rfl
@[simp] theorem State.setWg_tags (s : State) (g : Nat) (w : Workgroup) : (s.setWg g w).tags = s.tags := rfl
@[simp] theorem State.setWg_evs (s : State) (g : Nat) (w : Workgroup) : (s.setWg g w).evs = s.evs := rfl
@[simp] theorem State.setWg_orders (s : State) (g : Nat) (w : Workgroup) : (s.setWg g w).orders = s.orders := rfl
@[simp] theorem State.setWg_scs (s : State) (g : Nat) (w : Workgroup) : (s.setWg g w).scs = s.scs := rfl
@[simp] theorem State.setWg_joins (s : State) (g : Nat) (w : Workgroup) : (s.setWg g w).joins = s.joins := rfl
@[simp] theorem State.setWg_bells (s : State) (g : Nat) (w : Workgroup) : (s.setWg g w).bells = s.bells := rfl
@[simp] theorem State.setWg_focus (s : State) (g : Nat) (w : Workgroup) : (s.setWg g w).focus = s.focus := rfl
@[simp] theorem State.setWg_oracle (s : State) (g : Nat) (w : Workgroup) : (s.setWg g w).oracle = s.oracle := rfl
@[simp] theorem State.setWg_out (s : State) (g : Nat) (w : Workgroup) : (s.setWg g w).out = s.out := rfl

@[simp] theorem State.modWg_mem (s : State) (g : Nat) (f : Workgroup → Workgroup) : (s.modWg g f).mem = s.mem := rfl
@[simp] theorem State.modWg_writes (s : State) (g : Nat) (f : Workgroup → Workgroup) : (s.modWg g f).writes = s.writes := rfl
@[simp] theorem State.modWg_hist (s : State) (g : Nat) (f : Workgroup → Workgroup) : (s.modWg g f).hist = s.hist := rfl
@[simp] theorem State.modWg_smpSince (s : State) (g : Nat) (f : Workgroup → Workgroup) : (s.modWg g f).smpSince = s.smpSince := rfl
@[simp] theorem State.modWg_invals (s : State) (g : Nat) (f : Workgroup → Workgroup) : (s.modWg g f).invals = s.invals := rfl
@[simp] theorem State.modWg_oldRoots (s : State) (g : Nat) (f : Workgroup → Workgroup) : (s.modWg g f).oldRoots = s.oldRoots := rfl
@[simp] theorem State.modWg_icMark (s : State) (g : Nat) (f : Workgroup → Workgroup) : (s.modWg g f).icMark = s.icMark := rfl
@[simp] theorem State.modWg_poisoned (s : State) (g : Nat) (f : Workgroup → Workgroup) : (s.modWg g f).poisoned = s.poisoned := rfl
@[simp] theorem State.modWg_regs (s : State) (g : Nat) (f : Workgroup → Workgroup) : (s.modWg g f).regs = s.regs := rfl
@[simp] theorem State.modWg_msixMask (s : State) (g : Nat) (f : Workgroup → Workgroup) : (s.modWg g f).msixMask = s.msixMask := rfl
@[simp] theorem State.modWg_pba (s : State) (g : Nat) (f : Workgroup → Workgroup) : (s.modWg g f).pba = s.pba := rfl
@[simp] theorem State.modWg_msixTable (s : State) (g : Nat) (f : Workgroup → Workgroup) : (s.modWg g f).msixTable = s.msixTable := rfl
@[simp] theorem State.modWg_crews (s : State) (g : Nat) (f : Workgroup → Workgroup) : (s.modWg g f).crews = s.crews := rfl
@[simp] theorem State.modWg_gens (s : State) (g : Nat) (f : Workgroup → Workgroup) : (s.modWg g f).gens = s.gens := rfl
@[simp] theorem State.modWg_gangs (s : State) (g : Nat) (f : Workgroup → Workgroup) : (s.modWg g f).gangs = s.gangs := rfl
@[simp] theorem State.modWg_launches (s : State) (g : Nat) (f : Workgroup → Workgroup) : (s.modWg g f).launches = s.launches := rfl
@[simp] theorem State.modWg_nextHandle (s : State) (g : Nat) (f : Workgroup → Workgroup) : (s.modWg g f).nextHandle = s.nextHandle := rfl
@[simp] theorem State.modWg_nextOrder (s : State) (g : Nat) (f : Workgroup → Workgroup) : (s.modWg g f).nextOrder = s.nextOrder := rfl
@[simp] theorem State.modWg_batches (s : State) (g : Nat) (f : Workgroup → Workgroup) : (s.modWg g f).batches = s.batches := rfl
@[simp] theorem State.modWg_copies (s : State) (g : Nat) (f : Workgroup → Workgroup) : (s.modWg g f).copies = s.copies := rfl
@[simp] theorem State.modWg_cmds (s : State) (g : Nat) (f : Workgroup → Workgroup) : (s.modWg g f).cmds = s.cmds := rfl
@[simp] theorem State.modWg_scales (s : State) (g : Nat) (f : Workgroup → Workgroup) : (s.modWg g f).scales = s.scales := rfl
@[simp] theorem State.modWg_scinvBusy (s : State) (g : Nat) (f : Workgroup → Workgroup) : (s.modWg g f).scinvBusy = s.scinvBusy := rfl
@[simp] theorem State.modWg_rounds (s : State) (g : Nat) (f : Workgroup → Workgroup) : (s.modWg g f).rounds = s.rounds := rfl
@[simp] theorem State.modWg_deficits (s : State) (g : Nat) (f : Workgroup → Workgroup) : (s.modWg g f).deficits = s.deficits := rfl
@[simp] theorem State.modWg_heldHeads (s : State) (g : Nat) (f : Workgroup → Workgroup) : (s.modWg g f).heldHeads = s.heldHeads := rfl
@[simp] theorem State.modWg_gateFailed (s : State) (g : Nat) (f : Workgroup → Workgroup) : (s.modWg g f).gateFailed = s.gateFailed := rfl
@[simp] theorem State.modWg_gateMet (s : State) (g : Nat) (f : Workgroup → Workgroup) : (s.modWg g f).gateMet = s.gateMet := rfl
@[simp] theorem State.modWg_freeing (s : State) (g : Nat) (f : Workgroup → Workgroup) : (s.modWg g f).freeing = s.freeing := rfl
@[simp] theorem State.modWg_dWaits (s : State) (g : Nat) (f : Workgroup → Workgroup) : (s.modWg g f).dWaits = s.dWaits := rfl
@[simp] theorem State.modWg_reserved (s : State) (g : Nat) (f : Workgroup → Workgroup) : (s.modWg g f).reserved = s.reserved := rfl
@[simp] theorem State.modWg_pools (s : State) (g : Nat) (f : Workgroup → Workgroup) : (s.modWg g f).pools = s.pools := rfl
@[simp] theorem State.modWg_nodes (s : State) (g : Nat) (f : Workgroup → Workgroup) : (s.modWg g f).nodes = s.nodes := rfl
@[simp] theorem State.modWg_hwqs (s : State) (g : Nat) (f : Workgroup → Workgroup) : (s.modWg g f).hwqs = s.hwqs := rfl
@[simp] theorem State.modWg_rx (s : State) (g : Nat) (f : Workgroup → Workgroup) : (s.modWg g f).rx = s.rx := rfl
@[simp] theorem State.modWg_tx (s : State) (g : Nat) (f : Workgroup → Workgroup) : (s.modWg g f).tx = s.tx := rfl
@[simp] theorem State.modWg_rcos (s : State) (g : Nat) (f : Workgroup → Workgroup) : (s.modWg g f).rcos = s.rcos := rfl
@[simp] theorem State.modWg_peal (s : State) (g : Nat) (f : Workgroup → Workgroup) : (s.modWg g f).peal = s.peal := rfl
@[simp] theorem State.modWg_earlyArrivals (s : State) (g : Nat) (f : Workgroup → Workgroup) : (s.modWg g f).earlyArrivals = s.earlyArrivals := rfl
@[simp] theorem State.modWg_pairs (s : State) (g : Nat) (f : Workgroup → Workgroup) : (s.modWg g f).pairs = s.pairs := rfl
@[simp] theorem State.modWg_tnow (s : State) (g : Nat) (f : Workgroup → Workgroup) : (s.modWg g f).tnow = s.tnow := rfl
@[simp] theorem State.modWg_tfrac (s : State) (g : Nat) (f : Workgroup → Workgroup) : (s.modWg g f).tfrac = s.tfrac := rfl
@[simp] theorem State.modWg_started (s : State) (g : Nat) (f : Workgroup → Workgroup) : (s.modWg g f).started = s.started := rfl
@[simp] theorem State.modWg_cycle (s : State) (g : Nat) (f : Workgroup → Workgroup) : (s.modWg g f).cycle = s.cycle := rfl
@[simp] theorem State.modWg_ptp (s : State) (g : Nat) (f : Workgroup → Workgroup) : (s.modWg g f).ptp = s.ptp := rfl
@[simp] theorem State.modWg_trapBuf (s : State) (g : Nat) (f : Workgroup → Workgroup) : (s.modWg g f).trapBuf = s.trapBuf := rfl
@[simp] theorem State.modWg_seqs (s : State) (g : Nat) (f : Workgroup → Workgroup) : (s.modWg g f).seqs = s.seqs := rfl
@[simp] theorem State.modWg_trapStalled (s : State) (g : Nat) (f : Workgroup → Workgroup) : (s.modWg g f).trapStalled = s.trapStalled := rfl
@[simp] theorem State.modWg_waiting (s : State) (g : Nat) (f : Workgroup → Workgroup) : (s.modWg g f).waiting = s.waiting := rfl
@[simp] theorem State.modWg_emerg (s : State) (g : Nat) (f : Workgroup → Workgroup) : (s.modWg g f).emerg = s.emerg := rfl
@[simp] theorem State.modWg_emergQueue (s : State) (g : Nat) (f : Workgroup → Workgroup) : (s.modWg g f).emergQueue = s.emergQueue := rfl
@[simp] theorem State.modWg_dbg (s : State) (g : Nat) (f : Workgroup → Workgroup) : (s.modWg g f).dbg = s.dbg := rfl
@[simp] theorem State.modWg_counters (s : State) (g : Nat) (f : Workgroup → Workgroup) : (s.modWg g f).counters = s.counters := rfl
@[simp] theorem State.modWg_npre (s : State) (g : Nat) (f : Workgroup → Workgroup) : (s.modWg g f).npre = s.npre := rfl
@[simp] theorem State.modWg_stamps (s : State) (g : Nat) (f : Workgroup → Workgroup) : (s.modWg g f).stamps = s.stamps := rfl
@[simp] theorem State.modWg_reeve (s : State) (g : Nat) (f : Workgroup → Workgroup) : (s.modWg g f).reeve = s.reeve := rfl
@[simp] theorem State.modWg_agenda (s : State) (g : Nat) (f : Workgroup → Workgroup) : (s.modWg g f).agenda = s.agenda := rfl
@[simp] theorem State.modWg_rr (s : State) (g : Nat) (f : Workgroup → Workgroup) : (s.modWg g f).rr = s.rr := rfl
@[simp] theorem State.modWg_icLines (s : State) (g : Nat) (f : Workgroup → Workgroup) : (s.modWg g f).icLines = s.icLines := rfl
@[simp] theorem State.modWg_exited (s : State) (g : Nat) (f : Workgroup → Workgroup) : (s.modWg g f).exited = s.exited := rfl
@[simp] theorem State.modWg_noLink (s : State) (g : Nat) (f : Workgroup → Workgroup) : (s.modWg g f).noLink = s.noLink := rfl
@[simp] theorem State.modWg_tNext (s : State) (g : Nat) (f : Workgroup → Workgroup) : (s.modWg g f).tNext = s.tNext := rfl
@[simp] theorem State.modWg_kilnNext (s : State) (g : Nat) (f : Workgroup → Workgroup) : (s.modWg g f).kilnNext = s.kilnNext := rfl
@[simp] theorem State.modWg_tags (s : State) (g : Nat) (f : Workgroup → Workgroup) : (s.modWg g f).tags = s.tags := rfl
@[simp] theorem State.modWg_evs (s : State) (g : Nat) (f : Workgroup → Workgroup) : (s.modWg g f).evs = s.evs := rfl
@[simp] theorem State.modWg_orders (s : State) (g : Nat) (f : Workgroup → Workgroup) : (s.modWg g f).orders = s.orders := rfl
@[simp] theorem State.modWg_scs (s : State) (g : Nat) (f : Workgroup → Workgroup) : (s.modWg g f).scs = s.scs := rfl
@[simp] theorem State.modWg_joins (s : State) (g : Nat) (f : Workgroup → Workgroup) : (s.modWg g f).joins = s.joins := rfl
@[simp] theorem State.modWg_bells (s : State) (g : Nat) (f : Workgroup → Workgroup) : (s.modWg g f).bells = s.bells := rfl
@[simp] theorem State.modWg_focus (s : State) (g : Nat) (f : Workgroup → Workgroup) : (s.modWg g f).focus = s.focus := rfl
@[simp] theorem State.modWg_oracle (s : State) (g : Nat) (f : Workgroup → Workgroup) : (s.modWg g f).oracle = s.oracle := rfl
@[simp] theorem State.modWg_out (s : State) (g : Nat) (f : Workgroup → Workgroup) : (s.modWg g f).out = s.out := rfl

@[simp] theorem State.modLaunch_mem (s : State) (l : Nat) (f : Launch → Launch) : (s.modLaunch l f).mem = s.mem := rfl
@[simp] theorem State.modLaunch_writes (s : State) (l : Nat) (f : Launch → Launch) : (s.modLaunch l f).writes = s.writes := rfl
@[simp] theorem State.modLaunch_hist (s : State) (l : Nat) (f : Launch → Launch) : (s.modLaunch l f).hist = s.hist := rfl
@[simp] theorem State.modLaunch_smpSince (s : State) (l : Nat) (f : Launch → Launch) : (s.modLaunch l f).smpSince = s.smpSince := rfl
@[simp] theorem State.modLaunch_invals (s : State) (l : Nat) (f : Launch → Launch) : (s.modLaunch l f).invals = s.invals := rfl
@[simp] theorem State.modLaunch_oldRoots (s : State) (l : Nat) (f : Launch → Launch) : (s.modLaunch l f).oldRoots = s.oldRoots := rfl
@[simp] theorem State.modLaunch_icMark (s : State) (l : Nat) (f : Launch → Launch) : (s.modLaunch l f).icMark = s.icMark := rfl
@[simp] theorem State.modLaunch_poisoned (s : State) (l : Nat) (f : Launch → Launch) : (s.modLaunch l f).poisoned = s.poisoned := rfl
@[simp] theorem State.modLaunch_regs (s : State) (l : Nat) (f : Launch → Launch) : (s.modLaunch l f).regs = s.regs := rfl
@[simp] theorem State.modLaunch_msixMask (s : State) (l : Nat) (f : Launch → Launch) : (s.modLaunch l f).msixMask = s.msixMask := rfl
@[simp] theorem State.modLaunch_pba (s : State) (l : Nat) (f : Launch → Launch) : (s.modLaunch l f).pba = s.pba := rfl
@[simp] theorem State.modLaunch_msixTable (s : State) (l : Nat) (f : Launch → Launch) : (s.modLaunch l f).msixTable = s.msixTable := rfl
@[simp] theorem State.modLaunch_crews (s : State) (l : Nat) (f : Launch → Launch) : (s.modLaunch l f).crews = s.crews := rfl
@[simp] theorem State.modLaunch_gens (s : State) (l : Nat) (f : Launch → Launch) : (s.modLaunch l f).gens = s.gens := rfl
@[simp] theorem State.modLaunch_wgs (s : State) (l : Nat) (f : Launch → Launch) : (s.modLaunch l f).wgs = s.wgs := rfl
@[simp] theorem State.modLaunch_gangs (s : State) (l : Nat) (f : Launch → Launch) : (s.modLaunch l f).gangs = s.gangs := rfl
@[simp] theorem State.modLaunch_nextHandle (s : State) (l : Nat) (f : Launch → Launch) : (s.modLaunch l f).nextHandle = s.nextHandle := rfl
@[simp] theorem State.modLaunch_nextOrder (s : State) (l : Nat) (f : Launch → Launch) : (s.modLaunch l f).nextOrder = s.nextOrder := rfl
@[simp] theorem State.modLaunch_batches (s : State) (l : Nat) (f : Launch → Launch) : (s.modLaunch l f).batches = s.batches := rfl
@[simp] theorem State.modLaunch_copies (s : State) (l : Nat) (f : Launch → Launch) : (s.modLaunch l f).copies = s.copies := rfl
@[simp] theorem State.modLaunch_cmds (s : State) (l : Nat) (f : Launch → Launch) : (s.modLaunch l f).cmds = s.cmds := rfl
@[simp] theorem State.modLaunch_scales (s : State) (l : Nat) (f : Launch → Launch) : (s.modLaunch l f).scales = s.scales := rfl
@[simp] theorem State.modLaunch_scinvBusy (s : State) (l : Nat) (f : Launch → Launch) : (s.modLaunch l f).scinvBusy = s.scinvBusy := rfl
@[simp] theorem State.modLaunch_rounds (s : State) (l : Nat) (f : Launch → Launch) : (s.modLaunch l f).rounds = s.rounds := rfl
@[simp] theorem State.modLaunch_deficits (s : State) (l : Nat) (f : Launch → Launch) : (s.modLaunch l f).deficits = s.deficits := rfl
@[simp] theorem State.modLaunch_heldHeads (s : State) (l : Nat) (f : Launch → Launch) : (s.modLaunch l f).heldHeads = s.heldHeads := rfl
@[simp] theorem State.modLaunch_gateFailed (s : State) (l : Nat) (f : Launch → Launch) : (s.modLaunch l f).gateFailed = s.gateFailed := rfl
@[simp] theorem State.modLaunch_gateMet (s : State) (l : Nat) (f : Launch → Launch) : (s.modLaunch l f).gateMet = s.gateMet := rfl
@[simp] theorem State.modLaunch_freeing (s : State) (l : Nat) (f : Launch → Launch) : (s.modLaunch l f).freeing = s.freeing := rfl
@[simp] theorem State.modLaunch_dWaits (s : State) (l : Nat) (f : Launch → Launch) : (s.modLaunch l f).dWaits = s.dWaits := rfl
@[simp] theorem State.modLaunch_reserved (s : State) (l : Nat) (f : Launch → Launch) : (s.modLaunch l f).reserved = s.reserved := rfl
@[simp] theorem State.modLaunch_pools (s : State) (l : Nat) (f : Launch → Launch) : (s.modLaunch l f).pools = s.pools := rfl
@[simp] theorem State.modLaunch_nodes (s : State) (l : Nat) (f : Launch → Launch) : (s.modLaunch l f).nodes = s.nodes := rfl
@[simp] theorem State.modLaunch_hwqs (s : State) (l : Nat) (f : Launch → Launch) : (s.modLaunch l f).hwqs = s.hwqs := rfl
@[simp] theorem State.modLaunch_rx (s : State) (l : Nat) (f : Launch → Launch) : (s.modLaunch l f).rx = s.rx := rfl
@[simp] theorem State.modLaunch_tx (s : State) (l : Nat) (f : Launch → Launch) : (s.modLaunch l f).tx = s.tx := rfl
@[simp] theorem State.modLaunch_rcos (s : State) (l : Nat) (f : Launch → Launch) : (s.modLaunch l f).rcos = s.rcos := rfl
@[simp] theorem State.modLaunch_peal (s : State) (l : Nat) (f : Launch → Launch) : (s.modLaunch l f).peal = s.peal := rfl
@[simp] theorem State.modLaunch_earlyArrivals (s : State) (l : Nat) (f : Launch → Launch) : (s.modLaunch l f).earlyArrivals = s.earlyArrivals := rfl
@[simp] theorem State.modLaunch_pairs (s : State) (l : Nat) (f : Launch → Launch) : (s.modLaunch l f).pairs = s.pairs := rfl
@[simp] theorem State.modLaunch_tnow (s : State) (l : Nat) (f : Launch → Launch) : (s.modLaunch l f).tnow = s.tnow := rfl
@[simp] theorem State.modLaunch_tfrac (s : State) (l : Nat) (f : Launch → Launch) : (s.modLaunch l f).tfrac = s.tfrac := rfl
@[simp] theorem State.modLaunch_started (s : State) (l : Nat) (f : Launch → Launch) : (s.modLaunch l f).started = s.started := rfl
@[simp] theorem State.modLaunch_cycle (s : State) (l : Nat) (f : Launch → Launch) : (s.modLaunch l f).cycle = s.cycle := rfl
@[simp] theorem State.modLaunch_ptp (s : State) (l : Nat) (f : Launch → Launch) : (s.modLaunch l f).ptp = s.ptp := rfl
@[simp] theorem State.modLaunch_trapBuf (s : State) (l : Nat) (f : Launch → Launch) : (s.modLaunch l f).trapBuf = s.trapBuf := rfl
@[simp] theorem State.modLaunch_seqs (s : State) (l : Nat) (f : Launch → Launch) : (s.modLaunch l f).seqs = s.seqs := rfl
@[simp] theorem State.modLaunch_trapStalled (s : State) (l : Nat) (f : Launch → Launch) : (s.modLaunch l f).trapStalled = s.trapStalled := rfl
@[simp] theorem State.modLaunch_waiting (s : State) (l : Nat) (f : Launch → Launch) : (s.modLaunch l f).waiting = s.waiting := rfl
@[simp] theorem State.modLaunch_emerg (s : State) (l : Nat) (f : Launch → Launch) : (s.modLaunch l f).emerg = s.emerg := rfl
@[simp] theorem State.modLaunch_emergQueue (s : State) (l : Nat) (f : Launch → Launch) : (s.modLaunch l f).emergQueue = s.emergQueue := rfl
@[simp] theorem State.modLaunch_dbg (s : State) (l : Nat) (f : Launch → Launch) : (s.modLaunch l f).dbg = s.dbg := rfl
@[simp] theorem State.modLaunch_counters (s : State) (l : Nat) (f : Launch → Launch) : (s.modLaunch l f).counters = s.counters := rfl
@[simp] theorem State.modLaunch_npre (s : State) (l : Nat) (f : Launch → Launch) : (s.modLaunch l f).npre = s.npre := rfl
@[simp] theorem State.modLaunch_stamps (s : State) (l : Nat) (f : Launch → Launch) : (s.modLaunch l f).stamps = s.stamps := rfl
@[simp] theorem State.modLaunch_reeve (s : State) (l : Nat) (f : Launch → Launch) : (s.modLaunch l f).reeve = s.reeve := rfl
@[simp] theorem State.modLaunch_agenda (s : State) (l : Nat) (f : Launch → Launch) : (s.modLaunch l f).agenda = s.agenda := rfl
@[simp] theorem State.modLaunch_rr (s : State) (l : Nat) (f : Launch → Launch) : (s.modLaunch l f).rr = s.rr := rfl
@[simp] theorem State.modLaunch_icLines (s : State) (l : Nat) (f : Launch → Launch) : (s.modLaunch l f).icLines = s.icLines := rfl
@[simp] theorem State.modLaunch_exited (s : State) (l : Nat) (f : Launch → Launch) : (s.modLaunch l f).exited = s.exited := rfl
@[simp] theorem State.modLaunch_noLink (s : State) (l : Nat) (f : Launch → Launch) : (s.modLaunch l f).noLink = s.noLink := rfl
@[simp] theorem State.modLaunch_tNext (s : State) (l : Nat) (f : Launch → Launch) : (s.modLaunch l f).tNext = s.tNext := rfl
@[simp] theorem State.modLaunch_kilnNext (s : State) (l : Nat) (f : Launch → Launch) : (s.modLaunch l f).kilnNext = s.kilnNext := rfl
@[simp] theorem State.modLaunch_tags (s : State) (l : Nat) (f : Launch → Launch) : (s.modLaunch l f).tags = s.tags := rfl
@[simp] theorem State.modLaunch_evs (s : State) (l : Nat) (f : Launch → Launch) : (s.modLaunch l f).evs = s.evs := rfl
@[simp] theorem State.modLaunch_orders (s : State) (l : Nat) (f : Launch → Launch) : (s.modLaunch l f).orders = s.orders := rfl
@[simp] theorem State.modLaunch_scs (s : State) (l : Nat) (f : Launch → Launch) : (s.modLaunch l f).scs = s.scs := rfl
@[simp] theorem State.modLaunch_joins (s : State) (l : Nat) (f : Launch → Launch) : (s.modLaunch l f).joins = s.joins := rfl
@[simp] theorem State.modLaunch_bells (s : State) (l : Nat) (f : Launch → Launch) : (s.modLaunch l f).bells = s.bells := rfl
@[simp] theorem State.modLaunch_focus (s : State) (l : Nat) (f : Launch → Launch) : (s.modLaunch l f).focus = s.focus := rfl
@[simp] theorem State.modLaunch_oracle (s : State) (l : Nat) (f : Launch → Launch) : (s.modLaunch l f).oracle = s.oracle := rfl
@[simp] theorem State.modLaunch_out (s : State) (l : Nat) (f : Launch → Launch) : (s.modLaunch l f).out = s.out := rfl

@[simp] theorem State.w32_mem (s : State) (off v : Nat) : (s.w32 off v).mem = s.mem := rfl
@[simp] theorem State.w32_writes (s : State) (off v : Nat) : (s.w32 off v).writes = s.writes := rfl
@[simp] theorem State.w32_hist (s : State) (off v : Nat) : (s.w32 off v).hist = s.hist := rfl
@[simp] theorem State.w32_smpSince (s : State) (off v : Nat) : (s.w32 off v).smpSince = s.smpSince := rfl
@[simp] theorem State.w32_invals (s : State) (off v : Nat) : (s.w32 off v).invals = s.invals := rfl
@[simp] theorem State.w32_oldRoots (s : State) (off v : Nat) : (s.w32 off v).oldRoots = s.oldRoots := rfl
@[simp] theorem State.w32_icMark (s : State) (off v : Nat) : (s.w32 off v).icMark = s.icMark := rfl
@[simp] theorem State.w32_poisoned (s : State) (off v : Nat) : (s.w32 off v).poisoned = s.poisoned := rfl
@[simp] theorem State.w32_msixMask (s : State) (off v : Nat) : (s.w32 off v).msixMask = s.msixMask := rfl
@[simp] theorem State.w32_pba (s : State) (off v : Nat) : (s.w32 off v).pba = s.pba := rfl
@[simp] theorem State.w32_msixTable (s : State) (off v : Nat) : (s.w32 off v).msixTable = s.msixTable := rfl
@[simp] theorem State.w32_crews (s : State) (off v : Nat) : (s.w32 off v).crews = s.crews := rfl
@[simp] theorem State.w32_gens (s : State) (off v : Nat) : (s.w32 off v).gens = s.gens := rfl
@[simp] theorem State.w32_wgs (s : State) (off v : Nat) : (s.w32 off v).wgs = s.wgs := rfl
@[simp] theorem State.w32_gangs (s : State) (off v : Nat) : (s.w32 off v).gangs = s.gangs := rfl
@[simp] theorem State.w32_launches (s : State) (off v : Nat) : (s.w32 off v).launches = s.launches := rfl
@[simp] theorem State.w32_nextHandle (s : State) (off v : Nat) : (s.w32 off v).nextHandle = s.nextHandle := rfl
@[simp] theorem State.w32_nextOrder (s : State) (off v : Nat) : (s.w32 off v).nextOrder = s.nextOrder := rfl
@[simp] theorem State.w32_batches (s : State) (off v : Nat) : (s.w32 off v).batches = s.batches := rfl
@[simp] theorem State.w32_copies (s : State) (off v : Nat) : (s.w32 off v).copies = s.copies := rfl
@[simp] theorem State.w32_cmds (s : State) (off v : Nat) : (s.w32 off v).cmds = s.cmds := rfl
@[simp] theorem State.w32_scales (s : State) (off v : Nat) : (s.w32 off v).scales = s.scales := rfl
@[simp] theorem State.w32_scinvBusy (s : State) (off v : Nat) : (s.w32 off v).scinvBusy = s.scinvBusy := rfl
@[simp] theorem State.w32_rounds (s : State) (off v : Nat) : (s.w32 off v).rounds = s.rounds := rfl
@[simp] theorem State.w32_deficits (s : State) (off v : Nat) : (s.w32 off v).deficits = s.deficits := rfl
@[simp] theorem State.w32_heldHeads (s : State) (off v : Nat) : (s.w32 off v).heldHeads = s.heldHeads := rfl
@[simp] theorem State.w32_gateFailed (s : State) (off v : Nat) : (s.w32 off v).gateFailed = s.gateFailed := rfl
@[simp] theorem State.w32_gateMet (s : State) (off v : Nat) : (s.w32 off v).gateMet = s.gateMet := rfl
@[simp] theorem State.w32_freeing (s : State) (off v : Nat) : (s.w32 off v).freeing = s.freeing := rfl
@[simp] theorem State.w32_dWaits (s : State) (off v : Nat) : (s.w32 off v).dWaits = s.dWaits := rfl
@[simp] theorem State.w32_reserved (s : State) (off v : Nat) : (s.w32 off v).reserved = s.reserved := rfl
@[simp] theorem State.w32_pools (s : State) (off v : Nat) : (s.w32 off v).pools = s.pools := rfl
@[simp] theorem State.w32_nodes (s : State) (off v : Nat) : (s.w32 off v).nodes = s.nodes := rfl
@[simp] theorem State.w32_hwqs (s : State) (off v : Nat) : (s.w32 off v).hwqs = s.hwqs := rfl
@[simp] theorem State.w32_rx (s : State) (off v : Nat) : (s.w32 off v).rx = s.rx := rfl
@[simp] theorem State.w32_tx (s : State) (off v : Nat) : (s.w32 off v).tx = s.tx := rfl
@[simp] theorem State.w32_rcos (s : State) (off v : Nat) : (s.w32 off v).rcos = s.rcos := rfl
@[simp] theorem State.w32_peal (s : State) (off v : Nat) : (s.w32 off v).peal = s.peal := rfl
@[simp] theorem State.w32_earlyArrivals (s : State) (off v : Nat) : (s.w32 off v).earlyArrivals = s.earlyArrivals := rfl
@[simp] theorem State.w32_pairs (s : State) (off v : Nat) : (s.w32 off v).pairs = s.pairs := rfl
@[simp] theorem State.w32_tnow (s : State) (off v : Nat) : (s.w32 off v).tnow = s.tnow := rfl
@[simp] theorem State.w32_tfrac (s : State) (off v : Nat) : (s.w32 off v).tfrac = s.tfrac := rfl
@[simp] theorem State.w32_started (s : State) (off v : Nat) : (s.w32 off v).started = s.started := rfl
@[simp] theorem State.w32_cycle (s : State) (off v : Nat) : (s.w32 off v).cycle = s.cycle := rfl
@[simp] theorem State.w32_ptp (s : State) (off v : Nat) : (s.w32 off v).ptp = s.ptp := rfl
@[simp] theorem State.w32_trapBuf (s : State) (off v : Nat) : (s.w32 off v).trapBuf = s.trapBuf := rfl
@[simp] theorem State.w32_seqs (s : State) (off v : Nat) : (s.w32 off v).seqs = s.seqs := rfl
@[simp] theorem State.w32_trapStalled (s : State) (off v : Nat) : (s.w32 off v).trapStalled = s.trapStalled := rfl
@[simp] theorem State.w32_waiting (s : State) (off v : Nat) : (s.w32 off v).waiting = s.waiting := rfl
@[simp] theorem State.w32_emerg (s : State) (off v : Nat) : (s.w32 off v).emerg = s.emerg := rfl
@[simp] theorem State.w32_emergQueue (s : State) (off v : Nat) : (s.w32 off v).emergQueue = s.emergQueue := rfl
@[simp] theorem State.w32_dbg (s : State) (off v : Nat) : (s.w32 off v).dbg = s.dbg := rfl
@[simp] theorem State.w32_counters (s : State) (off v : Nat) : (s.w32 off v).counters = s.counters := rfl
@[simp] theorem State.w32_npre (s : State) (off v : Nat) : (s.w32 off v).npre = s.npre := rfl
@[simp] theorem State.w32_stamps (s : State) (off v : Nat) : (s.w32 off v).stamps = s.stamps := rfl
@[simp] theorem State.w32_reeve (s : State) (off v : Nat) : (s.w32 off v).reeve = s.reeve := rfl
@[simp] theorem State.w32_agenda (s : State) (off v : Nat) : (s.w32 off v).agenda = s.agenda := rfl
@[simp] theorem State.w32_rr (s : State) (off v : Nat) : (s.w32 off v).rr = s.rr := rfl
@[simp] theorem State.w32_icLines (s : State) (off v : Nat) : (s.w32 off v).icLines = s.icLines := rfl
@[simp] theorem State.w32_exited (s : State) (off v : Nat) : (s.w32 off v).exited = s.exited := rfl
@[simp] theorem State.w32_noLink (s : State) (off v : Nat) : (s.w32 off v).noLink = s.noLink := rfl
@[simp] theorem State.w32_tNext (s : State) (off v : Nat) : (s.w32 off v).tNext = s.tNext := rfl
@[simp] theorem State.w32_kilnNext (s : State) (off v : Nat) : (s.w32 off v).kilnNext = s.kilnNext := rfl
@[simp] theorem State.w32_tags (s : State) (off v : Nat) : (s.w32 off v).tags = s.tags := rfl
@[simp] theorem State.w32_evs (s : State) (off v : Nat) : (s.w32 off v).evs = s.evs := rfl
@[simp] theorem State.w32_orders (s : State) (off v : Nat) : (s.w32 off v).orders = s.orders := rfl
@[simp] theorem State.w32_scs (s : State) (off v : Nat) : (s.w32 off v).scs = s.scs := rfl
@[simp] theorem State.w32_joins (s : State) (off v : Nat) : (s.w32 off v).joins = s.joins := rfl
@[simp] theorem State.w32_bells (s : State) (off v : Nat) : (s.w32 off v).bells = s.bells := rfl
@[simp] theorem State.w32_focus (s : State) (off v : Nat) : (s.w32 off v).focus = s.focus := rfl
@[simp] theorem State.w32_oracle (s : State) (off v : Nat) : (s.w32 off v).oracle = s.oracle := rfl
@[simp] theorem State.w32_out (s : State) (off v : Nat) : (s.w32 off v).out = s.out := rfl

@[simp] theorem State.setField_mem (s : State) (off hi lo v : Nat) : (s.setField off hi lo v).mem = s.mem := rfl
@[simp] theorem State.setField_writes (s : State) (off hi lo v : Nat) : (s.setField off hi lo v).writes = s.writes := rfl
@[simp] theorem State.setField_hist (s : State) (off hi lo v : Nat) : (s.setField off hi lo v).hist = s.hist := rfl
@[simp] theorem State.setField_smpSince (s : State) (off hi lo v : Nat) : (s.setField off hi lo v).smpSince = s.smpSince := rfl
@[simp] theorem State.setField_invals (s : State) (off hi lo v : Nat) : (s.setField off hi lo v).invals = s.invals := rfl
@[simp] theorem State.setField_oldRoots (s : State) (off hi lo v : Nat) : (s.setField off hi lo v).oldRoots = s.oldRoots := rfl
@[simp] theorem State.setField_icMark (s : State) (off hi lo v : Nat) : (s.setField off hi lo v).icMark = s.icMark := rfl
@[simp] theorem State.setField_poisoned (s : State) (off hi lo v : Nat) : (s.setField off hi lo v).poisoned = s.poisoned := rfl
@[simp] theorem State.setField_msixMask (s : State) (off hi lo v : Nat) : (s.setField off hi lo v).msixMask = s.msixMask := rfl
@[simp] theorem State.setField_pba (s : State) (off hi lo v : Nat) : (s.setField off hi lo v).pba = s.pba := rfl
@[simp] theorem State.setField_msixTable (s : State) (off hi lo v : Nat) : (s.setField off hi lo v).msixTable = s.msixTable := rfl
@[simp] theorem State.setField_crews (s : State) (off hi lo v : Nat) : (s.setField off hi lo v).crews = s.crews := rfl
@[simp] theorem State.setField_gens (s : State) (off hi lo v : Nat) : (s.setField off hi lo v).gens = s.gens := rfl
@[simp] theorem State.setField_wgs (s : State) (off hi lo v : Nat) : (s.setField off hi lo v).wgs = s.wgs := rfl
@[simp] theorem State.setField_gangs (s : State) (off hi lo v : Nat) : (s.setField off hi lo v).gangs = s.gangs := rfl
@[simp] theorem State.setField_launches (s : State) (off hi lo v : Nat) : (s.setField off hi lo v).launches = s.launches := rfl
@[simp] theorem State.setField_nextHandle (s : State) (off hi lo v : Nat) : (s.setField off hi lo v).nextHandle = s.nextHandle := rfl
@[simp] theorem State.setField_nextOrder (s : State) (off hi lo v : Nat) : (s.setField off hi lo v).nextOrder = s.nextOrder := rfl
@[simp] theorem State.setField_batches (s : State) (off hi lo v : Nat) : (s.setField off hi lo v).batches = s.batches := rfl
@[simp] theorem State.setField_copies (s : State) (off hi lo v : Nat) : (s.setField off hi lo v).copies = s.copies := rfl
@[simp] theorem State.setField_cmds (s : State) (off hi lo v : Nat) : (s.setField off hi lo v).cmds = s.cmds := rfl
@[simp] theorem State.setField_scales (s : State) (off hi lo v : Nat) : (s.setField off hi lo v).scales = s.scales := rfl
@[simp] theorem State.setField_scinvBusy (s : State) (off hi lo v : Nat) : (s.setField off hi lo v).scinvBusy = s.scinvBusy := rfl
@[simp] theorem State.setField_rounds (s : State) (off hi lo v : Nat) : (s.setField off hi lo v).rounds = s.rounds := rfl
@[simp] theorem State.setField_deficits (s : State) (off hi lo v : Nat) : (s.setField off hi lo v).deficits = s.deficits := rfl
@[simp] theorem State.setField_heldHeads (s : State) (off hi lo v : Nat) : (s.setField off hi lo v).heldHeads = s.heldHeads := rfl
@[simp] theorem State.setField_gateFailed (s : State) (off hi lo v : Nat) : (s.setField off hi lo v).gateFailed = s.gateFailed := rfl
@[simp] theorem State.setField_gateMet (s : State) (off hi lo v : Nat) : (s.setField off hi lo v).gateMet = s.gateMet := rfl
@[simp] theorem State.setField_freeing (s : State) (off hi lo v : Nat) : (s.setField off hi lo v).freeing = s.freeing := rfl
@[simp] theorem State.setField_dWaits (s : State) (off hi lo v : Nat) : (s.setField off hi lo v).dWaits = s.dWaits := rfl
@[simp] theorem State.setField_reserved (s : State) (off hi lo v : Nat) : (s.setField off hi lo v).reserved = s.reserved := rfl
@[simp] theorem State.setField_pools (s : State) (off hi lo v : Nat) : (s.setField off hi lo v).pools = s.pools := rfl
@[simp] theorem State.setField_nodes (s : State) (off hi lo v : Nat) : (s.setField off hi lo v).nodes = s.nodes := rfl
@[simp] theorem State.setField_hwqs (s : State) (off hi lo v : Nat) : (s.setField off hi lo v).hwqs = s.hwqs := rfl
@[simp] theorem State.setField_rx (s : State) (off hi lo v : Nat) : (s.setField off hi lo v).rx = s.rx := rfl
@[simp] theorem State.setField_tx (s : State) (off hi lo v : Nat) : (s.setField off hi lo v).tx = s.tx := rfl
@[simp] theorem State.setField_rcos (s : State) (off hi lo v : Nat) : (s.setField off hi lo v).rcos = s.rcos := rfl
@[simp] theorem State.setField_peal (s : State) (off hi lo v : Nat) : (s.setField off hi lo v).peal = s.peal := rfl
@[simp] theorem State.setField_earlyArrivals (s : State) (off hi lo v : Nat) : (s.setField off hi lo v).earlyArrivals = s.earlyArrivals := rfl
@[simp] theorem State.setField_pairs (s : State) (off hi lo v : Nat) : (s.setField off hi lo v).pairs = s.pairs := rfl
@[simp] theorem State.setField_tnow (s : State) (off hi lo v : Nat) : (s.setField off hi lo v).tnow = s.tnow := rfl
@[simp] theorem State.setField_tfrac (s : State) (off hi lo v : Nat) : (s.setField off hi lo v).tfrac = s.tfrac := rfl
@[simp] theorem State.setField_started (s : State) (off hi lo v : Nat) : (s.setField off hi lo v).started = s.started := rfl
@[simp] theorem State.setField_cycle (s : State) (off hi lo v : Nat) : (s.setField off hi lo v).cycle = s.cycle := rfl
@[simp] theorem State.setField_ptp (s : State) (off hi lo v : Nat) : (s.setField off hi lo v).ptp = s.ptp := rfl
@[simp] theorem State.setField_trapBuf (s : State) (off hi lo v : Nat) : (s.setField off hi lo v).trapBuf = s.trapBuf := rfl
@[simp] theorem State.setField_seqs (s : State) (off hi lo v : Nat) : (s.setField off hi lo v).seqs = s.seqs := rfl
@[simp] theorem State.setField_trapStalled (s : State) (off hi lo v : Nat) : (s.setField off hi lo v).trapStalled = s.trapStalled := rfl
@[simp] theorem State.setField_waiting (s : State) (off hi lo v : Nat) : (s.setField off hi lo v).waiting = s.waiting := rfl
@[simp] theorem State.setField_emerg (s : State) (off hi lo v : Nat) : (s.setField off hi lo v).emerg = s.emerg := rfl
@[simp] theorem State.setField_emergQueue (s : State) (off hi lo v : Nat) : (s.setField off hi lo v).emergQueue = s.emergQueue := rfl
@[simp] theorem State.setField_dbg (s : State) (off hi lo v : Nat) : (s.setField off hi lo v).dbg = s.dbg := rfl
@[simp] theorem State.setField_counters (s : State) (off hi lo v : Nat) : (s.setField off hi lo v).counters = s.counters := rfl
@[simp] theorem State.setField_npre (s : State) (off hi lo v : Nat) : (s.setField off hi lo v).npre = s.npre := rfl
@[simp] theorem State.setField_stamps (s : State) (off hi lo v : Nat) : (s.setField off hi lo v).stamps = s.stamps := rfl
@[simp] theorem State.setField_reeve (s : State) (off hi lo v : Nat) : (s.setField off hi lo v).reeve = s.reeve := rfl
@[simp] theorem State.setField_agenda (s : State) (off hi lo v : Nat) : (s.setField off hi lo v).agenda = s.agenda := rfl
@[simp] theorem State.setField_rr (s : State) (off hi lo v : Nat) : (s.setField off hi lo v).rr = s.rr := rfl
@[simp] theorem State.setField_icLines (s : State) (off hi lo v : Nat) : (s.setField off hi lo v).icLines = s.icLines := rfl
@[simp] theorem State.setField_exited (s : State) (off hi lo v : Nat) : (s.setField off hi lo v).exited = s.exited := rfl
@[simp] theorem State.setField_noLink (s : State) (off hi lo v : Nat) : (s.setField off hi lo v).noLink = s.noLink := rfl
@[simp] theorem State.setField_tNext (s : State) (off hi lo v : Nat) : (s.setField off hi lo v).tNext = s.tNext := rfl
@[simp] theorem State.setField_kilnNext (s : State) (off hi lo v : Nat) : (s.setField off hi lo v).kilnNext = s.kilnNext := rfl
@[simp] theorem State.setField_tags (s : State) (off hi lo v : Nat) : (s.setField off hi lo v).tags = s.tags := rfl
@[simp] theorem State.setField_evs (s : State) (off hi lo v : Nat) : (s.setField off hi lo v).evs = s.evs := rfl
@[simp] theorem State.setField_orders (s : State) (off hi lo v : Nat) : (s.setField off hi lo v).orders = s.orders := rfl
@[simp] theorem State.setField_scs (s : State) (off hi lo v : Nat) : (s.setField off hi lo v).scs = s.scs := rfl
@[simp] theorem State.setField_joins (s : State) (off hi lo v : Nat) : (s.setField off hi lo v).joins = s.joins := rfl
@[simp] theorem State.setField_bells (s : State) (off hi lo v : Nat) : (s.setField off hi lo v).bells = s.bells := rfl
@[simp] theorem State.setField_focus (s : State) (off hi lo v : Nat) : (s.setField off hi lo v).focus = s.focus := rfl
@[simp] theorem State.setField_oracle (s : State) (off hi lo v : Nat) : (s.setField off hi lo v).oracle = s.oracle := rfl
@[simp] theorem State.setField_out (s : State) (off hi lo v : Nat) : (s.setField off hi lo v).out = s.out := rfl

@[simp] theorem State.countField_mem (s : State) (off hi lo : Nat) : (s.countField off hi lo).mem = s.mem := rfl
@[simp] theorem State.countField_writes (s : State) (off hi lo : Nat) : (s.countField off hi lo).writes = s.writes := rfl
@[simp] theorem State.countField_hist (s : State) (off hi lo : Nat) : (s.countField off hi lo).hist = s.hist := rfl
@[simp] theorem State.countField_smpSince (s : State) (off hi lo : Nat) : (s.countField off hi lo).smpSince = s.smpSince := rfl
@[simp] theorem State.countField_invals (s : State) (off hi lo : Nat) : (s.countField off hi lo).invals = s.invals := rfl
@[simp] theorem State.countField_oldRoots (s : State) (off hi lo : Nat) : (s.countField off hi lo).oldRoots = s.oldRoots := rfl
@[simp] theorem State.countField_icMark (s : State) (off hi lo : Nat) : (s.countField off hi lo).icMark = s.icMark := rfl
@[simp] theorem State.countField_poisoned (s : State) (off hi lo : Nat) : (s.countField off hi lo).poisoned = s.poisoned := rfl
@[simp] theorem State.countField_msixMask (s : State) (off hi lo : Nat) : (s.countField off hi lo).msixMask = s.msixMask := rfl
@[simp] theorem State.countField_pba (s : State) (off hi lo : Nat) : (s.countField off hi lo).pba = s.pba := rfl
@[simp] theorem State.countField_msixTable (s : State) (off hi lo : Nat) : (s.countField off hi lo).msixTable = s.msixTable := rfl
@[simp] theorem State.countField_crews (s : State) (off hi lo : Nat) : (s.countField off hi lo).crews = s.crews := rfl
@[simp] theorem State.countField_gens (s : State) (off hi lo : Nat) : (s.countField off hi lo).gens = s.gens := rfl
@[simp] theorem State.countField_wgs (s : State) (off hi lo : Nat) : (s.countField off hi lo).wgs = s.wgs := rfl
@[simp] theorem State.countField_gangs (s : State) (off hi lo : Nat) : (s.countField off hi lo).gangs = s.gangs := rfl
@[simp] theorem State.countField_launches (s : State) (off hi lo : Nat) : (s.countField off hi lo).launches = s.launches := rfl
@[simp] theorem State.countField_nextHandle (s : State) (off hi lo : Nat) : (s.countField off hi lo).nextHandle = s.nextHandle := rfl
@[simp] theorem State.countField_nextOrder (s : State) (off hi lo : Nat) : (s.countField off hi lo).nextOrder = s.nextOrder := rfl
@[simp] theorem State.countField_batches (s : State) (off hi lo : Nat) : (s.countField off hi lo).batches = s.batches := rfl
@[simp] theorem State.countField_copies (s : State) (off hi lo : Nat) : (s.countField off hi lo).copies = s.copies := rfl
@[simp] theorem State.countField_cmds (s : State) (off hi lo : Nat) : (s.countField off hi lo).cmds = s.cmds := rfl
@[simp] theorem State.countField_scales (s : State) (off hi lo : Nat) : (s.countField off hi lo).scales = s.scales := rfl
@[simp] theorem State.countField_scinvBusy (s : State) (off hi lo : Nat) : (s.countField off hi lo).scinvBusy = s.scinvBusy := rfl
@[simp] theorem State.countField_rounds (s : State) (off hi lo : Nat) : (s.countField off hi lo).rounds = s.rounds := rfl
@[simp] theorem State.countField_deficits (s : State) (off hi lo : Nat) : (s.countField off hi lo).deficits = s.deficits := rfl
@[simp] theorem State.countField_heldHeads (s : State) (off hi lo : Nat) : (s.countField off hi lo).heldHeads = s.heldHeads := rfl
@[simp] theorem State.countField_gateFailed (s : State) (off hi lo : Nat) : (s.countField off hi lo).gateFailed = s.gateFailed := rfl
@[simp] theorem State.countField_gateMet (s : State) (off hi lo : Nat) : (s.countField off hi lo).gateMet = s.gateMet := rfl
@[simp] theorem State.countField_freeing (s : State) (off hi lo : Nat) : (s.countField off hi lo).freeing = s.freeing := rfl
@[simp] theorem State.countField_dWaits (s : State) (off hi lo : Nat) : (s.countField off hi lo).dWaits = s.dWaits := rfl
@[simp] theorem State.countField_reserved (s : State) (off hi lo : Nat) : (s.countField off hi lo).reserved = s.reserved := rfl
@[simp] theorem State.countField_pools (s : State) (off hi lo : Nat) : (s.countField off hi lo).pools = s.pools := rfl
@[simp] theorem State.countField_nodes (s : State) (off hi lo : Nat) : (s.countField off hi lo).nodes = s.nodes := rfl
@[simp] theorem State.countField_hwqs (s : State) (off hi lo : Nat) : (s.countField off hi lo).hwqs = s.hwqs := rfl
@[simp] theorem State.countField_rx (s : State) (off hi lo : Nat) : (s.countField off hi lo).rx = s.rx := rfl
@[simp] theorem State.countField_tx (s : State) (off hi lo : Nat) : (s.countField off hi lo).tx = s.tx := rfl
@[simp] theorem State.countField_rcos (s : State) (off hi lo : Nat) : (s.countField off hi lo).rcos = s.rcos := rfl
@[simp] theorem State.countField_peal (s : State) (off hi lo : Nat) : (s.countField off hi lo).peal = s.peal := rfl
@[simp] theorem State.countField_earlyArrivals (s : State) (off hi lo : Nat) : (s.countField off hi lo).earlyArrivals = s.earlyArrivals := rfl
@[simp] theorem State.countField_pairs (s : State) (off hi lo : Nat) : (s.countField off hi lo).pairs = s.pairs := rfl
@[simp] theorem State.countField_tnow (s : State) (off hi lo : Nat) : (s.countField off hi lo).tnow = s.tnow := rfl
@[simp] theorem State.countField_tfrac (s : State) (off hi lo : Nat) : (s.countField off hi lo).tfrac = s.tfrac := rfl
@[simp] theorem State.countField_started (s : State) (off hi lo : Nat) : (s.countField off hi lo).started = s.started := rfl
@[simp] theorem State.countField_cycle (s : State) (off hi lo : Nat) : (s.countField off hi lo).cycle = s.cycle := rfl
@[simp] theorem State.countField_ptp (s : State) (off hi lo : Nat) : (s.countField off hi lo).ptp = s.ptp := rfl
@[simp] theorem State.countField_trapBuf (s : State) (off hi lo : Nat) : (s.countField off hi lo).trapBuf = s.trapBuf := rfl
@[simp] theorem State.countField_seqs (s : State) (off hi lo : Nat) : (s.countField off hi lo).seqs = s.seqs := rfl
@[simp] theorem State.countField_trapStalled (s : State) (off hi lo : Nat) : (s.countField off hi lo).trapStalled = s.trapStalled := rfl
@[simp] theorem State.countField_waiting (s : State) (off hi lo : Nat) : (s.countField off hi lo).waiting = s.waiting := rfl
@[simp] theorem State.countField_emerg (s : State) (off hi lo : Nat) : (s.countField off hi lo).emerg = s.emerg := rfl
@[simp] theorem State.countField_emergQueue (s : State) (off hi lo : Nat) : (s.countField off hi lo).emergQueue = s.emergQueue := rfl
@[simp] theorem State.countField_dbg (s : State) (off hi lo : Nat) : (s.countField off hi lo).dbg = s.dbg := rfl
@[simp] theorem State.countField_counters (s : State) (off hi lo : Nat) : (s.countField off hi lo).counters = s.counters := rfl
@[simp] theorem State.countField_npre (s : State) (off hi lo : Nat) : (s.countField off hi lo).npre = s.npre := rfl
@[simp] theorem State.countField_stamps (s : State) (off hi lo : Nat) : (s.countField off hi lo).stamps = s.stamps := rfl
@[simp] theorem State.countField_reeve (s : State) (off hi lo : Nat) : (s.countField off hi lo).reeve = s.reeve := rfl
@[simp] theorem State.countField_agenda (s : State) (off hi lo : Nat) : (s.countField off hi lo).agenda = s.agenda := rfl
@[simp] theorem State.countField_rr (s : State) (off hi lo : Nat) : (s.countField off hi lo).rr = s.rr := rfl
@[simp] theorem State.countField_icLines (s : State) (off hi lo : Nat) : (s.countField off hi lo).icLines = s.icLines := rfl
@[simp] theorem State.countField_exited (s : State) (off hi lo : Nat) : (s.countField off hi lo).exited = s.exited := rfl
@[simp] theorem State.countField_noLink (s : State) (off hi lo : Nat) : (s.countField off hi lo).noLink = s.noLink := rfl
@[simp] theorem State.countField_tNext (s : State) (off hi lo : Nat) : (s.countField off hi lo).tNext = s.tNext := rfl
@[simp] theorem State.countField_kilnNext (s : State) (off hi lo : Nat) : (s.countField off hi lo).kilnNext = s.kilnNext := rfl
@[simp] theorem State.countField_tags (s : State) (off hi lo : Nat) : (s.countField off hi lo).tags = s.tags := rfl
@[simp] theorem State.countField_evs (s : State) (off hi lo : Nat) : (s.countField off hi lo).evs = s.evs := rfl
@[simp] theorem State.countField_orders (s : State) (off hi lo : Nat) : (s.countField off hi lo).orders = s.orders := rfl
@[simp] theorem State.countField_scs (s : State) (off hi lo : Nat) : (s.countField off hi lo).scs = s.scs := rfl
@[simp] theorem State.countField_joins (s : State) (off hi lo : Nat) : (s.countField off hi lo).joins = s.joins := rfl
@[simp] theorem State.countField_bells (s : State) (off hi lo : Nat) : (s.countField off hi lo).bells = s.bells := rfl
@[simp] theorem State.countField_focus (s : State) (off hi lo : Nat) : (s.countField off hi lo).focus = s.focus := rfl
@[simp] theorem State.countField_oracle (s : State) (off hi lo : Nat) : (s.countField off hi lo).oracle = s.oracle := rfl
@[simp] theorem State.countField_out (s : State) (off hi lo : Nat) : (s.countField off hi lo).out = s.out := rfl

@[simp] theorem State.wr_mem (s : State) (pa : Nat) (v : Byte) : (s.wr pa v).mem = s.mem := rfl
@[simp] theorem State.wr_hist (s : State) (pa : Nat) (v : Byte) : (s.wr pa v).hist = s.hist := rfl
@[simp] theorem State.wr_smpSince (s : State) (pa : Nat) (v : Byte) : (s.wr pa v).smpSince = s.smpSince := rfl
@[simp] theorem State.wr_invals (s : State) (pa : Nat) (v : Byte) : (s.wr pa v).invals = s.invals := rfl
@[simp] theorem State.wr_oldRoots (s : State) (pa : Nat) (v : Byte) : (s.wr pa v).oldRoots = s.oldRoots := rfl
@[simp] theorem State.wr_icMark (s : State) (pa : Nat) (v : Byte) : (s.wr pa v).icMark = s.icMark := rfl
@[simp] theorem State.wr_poisoned (s : State) (pa : Nat) (v : Byte) : (s.wr pa v).poisoned = s.poisoned := rfl
@[simp] theorem State.wr_regs (s : State) (pa : Nat) (v : Byte) : (s.wr pa v).regs = s.regs := rfl
@[simp] theorem State.wr_msixMask (s : State) (pa : Nat) (v : Byte) : (s.wr pa v).msixMask = s.msixMask := rfl
@[simp] theorem State.wr_pba (s : State) (pa : Nat) (v : Byte) : (s.wr pa v).pba = s.pba := rfl
@[simp] theorem State.wr_msixTable (s : State) (pa : Nat) (v : Byte) : (s.wr pa v).msixTable = s.msixTable := rfl
@[simp] theorem State.wr_crews (s : State) (pa : Nat) (v : Byte) : (s.wr pa v).crews = s.crews := rfl
@[simp] theorem State.wr_gens (s : State) (pa : Nat) (v : Byte) : (s.wr pa v).gens = s.gens := rfl
@[simp] theorem State.wr_wgs (s : State) (pa : Nat) (v : Byte) : (s.wr pa v).wgs = s.wgs := rfl
@[simp] theorem State.wr_gangs (s : State) (pa : Nat) (v : Byte) : (s.wr pa v).gangs = s.gangs := rfl
@[simp] theorem State.wr_launches (s : State) (pa : Nat) (v : Byte) : (s.wr pa v).launches = s.launches := rfl
@[simp] theorem State.wr_nextHandle (s : State) (pa : Nat) (v : Byte) : (s.wr pa v).nextHandle = s.nextHandle := rfl
@[simp] theorem State.wr_nextOrder (s : State) (pa : Nat) (v : Byte) : (s.wr pa v).nextOrder = s.nextOrder := rfl
@[simp] theorem State.wr_batches (s : State) (pa : Nat) (v : Byte) : (s.wr pa v).batches = s.batches := rfl
@[simp] theorem State.wr_copies (s : State) (pa : Nat) (v : Byte) : (s.wr pa v).copies = s.copies := rfl
@[simp] theorem State.wr_cmds (s : State) (pa : Nat) (v : Byte) : (s.wr pa v).cmds = s.cmds := rfl
@[simp] theorem State.wr_scales (s : State) (pa : Nat) (v : Byte) : (s.wr pa v).scales = s.scales := rfl
@[simp] theorem State.wr_scinvBusy (s : State) (pa : Nat) (v : Byte) : (s.wr pa v).scinvBusy = s.scinvBusy := rfl
@[simp] theorem State.wr_rounds (s : State) (pa : Nat) (v : Byte) : (s.wr pa v).rounds = s.rounds := rfl
@[simp] theorem State.wr_deficits (s : State) (pa : Nat) (v : Byte) : (s.wr pa v).deficits = s.deficits := rfl
@[simp] theorem State.wr_heldHeads (s : State) (pa : Nat) (v : Byte) : (s.wr pa v).heldHeads = s.heldHeads := rfl
@[simp] theorem State.wr_gateFailed (s : State) (pa : Nat) (v : Byte) : (s.wr pa v).gateFailed = s.gateFailed := rfl
@[simp] theorem State.wr_gateMet (s : State) (pa : Nat) (v : Byte) : (s.wr pa v).gateMet = s.gateMet := rfl
@[simp] theorem State.wr_freeing (s : State) (pa : Nat) (v : Byte) : (s.wr pa v).freeing = s.freeing := rfl
@[simp] theorem State.wr_dWaits (s : State) (pa : Nat) (v : Byte) : (s.wr pa v).dWaits = s.dWaits := rfl
@[simp] theorem State.wr_reserved (s : State) (pa : Nat) (v : Byte) : (s.wr pa v).reserved = s.reserved := rfl
@[simp] theorem State.wr_pools (s : State) (pa : Nat) (v : Byte) : (s.wr pa v).pools = s.pools := rfl
@[simp] theorem State.wr_nodes (s : State) (pa : Nat) (v : Byte) : (s.wr pa v).nodes = s.nodes := rfl
@[simp] theorem State.wr_hwqs (s : State) (pa : Nat) (v : Byte) : (s.wr pa v).hwqs = s.hwqs := rfl
@[simp] theorem State.wr_rx (s : State) (pa : Nat) (v : Byte) : (s.wr pa v).rx = s.rx := rfl
@[simp] theorem State.wr_tx (s : State) (pa : Nat) (v : Byte) : (s.wr pa v).tx = s.tx := rfl
@[simp] theorem State.wr_rcos (s : State) (pa : Nat) (v : Byte) : (s.wr pa v).rcos = s.rcos := rfl
@[simp] theorem State.wr_peal (s : State) (pa : Nat) (v : Byte) : (s.wr pa v).peal = s.peal := rfl
@[simp] theorem State.wr_earlyArrivals (s : State) (pa : Nat) (v : Byte) : (s.wr pa v).earlyArrivals = s.earlyArrivals := rfl
@[simp] theorem State.wr_pairs (s : State) (pa : Nat) (v : Byte) : (s.wr pa v).pairs = s.pairs := rfl
@[simp] theorem State.wr_tnow (s : State) (pa : Nat) (v : Byte) : (s.wr pa v).tnow = s.tnow := rfl
@[simp] theorem State.wr_tfrac (s : State) (pa : Nat) (v : Byte) : (s.wr pa v).tfrac = s.tfrac := rfl
@[simp] theorem State.wr_started (s : State) (pa : Nat) (v : Byte) : (s.wr pa v).started = s.started := rfl
@[simp] theorem State.wr_cycle (s : State) (pa : Nat) (v : Byte) : (s.wr pa v).cycle = s.cycle := rfl
@[simp] theorem State.wr_ptp (s : State) (pa : Nat) (v : Byte) : (s.wr pa v).ptp = s.ptp := rfl
@[simp] theorem State.wr_trapBuf (s : State) (pa : Nat) (v : Byte) : (s.wr pa v).trapBuf = s.trapBuf := rfl
@[simp] theorem State.wr_seqs (s : State) (pa : Nat) (v : Byte) : (s.wr pa v).seqs = s.seqs := rfl
@[simp] theorem State.wr_trapStalled (s : State) (pa : Nat) (v : Byte) : (s.wr pa v).trapStalled = s.trapStalled := rfl
@[simp] theorem State.wr_waiting (s : State) (pa : Nat) (v : Byte) : (s.wr pa v).waiting = s.waiting := rfl
@[simp] theorem State.wr_emerg (s : State) (pa : Nat) (v : Byte) : (s.wr pa v).emerg = s.emerg := rfl
@[simp] theorem State.wr_emergQueue (s : State) (pa : Nat) (v : Byte) : (s.wr pa v).emergQueue = s.emergQueue := rfl
@[simp] theorem State.wr_dbg (s : State) (pa : Nat) (v : Byte) : (s.wr pa v).dbg = s.dbg := rfl
@[simp] theorem State.wr_counters (s : State) (pa : Nat) (v : Byte) : (s.wr pa v).counters = s.counters := rfl
@[simp] theorem State.wr_npre (s : State) (pa : Nat) (v : Byte) : (s.wr pa v).npre = s.npre := rfl
@[simp] theorem State.wr_stamps (s : State) (pa : Nat) (v : Byte) : (s.wr pa v).stamps = s.stamps := rfl
@[simp] theorem State.wr_reeve (s : State) (pa : Nat) (v : Byte) : (s.wr pa v).reeve = s.reeve := rfl
@[simp] theorem State.wr_agenda (s : State) (pa : Nat) (v : Byte) : (s.wr pa v).agenda = s.agenda := rfl
@[simp] theorem State.wr_rr (s : State) (pa : Nat) (v : Byte) : (s.wr pa v).rr = s.rr := rfl
@[simp] theorem State.wr_icLines (s : State) (pa : Nat) (v : Byte) : (s.wr pa v).icLines = s.icLines := rfl
@[simp] theorem State.wr_exited (s : State) (pa : Nat) (v : Byte) : (s.wr pa v).exited = s.exited := rfl
@[simp] theorem State.wr_noLink (s : State) (pa : Nat) (v : Byte) : (s.wr pa v).noLink = s.noLink := rfl
@[simp] theorem State.wr_tNext (s : State) (pa : Nat) (v : Byte) : (s.wr pa v).tNext = s.tNext := rfl
@[simp] theorem State.wr_kilnNext (s : State) (pa : Nat) (v : Byte) : (s.wr pa v).kilnNext = s.kilnNext := rfl
@[simp] theorem State.wr_tags (s : State) (pa : Nat) (v : Byte) : (s.wr pa v).tags = s.tags := rfl
@[simp] theorem State.wr_evs (s : State) (pa : Nat) (v : Byte) : (s.wr pa v).evs = s.evs := rfl
@[simp] theorem State.wr_orders (s : State) (pa : Nat) (v : Byte) : (s.wr pa v).orders = s.orders := rfl
@[simp] theorem State.wr_scs (s : State) (pa : Nat) (v : Byte) : (s.wr pa v).scs = s.scs := rfl
@[simp] theorem State.wr_joins (s : State) (pa : Nat) (v : Byte) : (s.wr pa v).joins = s.joins := rfl
@[simp] theorem State.wr_bells (s : State) (pa : Nat) (v : Byte) : (s.wr pa v).bells = s.bells := rfl
@[simp] theorem State.wr_focus (s : State) (pa : Nat) (v : Byte) : (s.wr pa v).focus = s.focus := rfl
@[simp] theorem State.wr_oracle (s : State) (pa : Nat) (v : Byte) : (s.wr pa v).oracle = s.oracle := rfl
@[simp] theorem State.wr_out (s : State) (pa : Nat) (v : Byte) : (s.wr pa v).out = s.out := rfl

@[simp] theorem State.count_mem (s : State) (ctx code n : Nat) : (s.count ctx code n).mem = s.mem := rfl
@[simp] theorem State.count_writes (s : State) (ctx code n : Nat) : (s.count ctx code n).writes = s.writes := rfl
@[simp] theorem State.count_hist (s : State) (ctx code n : Nat) : (s.count ctx code n).hist = s.hist := rfl
@[simp] theorem State.count_smpSince (s : State) (ctx code n : Nat) : (s.count ctx code n).smpSince = s.smpSince := rfl
@[simp] theorem State.count_invals (s : State) (ctx code n : Nat) : (s.count ctx code n).invals = s.invals := rfl
@[simp] theorem State.count_oldRoots (s : State) (ctx code n : Nat) : (s.count ctx code n).oldRoots = s.oldRoots := rfl
@[simp] theorem State.count_icMark (s : State) (ctx code n : Nat) : (s.count ctx code n).icMark = s.icMark := rfl
@[simp] theorem State.count_poisoned (s : State) (ctx code n : Nat) : (s.count ctx code n).poisoned = s.poisoned := rfl
@[simp] theorem State.count_regs (s : State) (ctx code n : Nat) : (s.count ctx code n).regs = s.regs := rfl
@[simp] theorem State.count_msixMask (s : State) (ctx code n : Nat) : (s.count ctx code n).msixMask = s.msixMask := rfl
@[simp] theorem State.count_pba (s : State) (ctx code n : Nat) : (s.count ctx code n).pba = s.pba := rfl
@[simp] theorem State.count_msixTable (s : State) (ctx code n : Nat) : (s.count ctx code n).msixTable = s.msixTable := rfl
@[simp] theorem State.count_crews (s : State) (ctx code n : Nat) : (s.count ctx code n).crews = s.crews := rfl
@[simp] theorem State.count_gens (s : State) (ctx code n : Nat) : (s.count ctx code n).gens = s.gens := rfl
@[simp] theorem State.count_wgs (s : State) (ctx code n : Nat) : (s.count ctx code n).wgs = s.wgs := rfl
@[simp] theorem State.count_gangs (s : State) (ctx code n : Nat) : (s.count ctx code n).gangs = s.gangs := rfl
@[simp] theorem State.count_launches (s : State) (ctx code n : Nat) : (s.count ctx code n).launches = s.launches := rfl
@[simp] theorem State.count_nextHandle (s : State) (ctx code n : Nat) : (s.count ctx code n).nextHandle = s.nextHandle := rfl
@[simp] theorem State.count_nextOrder (s : State) (ctx code n : Nat) : (s.count ctx code n).nextOrder = s.nextOrder := rfl
@[simp] theorem State.count_batches (s : State) (ctx code n : Nat) : (s.count ctx code n).batches = s.batches := rfl
@[simp] theorem State.count_copies (s : State) (ctx code n : Nat) : (s.count ctx code n).copies = s.copies := rfl
@[simp] theorem State.count_cmds (s : State) (ctx code n : Nat) : (s.count ctx code n).cmds = s.cmds := rfl
@[simp] theorem State.count_scales (s : State) (ctx code n : Nat) : (s.count ctx code n).scales = s.scales := rfl
@[simp] theorem State.count_scinvBusy (s : State) (ctx code n : Nat) : (s.count ctx code n).scinvBusy = s.scinvBusy := rfl
@[simp] theorem State.count_rounds (s : State) (ctx code n : Nat) : (s.count ctx code n).rounds = s.rounds := rfl
@[simp] theorem State.count_deficits (s : State) (ctx code n : Nat) : (s.count ctx code n).deficits = s.deficits := rfl
@[simp] theorem State.count_heldHeads (s : State) (ctx code n : Nat) : (s.count ctx code n).heldHeads = s.heldHeads := rfl
@[simp] theorem State.count_gateFailed (s : State) (ctx code n : Nat) : (s.count ctx code n).gateFailed = s.gateFailed := rfl
@[simp] theorem State.count_gateMet (s : State) (ctx code n : Nat) : (s.count ctx code n).gateMet = s.gateMet := rfl
@[simp] theorem State.count_freeing (s : State) (ctx code n : Nat) : (s.count ctx code n).freeing = s.freeing := rfl
@[simp] theorem State.count_dWaits (s : State) (ctx code n : Nat) : (s.count ctx code n).dWaits = s.dWaits := rfl
@[simp] theorem State.count_reserved (s : State) (ctx code n : Nat) : (s.count ctx code n).reserved = s.reserved := rfl
@[simp] theorem State.count_pools (s : State) (ctx code n : Nat) : (s.count ctx code n).pools = s.pools := rfl
@[simp] theorem State.count_nodes (s : State) (ctx code n : Nat) : (s.count ctx code n).nodes = s.nodes := rfl
@[simp] theorem State.count_hwqs (s : State) (ctx code n : Nat) : (s.count ctx code n).hwqs = s.hwqs := rfl
@[simp] theorem State.count_rx (s : State) (ctx code n : Nat) : (s.count ctx code n).rx = s.rx := rfl
@[simp] theorem State.count_tx (s : State) (ctx code n : Nat) : (s.count ctx code n).tx = s.tx := rfl
@[simp] theorem State.count_rcos (s : State) (ctx code n : Nat) : (s.count ctx code n).rcos = s.rcos := rfl
@[simp] theorem State.count_peal (s : State) (ctx code n : Nat) : (s.count ctx code n).peal = s.peal := rfl
@[simp] theorem State.count_earlyArrivals (s : State) (ctx code n : Nat) : (s.count ctx code n).earlyArrivals = s.earlyArrivals := rfl
@[simp] theorem State.count_pairs (s : State) (ctx code n : Nat) : (s.count ctx code n).pairs = s.pairs := rfl
@[simp] theorem State.count_tnow (s : State) (ctx code n : Nat) : (s.count ctx code n).tnow = s.tnow := rfl
@[simp] theorem State.count_tfrac (s : State) (ctx code n : Nat) : (s.count ctx code n).tfrac = s.tfrac := rfl
@[simp] theorem State.count_started (s : State) (ctx code n : Nat) : (s.count ctx code n).started = s.started := rfl
@[simp] theorem State.count_cycle (s : State) (ctx code n : Nat) : (s.count ctx code n).cycle = s.cycle := rfl
@[simp] theorem State.count_ptp (s : State) (ctx code n : Nat) : (s.count ctx code n).ptp = s.ptp := rfl
@[simp] theorem State.count_trapBuf (s : State) (ctx code n : Nat) : (s.count ctx code n).trapBuf = s.trapBuf := rfl
@[simp] theorem State.count_seqs (s : State) (ctx code n : Nat) : (s.count ctx code n).seqs = s.seqs := rfl
@[simp] theorem State.count_trapStalled (s : State) (ctx code n : Nat) : (s.count ctx code n).trapStalled = s.trapStalled := rfl
@[simp] theorem State.count_waiting (s : State) (ctx code n : Nat) : (s.count ctx code n).waiting = s.waiting := rfl
@[simp] theorem State.count_emerg (s : State) (ctx code n : Nat) : (s.count ctx code n).emerg = s.emerg := rfl
@[simp] theorem State.count_emergQueue (s : State) (ctx code n : Nat) : (s.count ctx code n).emergQueue = s.emergQueue := rfl
@[simp] theorem State.count_dbg (s : State) (ctx code n : Nat) : (s.count ctx code n).dbg = s.dbg := rfl
@[simp] theorem State.count_npre (s : State) (ctx code n : Nat) : (s.count ctx code n).npre = s.npre := rfl
@[simp] theorem State.count_stamps (s : State) (ctx code n : Nat) : (s.count ctx code n).stamps = s.stamps := rfl
@[simp] theorem State.count_reeve (s : State) (ctx code n : Nat) : (s.count ctx code n).reeve = s.reeve := rfl
@[simp] theorem State.count_agenda (s : State) (ctx code n : Nat) : (s.count ctx code n).agenda = s.agenda := rfl
@[simp] theorem State.count_rr (s : State) (ctx code n : Nat) : (s.count ctx code n).rr = s.rr := rfl
@[simp] theorem State.count_icLines (s : State) (ctx code n : Nat) : (s.count ctx code n).icLines = s.icLines := rfl
@[simp] theorem State.count_exited (s : State) (ctx code n : Nat) : (s.count ctx code n).exited = s.exited := rfl
@[simp] theorem State.count_noLink (s : State) (ctx code n : Nat) : (s.count ctx code n).noLink = s.noLink := rfl
@[simp] theorem State.count_tNext (s : State) (ctx code n : Nat) : (s.count ctx code n).tNext = s.tNext := rfl
@[simp] theorem State.count_kilnNext (s : State) (ctx code n : Nat) : (s.count ctx code n).kilnNext = s.kilnNext := rfl
@[simp] theorem State.count_tags (s : State) (ctx code n : Nat) : (s.count ctx code n).tags = s.tags := rfl
@[simp] theorem State.count_evs (s : State) (ctx code n : Nat) : (s.count ctx code n).evs = s.evs := rfl
@[simp] theorem State.count_orders (s : State) (ctx code n : Nat) : (s.count ctx code n).orders = s.orders := rfl
@[simp] theorem State.count_scs (s : State) (ctx code n : Nat) : (s.count ctx code n).scs = s.scs := rfl
@[simp] theorem State.count_joins (s : State) (ctx code n : Nat) : (s.count ctx code n).joins = s.joins := rfl
@[simp] theorem State.count_bells (s : State) (ctx code n : Nat) : (s.count ctx code n).bells = s.bells := rfl
@[simp] theorem State.count_focus (s : State) (ctx code n : Nat) : (s.count ctx code n).focus = s.focus := rfl
@[simp] theorem State.count_oracle (s : State) (ctx code n : Nat) : (s.count ctx code n).oracle = s.oracle := rfl
@[simp] theorem State.count_out (s : State) (ctx code n : Nat) : (s.count ctx code n).out = s.out := rfl

@[simp] theorem State.samplerFlush_mem (s : State) (core : Nat) : (s.samplerFlush core).mem = s.mem := rfl
@[simp] theorem State.samplerFlush_writes (s : State) (core : Nat) : (s.samplerFlush core).writes = s.writes := rfl
@[simp] theorem State.samplerFlush_hist (s : State) (core : Nat) : (s.samplerFlush core).hist = s.hist := rfl
@[simp] theorem State.samplerFlush_invals (s : State) (core : Nat) : (s.samplerFlush core).invals = s.invals := rfl
@[simp] theorem State.samplerFlush_oldRoots (s : State) (core : Nat) : (s.samplerFlush core).oldRoots = s.oldRoots := rfl
@[simp] theorem State.samplerFlush_icMark (s : State) (core : Nat) : (s.samplerFlush core).icMark = s.icMark := rfl
@[simp] theorem State.samplerFlush_poisoned (s : State) (core : Nat) : (s.samplerFlush core).poisoned = s.poisoned := rfl
@[simp] theorem State.samplerFlush_regs (s : State) (core : Nat) : (s.samplerFlush core).regs = s.regs := rfl
@[simp] theorem State.samplerFlush_msixMask (s : State) (core : Nat) : (s.samplerFlush core).msixMask = s.msixMask := rfl
@[simp] theorem State.samplerFlush_pba (s : State) (core : Nat) : (s.samplerFlush core).pba = s.pba := rfl
@[simp] theorem State.samplerFlush_msixTable (s : State) (core : Nat) : (s.samplerFlush core).msixTable = s.msixTable := rfl
@[simp] theorem State.samplerFlush_crews (s : State) (core : Nat) : (s.samplerFlush core).crews = s.crews := rfl
@[simp] theorem State.samplerFlush_gens (s : State) (core : Nat) : (s.samplerFlush core).gens = s.gens := rfl
@[simp] theorem State.samplerFlush_wgs (s : State) (core : Nat) : (s.samplerFlush core).wgs = s.wgs := rfl
@[simp] theorem State.samplerFlush_gangs (s : State) (core : Nat) : (s.samplerFlush core).gangs = s.gangs := rfl
@[simp] theorem State.samplerFlush_launches (s : State) (core : Nat) : (s.samplerFlush core).launches = s.launches := rfl
@[simp] theorem State.samplerFlush_nextHandle (s : State) (core : Nat) : (s.samplerFlush core).nextHandle = s.nextHandle := rfl
@[simp] theorem State.samplerFlush_nextOrder (s : State) (core : Nat) : (s.samplerFlush core).nextOrder = s.nextOrder := rfl
@[simp] theorem State.samplerFlush_batches (s : State) (core : Nat) : (s.samplerFlush core).batches = s.batches := rfl
@[simp] theorem State.samplerFlush_copies (s : State) (core : Nat) : (s.samplerFlush core).copies = s.copies := rfl
@[simp] theorem State.samplerFlush_cmds (s : State) (core : Nat) : (s.samplerFlush core).cmds = s.cmds := rfl
@[simp] theorem State.samplerFlush_scales (s : State) (core : Nat) : (s.samplerFlush core).scales = s.scales := rfl
@[simp] theorem State.samplerFlush_scinvBusy (s : State) (core : Nat) : (s.samplerFlush core).scinvBusy = s.scinvBusy := rfl
@[simp] theorem State.samplerFlush_rounds (s : State) (core : Nat) : (s.samplerFlush core).rounds = s.rounds := rfl
@[simp] theorem State.samplerFlush_deficits (s : State) (core : Nat) : (s.samplerFlush core).deficits = s.deficits := rfl
@[simp] theorem State.samplerFlush_heldHeads (s : State) (core : Nat) : (s.samplerFlush core).heldHeads = s.heldHeads := rfl
@[simp] theorem State.samplerFlush_gateFailed (s : State) (core : Nat) : (s.samplerFlush core).gateFailed = s.gateFailed := rfl
@[simp] theorem State.samplerFlush_gateMet (s : State) (core : Nat) : (s.samplerFlush core).gateMet = s.gateMet := rfl
@[simp] theorem State.samplerFlush_freeing (s : State) (core : Nat) : (s.samplerFlush core).freeing = s.freeing := rfl
@[simp] theorem State.samplerFlush_dWaits (s : State) (core : Nat) : (s.samplerFlush core).dWaits = s.dWaits := rfl
@[simp] theorem State.samplerFlush_reserved (s : State) (core : Nat) : (s.samplerFlush core).reserved = s.reserved := rfl
@[simp] theorem State.samplerFlush_pools (s : State) (core : Nat) : (s.samplerFlush core).pools = s.pools := rfl
@[simp] theorem State.samplerFlush_nodes (s : State) (core : Nat) : (s.samplerFlush core).nodes = s.nodes := rfl
@[simp] theorem State.samplerFlush_hwqs (s : State) (core : Nat) : (s.samplerFlush core).hwqs = s.hwqs := rfl
@[simp] theorem State.samplerFlush_rx (s : State) (core : Nat) : (s.samplerFlush core).rx = s.rx := rfl
@[simp] theorem State.samplerFlush_tx (s : State) (core : Nat) : (s.samplerFlush core).tx = s.tx := rfl
@[simp] theorem State.samplerFlush_rcos (s : State) (core : Nat) : (s.samplerFlush core).rcos = s.rcos := rfl
@[simp] theorem State.samplerFlush_peal (s : State) (core : Nat) : (s.samplerFlush core).peal = s.peal := rfl
@[simp] theorem State.samplerFlush_earlyArrivals (s : State) (core : Nat) : (s.samplerFlush core).earlyArrivals = s.earlyArrivals := rfl
@[simp] theorem State.samplerFlush_pairs (s : State) (core : Nat) : (s.samplerFlush core).pairs = s.pairs := rfl
@[simp] theorem State.samplerFlush_tnow (s : State) (core : Nat) : (s.samplerFlush core).tnow = s.tnow := rfl
@[simp] theorem State.samplerFlush_tfrac (s : State) (core : Nat) : (s.samplerFlush core).tfrac = s.tfrac := rfl
@[simp] theorem State.samplerFlush_started (s : State) (core : Nat) : (s.samplerFlush core).started = s.started := rfl
@[simp] theorem State.samplerFlush_cycle (s : State) (core : Nat) : (s.samplerFlush core).cycle = s.cycle := rfl
@[simp] theorem State.samplerFlush_ptp (s : State) (core : Nat) : (s.samplerFlush core).ptp = s.ptp := rfl
@[simp] theorem State.samplerFlush_trapBuf (s : State) (core : Nat) : (s.samplerFlush core).trapBuf = s.trapBuf := rfl
@[simp] theorem State.samplerFlush_seqs (s : State) (core : Nat) : (s.samplerFlush core).seqs = s.seqs := rfl
@[simp] theorem State.samplerFlush_trapStalled (s : State) (core : Nat) : (s.samplerFlush core).trapStalled = s.trapStalled := rfl
@[simp] theorem State.samplerFlush_waiting (s : State) (core : Nat) : (s.samplerFlush core).waiting = s.waiting := rfl
@[simp] theorem State.samplerFlush_emerg (s : State) (core : Nat) : (s.samplerFlush core).emerg = s.emerg := rfl
@[simp] theorem State.samplerFlush_emergQueue (s : State) (core : Nat) : (s.samplerFlush core).emergQueue = s.emergQueue := rfl
@[simp] theorem State.samplerFlush_dbg (s : State) (core : Nat) : (s.samplerFlush core).dbg = s.dbg := rfl
@[simp] theorem State.samplerFlush_counters (s : State) (core : Nat) : (s.samplerFlush core).counters = s.counters := rfl
@[simp] theorem State.samplerFlush_npre (s : State) (core : Nat) : (s.samplerFlush core).npre = s.npre := rfl
@[simp] theorem State.samplerFlush_stamps (s : State) (core : Nat) : (s.samplerFlush core).stamps = s.stamps := rfl
@[simp] theorem State.samplerFlush_reeve (s : State) (core : Nat) : (s.samplerFlush core).reeve = s.reeve := rfl
@[simp] theorem State.samplerFlush_agenda (s : State) (core : Nat) : (s.samplerFlush core).agenda = s.agenda := rfl
@[simp] theorem State.samplerFlush_rr (s : State) (core : Nat) : (s.samplerFlush core).rr = s.rr := rfl
@[simp] theorem State.samplerFlush_icLines (s : State) (core : Nat) : (s.samplerFlush core).icLines = s.icLines := rfl
@[simp] theorem State.samplerFlush_exited (s : State) (core : Nat) : (s.samplerFlush core).exited = s.exited := rfl
@[simp] theorem State.samplerFlush_noLink (s : State) (core : Nat) : (s.samplerFlush core).noLink = s.noLink := rfl
@[simp] theorem State.samplerFlush_tNext (s : State) (core : Nat) : (s.samplerFlush core).tNext = s.tNext := rfl
@[simp] theorem State.samplerFlush_kilnNext (s : State) (core : Nat) : (s.samplerFlush core).kilnNext = s.kilnNext := rfl
@[simp] theorem State.samplerFlush_tags (s : State) (core : Nat) : (s.samplerFlush core).tags = s.tags := rfl
@[simp] theorem State.samplerFlush_evs (s : State) (core : Nat) : (s.samplerFlush core).evs = s.evs := rfl
@[simp] theorem State.samplerFlush_orders (s : State) (core : Nat) : (s.samplerFlush core).orders = s.orders := rfl
@[simp] theorem State.samplerFlush_scs (s : State) (core : Nat) : (s.samplerFlush core).scs = s.scs := rfl
@[simp] theorem State.samplerFlush_joins (s : State) (core : Nat) : (s.samplerFlush core).joins = s.joins := rfl
@[simp] theorem State.samplerFlush_bells (s : State) (core : Nat) : (s.samplerFlush core).bells = s.bells := rfl
@[simp] theorem State.samplerFlush_focus (s : State) (core : Nat) : (s.samplerFlush core).focus = s.focus := rfl
@[simp] theorem State.samplerFlush_oracle (s : State) (core : Nat) : (s.samplerFlush core).oracle = s.oracle := rfl
@[simp] theorem State.samplerFlush_out (s : State) (core : Nat) : (s.samplerFlush core).out = s.out := rfl

@[simp] theorem State.commit_smpSince (s : State) : (s.commit).smpSince = s.smpSince := rfl
@[simp] theorem State.commit_invals (s : State) : (s.commit).invals = s.invals := rfl
@[simp] theorem State.commit_oldRoots (s : State) : (s.commit).oldRoots = s.oldRoots := rfl
@[simp] theorem State.commit_icMark (s : State) : (s.commit).icMark = s.icMark := rfl
@[simp] theorem State.commit_poisoned (s : State) : (s.commit).poisoned = s.poisoned := rfl
@[simp] theorem State.commit_regs (s : State) : (s.commit).regs = s.regs := rfl
@[simp] theorem State.commit_msixMask (s : State) : (s.commit).msixMask = s.msixMask := rfl
@[simp] theorem State.commit_pba (s : State) : (s.commit).pba = s.pba := rfl
@[simp] theorem State.commit_msixTable (s : State) : (s.commit).msixTable = s.msixTable := rfl
@[simp] theorem State.commit_crews (s : State) : (s.commit).crews = s.crews := rfl
@[simp] theorem State.commit_gens (s : State) : (s.commit).gens = s.gens := rfl
@[simp] theorem State.commit_wgs (s : State) : (s.commit).wgs = s.wgs := rfl
@[simp] theorem State.commit_gangs (s : State) : (s.commit).gangs = s.gangs := rfl
@[simp] theorem State.commit_launches (s : State) : (s.commit).launches = s.launches := rfl
@[simp] theorem State.commit_nextHandle (s : State) : (s.commit).nextHandle = s.nextHandle := rfl
@[simp] theorem State.commit_nextOrder (s : State) : (s.commit).nextOrder = s.nextOrder := rfl
@[simp] theorem State.commit_batches (s : State) : (s.commit).batches = s.batches := rfl
@[simp] theorem State.commit_copies (s : State) : (s.commit).copies = s.copies := rfl
@[simp] theorem State.commit_cmds (s : State) : (s.commit).cmds = s.cmds := rfl
@[simp] theorem State.commit_scales (s : State) : (s.commit).scales = s.scales := rfl
@[simp] theorem State.commit_scinvBusy (s : State) : (s.commit).scinvBusy = s.scinvBusy := rfl
@[simp] theorem State.commit_rounds (s : State) : (s.commit).rounds = s.rounds := rfl
@[simp] theorem State.commit_deficits (s : State) : (s.commit).deficits = s.deficits := rfl
@[simp] theorem State.commit_heldHeads (s : State) : (s.commit).heldHeads = s.heldHeads := rfl
@[simp] theorem State.commit_gateFailed (s : State) : (s.commit).gateFailed = s.gateFailed := rfl
@[simp] theorem State.commit_gateMet (s : State) : (s.commit).gateMet = s.gateMet := rfl
@[simp] theorem State.commit_freeing (s : State) : (s.commit).freeing = s.freeing := rfl
@[simp] theorem State.commit_dWaits (s : State) : (s.commit).dWaits = s.dWaits := rfl
@[simp] theorem State.commit_reserved (s : State) : (s.commit).reserved = s.reserved := rfl
@[simp] theorem State.commit_pools (s : State) : (s.commit).pools = s.pools := rfl
@[simp] theorem State.commit_nodes (s : State) : (s.commit).nodes = s.nodes := rfl
@[simp] theorem State.commit_hwqs (s : State) : (s.commit).hwqs = s.hwqs := rfl
@[simp] theorem State.commit_rx (s : State) : (s.commit).rx = s.rx := rfl
@[simp] theorem State.commit_tx (s : State) : (s.commit).tx = s.tx := rfl
@[simp] theorem State.commit_rcos (s : State) : (s.commit).rcos = s.rcos := rfl
@[simp] theorem State.commit_peal (s : State) : (s.commit).peal = s.peal := rfl
@[simp] theorem State.commit_earlyArrivals (s : State) : (s.commit).earlyArrivals = s.earlyArrivals := rfl
@[simp] theorem State.commit_pairs (s : State) : (s.commit).pairs = s.pairs := rfl
@[simp] theorem State.commit_tnow (s : State) : (s.commit).tnow = s.tnow := rfl
@[simp] theorem State.commit_tfrac (s : State) : (s.commit).tfrac = s.tfrac := rfl
@[simp] theorem State.commit_started (s : State) : (s.commit).started = s.started := rfl
@[simp] theorem State.commit_cycle (s : State) : (s.commit).cycle = s.cycle := rfl
@[simp] theorem State.commit_ptp (s : State) : (s.commit).ptp = s.ptp := rfl
@[simp] theorem State.commit_trapBuf (s : State) : (s.commit).trapBuf = s.trapBuf := rfl
@[simp] theorem State.commit_seqs (s : State) : (s.commit).seqs = s.seqs := rfl
@[simp] theorem State.commit_trapStalled (s : State) : (s.commit).trapStalled = s.trapStalled := rfl
@[simp] theorem State.commit_waiting (s : State) : (s.commit).waiting = s.waiting := rfl
@[simp] theorem State.commit_emerg (s : State) : (s.commit).emerg = s.emerg := rfl
@[simp] theorem State.commit_emergQueue (s : State) : (s.commit).emergQueue = s.emergQueue := rfl
@[simp] theorem State.commit_dbg (s : State) : (s.commit).dbg = s.dbg := rfl
@[simp] theorem State.commit_counters (s : State) : (s.commit).counters = s.counters := rfl
@[simp] theorem State.commit_npre (s : State) : (s.commit).npre = s.npre := rfl
@[simp] theorem State.commit_stamps (s : State) : (s.commit).stamps = s.stamps := rfl
@[simp] theorem State.commit_reeve (s : State) : (s.commit).reeve = s.reeve := rfl
@[simp] theorem State.commit_agenda (s : State) : (s.commit).agenda = s.agenda := rfl
@[simp] theorem State.commit_rr (s : State) : (s.commit).rr = s.rr := rfl
@[simp] theorem State.commit_icLines (s : State) : (s.commit).icLines = s.icLines := rfl
@[simp] theorem State.commit_exited (s : State) : (s.commit).exited = s.exited := rfl
@[simp] theorem State.commit_noLink (s : State) : (s.commit).noLink = s.noLink := rfl
@[simp] theorem State.commit_tNext (s : State) : (s.commit).tNext = s.tNext := rfl
@[simp] theorem State.commit_kilnNext (s : State) : (s.commit).kilnNext = s.kilnNext := rfl
@[simp] theorem State.commit_tags (s : State) : (s.commit).tags = s.tags := rfl
@[simp] theorem State.commit_scs (s : State) : (s.commit).scs = s.scs := rfl
@[simp] theorem State.commit_joins (s : State) : (s.commit).joins = s.joins := rfl
@[simp] theorem State.commit_bells (s : State) : (s.commit).bells = s.bells := rfl
@[simp] theorem State.commit_focus (s : State) : (s.commit).focus = s.focus := rfl
@[simp] theorem State.commit_oracle (s : State) : (s.commit).oracle = s.oracle := rfl
@[simp] theorem State.commit_out (s : State) : (s.commit).out = s.out := rfl

@[simp] theorem State.commit_writes (s : State) : s.commit.writes = [] := rfl

@[simp] theorem State.interrupt_mem (s : State) (v : Nat) : (s.interrupt v).mem = s.mem := by unfold State.interrupt; split <;> rfl
@[simp] theorem State.interrupt_writes (s : State) (v : Nat) : (s.interrupt v).writes = s.writes := by unfold State.interrupt; split <;> rfl
@[simp] theorem State.interrupt_hist (s : State) (v : Nat) : (s.interrupt v).hist = s.hist := by unfold State.interrupt; split <;> rfl
@[simp] theorem State.interrupt_smpSince (s : State) (v : Nat) : (s.interrupt v).smpSince = s.smpSince := by unfold State.interrupt; split <;> rfl
@[simp] theorem State.interrupt_invals (s : State) (v : Nat) : (s.interrupt v).invals = s.invals := by unfold State.interrupt; split <;> rfl
@[simp] theorem State.interrupt_oldRoots (s : State) (v : Nat) : (s.interrupt v).oldRoots = s.oldRoots := by unfold State.interrupt; split <;> rfl
@[simp] theorem State.interrupt_icMark (s : State) (v : Nat) : (s.interrupt v).icMark = s.icMark := by unfold State.interrupt; split <;> rfl
@[simp] theorem State.interrupt_poisoned (s : State) (v : Nat) : (s.interrupt v).poisoned = s.poisoned := by unfold State.interrupt; split <;> rfl
@[simp] theorem State.interrupt_regs (s : State) (v : Nat) : (s.interrupt v).regs = s.regs := by unfold State.interrupt; split <;> rfl
@[simp] theorem State.interrupt_msixMask (s : State) (v : Nat) : (s.interrupt v).msixMask = s.msixMask := by unfold State.interrupt; split <;> rfl
@[simp] theorem State.interrupt_msixTable (s : State) (v : Nat) : (s.interrupt v).msixTable = s.msixTable := by unfold State.interrupt; split <;> rfl
@[simp] theorem State.interrupt_crews (s : State) (v : Nat) : (s.interrupt v).crews = s.crews := by unfold State.interrupt; split <;> rfl
@[simp] theorem State.interrupt_gens (s : State) (v : Nat) : (s.interrupt v).gens = s.gens := by unfold State.interrupt; split <;> rfl
@[simp] theorem State.interrupt_wgs (s : State) (v : Nat) : (s.interrupt v).wgs = s.wgs := by unfold State.interrupt; split <;> rfl
@[simp] theorem State.interrupt_gangs (s : State) (v : Nat) : (s.interrupt v).gangs = s.gangs := by unfold State.interrupt; split <;> rfl
@[simp] theorem State.interrupt_launches (s : State) (v : Nat) : (s.interrupt v).launches = s.launches := by unfold State.interrupt; split <;> rfl
@[simp] theorem State.interrupt_nextHandle (s : State) (v : Nat) : (s.interrupt v).nextHandle = s.nextHandle := by unfold State.interrupt; split <;> rfl
@[simp] theorem State.interrupt_nextOrder (s : State) (v : Nat) : (s.interrupt v).nextOrder = s.nextOrder := by unfold State.interrupt; split <;> rfl
@[simp] theorem State.interrupt_batches (s : State) (v : Nat) : (s.interrupt v).batches = s.batches := by unfold State.interrupt; split <;> rfl
@[simp] theorem State.interrupt_copies (s : State) (v : Nat) : (s.interrupt v).copies = s.copies := by unfold State.interrupt; split <;> rfl
@[simp] theorem State.interrupt_cmds (s : State) (v : Nat) : (s.interrupt v).cmds = s.cmds := by unfold State.interrupt; split <;> rfl
@[simp] theorem State.interrupt_scales (s : State) (v : Nat) : (s.interrupt v).scales = s.scales := by unfold State.interrupt; split <;> rfl
@[simp] theorem State.interrupt_scinvBusy (s : State) (v : Nat) : (s.interrupt v).scinvBusy = s.scinvBusy := by unfold State.interrupt; split <;> rfl
@[simp] theorem State.interrupt_rounds (s : State) (v : Nat) : (s.interrupt v).rounds = s.rounds := by unfold State.interrupt; split <;> rfl
@[simp] theorem State.interrupt_deficits (s : State) (v : Nat) : (s.interrupt v).deficits = s.deficits := by unfold State.interrupt; split <;> rfl
@[simp] theorem State.interrupt_heldHeads (s : State) (v : Nat) : (s.interrupt v).heldHeads = s.heldHeads := by unfold State.interrupt; split <;> rfl
@[simp] theorem State.interrupt_gateFailed (s : State) (v : Nat) : (s.interrupt v).gateFailed = s.gateFailed := by unfold State.interrupt; split <;> rfl
@[simp] theorem State.interrupt_gateMet (s : State) (v : Nat) : (s.interrupt v).gateMet = s.gateMet := by unfold State.interrupt; split <;> rfl
@[simp] theorem State.interrupt_freeing (s : State) (v : Nat) : (s.interrupt v).freeing = s.freeing := by unfold State.interrupt; split <;> rfl
@[simp] theorem State.interrupt_dWaits (s : State) (v : Nat) : (s.interrupt v).dWaits = s.dWaits := by unfold State.interrupt; split <;> rfl
@[simp] theorem State.interrupt_reserved (s : State) (v : Nat) : (s.interrupt v).reserved = s.reserved := by unfold State.interrupt; split <;> rfl
@[simp] theorem State.interrupt_pools (s : State) (v : Nat) : (s.interrupt v).pools = s.pools := by unfold State.interrupt; split <;> rfl
@[simp] theorem State.interrupt_nodes (s : State) (v : Nat) : (s.interrupt v).nodes = s.nodes := by unfold State.interrupt; split <;> rfl
@[simp] theorem State.interrupt_hwqs (s : State) (v : Nat) : (s.interrupt v).hwqs = s.hwqs := by unfold State.interrupt; split <;> rfl
@[simp] theorem State.interrupt_rx (s : State) (v : Nat) : (s.interrupt v).rx = s.rx := by unfold State.interrupt; split <;> rfl
@[simp] theorem State.interrupt_tx (s : State) (v : Nat) : (s.interrupt v).tx = s.tx := by unfold State.interrupt; split <;> rfl
@[simp] theorem State.interrupt_rcos (s : State) (v : Nat) : (s.interrupt v).rcos = s.rcos := by unfold State.interrupt; split <;> rfl
@[simp] theorem State.interrupt_peal (s : State) (v : Nat) : (s.interrupt v).peal = s.peal := by unfold State.interrupt; split <;> rfl
@[simp] theorem State.interrupt_earlyArrivals (s : State) (v : Nat) : (s.interrupt v).earlyArrivals = s.earlyArrivals := by unfold State.interrupt; split <;> rfl
@[simp] theorem State.interrupt_pairs (s : State) (v : Nat) : (s.interrupt v).pairs = s.pairs := by unfold State.interrupt; split <;> rfl
@[simp] theorem State.interrupt_tnow (s : State) (v : Nat) : (s.interrupt v).tnow = s.tnow := by unfold State.interrupt; split <;> rfl
@[simp] theorem State.interrupt_tfrac (s : State) (v : Nat) : (s.interrupt v).tfrac = s.tfrac := by unfold State.interrupt; split <;> rfl
@[simp] theorem State.interrupt_started (s : State) (v : Nat) : (s.interrupt v).started = s.started := by unfold State.interrupt; split <;> rfl
@[simp] theorem State.interrupt_cycle (s : State) (v : Nat) : (s.interrupt v).cycle = s.cycle := by unfold State.interrupt; split <;> rfl
@[simp] theorem State.interrupt_ptp (s : State) (v : Nat) : (s.interrupt v).ptp = s.ptp := by unfold State.interrupt; split <;> rfl
@[simp] theorem State.interrupt_trapBuf (s : State) (v : Nat) : (s.interrupt v).trapBuf = s.trapBuf := by unfold State.interrupt; split <;> rfl
@[simp] theorem State.interrupt_seqs (s : State) (v : Nat) : (s.interrupt v).seqs = s.seqs := by unfold State.interrupt; split <;> rfl
@[simp] theorem State.interrupt_trapStalled (s : State) (v : Nat) : (s.interrupt v).trapStalled = s.trapStalled := by unfold State.interrupt; split <;> rfl
@[simp] theorem State.interrupt_waiting (s : State) (v : Nat) : (s.interrupt v).waiting = s.waiting := by unfold State.interrupt; split <;> rfl
@[simp] theorem State.interrupt_emerg (s : State) (v : Nat) : (s.interrupt v).emerg = s.emerg := by unfold State.interrupt; split <;> rfl
@[simp] theorem State.interrupt_emergQueue (s : State) (v : Nat) : (s.interrupt v).emergQueue = s.emergQueue := by unfold State.interrupt; split <;> rfl
@[simp] theorem State.interrupt_dbg (s : State) (v : Nat) : (s.interrupt v).dbg = s.dbg := by unfold State.interrupt; split <;> rfl
@[simp] theorem State.interrupt_counters (s : State) (v : Nat) : (s.interrupt v).counters = s.counters := by unfold State.interrupt; split <;> rfl
@[simp] theorem State.interrupt_npre (s : State) (v : Nat) : (s.interrupt v).npre = s.npre := by unfold State.interrupt; split <;> rfl
@[simp] theorem State.interrupt_stamps (s : State) (v : Nat) : (s.interrupt v).stamps = s.stamps := by unfold State.interrupt; split <;> rfl
@[simp] theorem State.interrupt_reeve (s : State) (v : Nat) : (s.interrupt v).reeve = s.reeve := by unfold State.interrupt; split <;> rfl
@[simp] theorem State.interrupt_agenda (s : State) (v : Nat) : (s.interrupt v).agenda = s.agenda := by unfold State.interrupt; split <;> rfl
@[simp] theorem State.interrupt_rr (s : State) (v : Nat) : (s.interrupt v).rr = s.rr := by unfold State.interrupt; split <;> rfl
@[simp] theorem State.interrupt_icLines (s : State) (v : Nat) : (s.interrupt v).icLines = s.icLines := by unfold State.interrupt; split <;> rfl
@[simp] theorem State.interrupt_exited (s : State) (v : Nat) : (s.interrupt v).exited = s.exited := by unfold State.interrupt; split <;> rfl
@[simp] theorem State.interrupt_noLink (s : State) (v : Nat) : (s.interrupt v).noLink = s.noLink := by unfold State.interrupt; split <;> rfl
@[simp] theorem State.interrupt_tNext (s : State) (v : Nat) : (s.interrupt v).tNext = s.tNext := by unfold State.interrupt; split <;> rfl
@[simp] theorem State.interrupt_kilnNext (s : State) (v : Nat) : (s.interrupt v).kilnNext = s.kilnNext := by unfold State.interrupt; split <;> rfl
@[simp] theorem State.interrupt_tags (s : State) (v : Nat) : (s.interrupt v).tags = s.tags := by unfold State.interrupt; split <;> rfl
@[simp] theorem State.interrupt_evs (s : State) (v : Nat) : (s.interrupt v).evs = s.evs := by unfold State.interrupt; split <;> rfl
@[simp] theorem State.interrupt_orders (s : State) (v : Nat) : (s.interrupt v).orders = s.orders := by unfold State.interrupt; split <;> rfl
@[simp] theorem State.interrupt_scs (s : State) (v : Nat) : (s.interrupt v).scs = s.scs := by unfold State.interrupt; split <;> rfl
@[simp] theorem State.interrupt_joins (s : State) (v : Nat) : (s.interrupt v).joins = s.joins := by unfold State.interrupt; split <;> rfl
@[simp] theorem State.interrupt_bells (s : State) (v : Nat) : (s.interrupt v).bells = s.bells := by unfold State.interrupt; split <;> rfl
@[simp] theorem State.interrupt_focus (s : State) (v : Nat) : (s.interrupt v).focus = s.focus := by unfold State.interrupt; split <;> rfl
@[simp] theorem State.interrupt_oracle (s : State) (v : Nat) : (s.interrupt v).oracle = s.oracle := by unfold State.interrupt; split <;> rfl

/-! What the reads of a table see of its updates. -/

@[simp] theorem State.crew?_setCrew (s : State) (cid : Nat) (c : Crew) : (s.setCrew cid c).crew? cid = some c := tget?_tset_same _ _ _
theorem State.crew?_setCrew_other (s : State) (cid k : Nat) (c : Crew) (h : k ≠ cid) : (s.setCrew cid c).crew? k = s.crew? k := tget?_tset_other _ _ _ _ h
@[simp] theorem State.wg?_setWg (s : State) (g : Nat) (w : Workgroup) : (s.setWg g w).wg? g = some w := tget?_tset_same _ _ _
theorem State.wg?_setWg_other (s : State) (g k : Nat) (w : Workgroup) (h : k ≠ g) : (s.setWg g w).wg? k = s.wg? k := tget?_tset_other _ _ _ _ h
@[simp] theorem State.r32_w32 (s : State) (off v : Nat) : (s.w32 off v).r32 off = v % 2 ^ 32 := by simp [State.r32, State.w32]
theorem State.r32_w32_other (s : State) (off o v : Nat) (h : o ≠ off) : (s.w32 off v).r32 o = s.r32 o := by simp [State.r32, State.w32, tget?_tset_other _ _ _ _ h]
@[simp] theorem State.setCrew_crews (s : State) (cid : Nat) (c : Crew) : (s.setCrew cid c).crews = tset s.crews cid c := rfl
@[simp] theorem State.modCrew_crews (s : State) (cid : Nat) (f : Crew → Crew) : (s.modCrew cid f).crews = tmod s.crews cid f := rfl
@[simp] theorem State.setWg_wgs (s : State) (g : Nat) (w : Workgroup) : (s.setWg g w).wgs = tset s.wgs g w := rfl
@[simp] theorem State.modWg_wgs (s : State) (g : Nat) (f : Workgroup → Workgroup) : (s.modWg g f).wgs = tmod s.wgs g f := rfl
@[simp] theorem State.modLaunch_launches (s : State) (l : Nat) (f : Launch → Launch) : (s.modLaunch l f).launches = tmod s.launches l f := rfl
@[simp] theorem State.w32_regs (s : State) (off v : Nat) : (s.w32 off v).regs = tset s.regs off (BitVec.ofNat 32 v) := rfl
@[simp] theorem State.wr_writes (s : State) (pa : Nat) (v : Byte) : (s.wr pa v).writes = [(pa, v)] :: s.writes := rfl

end Sys2Proof.Machine
end

