-- ==== Sys2Proof/Laws/Run.lean ====
section
/-! SUPPORT. What the wrappers of meanings do, said once: an S-instruction or L-word that may go on either traps, waits, or completes with
what its effect gives (R28, R221). -/

namespace Sys2Proof.Machine

@[simp] theorem setCrew_setCrew (s : State) (k : Nat) (c d : Crew) : (s.setCrew k c).setCrew k d = s.setCrew k d := by
  simp [State.setCrew]

/-- A meaning that has written nothing ends in the state it gives. -/
theorem fin_clean (s : State) (h : s.writes = []) : fin s = .next s := by
  simp [fin, commit_clean s h]

/-! ### Markers leave the path alone -/

theorem applyPend_stack (o : Nat) (c : Crew) (p : Pending) : (c.applyPend o p).stack = c.stack := rfl

theorem mark_stack (o : Nat) (c : Crew) (st : Stream) : (c.mark o st).stack = c.stack := by
  have : ∀ (ps : List Pending) (c : Crew), (ps.foldl (Crew.applyPend o) c).stack = c.stack := by
    intro ps
    induction ps with
    | nil => intro c; rfl
    | cons p t ih => intro c; rw [List.foldl_cons, ih, applyPend_stack]
  exact this _ _

theorem waited_stack (o : Nat) (c : Crew) (w d : Bool) : (waited o c w d).stack = c.stack := by
  unfold waited
  cases w <;> cases d <;> simp [mark_stack]

/-! ### The stack in the core (R30) -/

/-- A stack that is all in the core needs no filling. -/
theorem fill_near (s : State) {c : Crew} (h : c.stack.length ≤ 32) : s.fill c = .ok (s, c) := by simp [State.fill, h]

/-- A stack that is all in the core is not spilled. -/
theorem spill_near (s : State) {c : Crew} (h : c.stack.length ≤ 32) : s.spill c = .ok s := by simp [State.spill, h]

/-- The end of an S-instruction whose crew's stack is all in the core. -/
theorem spilled_near {s : State} {k : Nat} {c : Crew} (hc : s.crew? k = some c) (h : c.stack.length ≤ 32) :
    (s.crew? k).elim (.ok s) s.spill = .ok s := by simp [hc, spill_near s h]

/-! ### What a marker orders (R79, R185) -/

/-- A run of updates each of which changes only the events changes only the events. -/
theorem evs_foldl {β : Type} (f : State → β → State) (h : ∀ s b, ∃ v, f s b = { s with evs := v }) :
    ∀ (l : List β) (s : State), ∃ v, l.foldl f s = { s with evs := v }
  | [], s => ⟨s.evs, rfl⟩
  | b :: t, s => by
    obtain ⟨v, hv⟩ := h s b
    obtain ⟨w, hw⟩ := evs_foldl f h t (f s b)
    exact ⟨w, by rw [List.foldl_cons, hw, hv]⟩

/-- Placing the accesses of a RAST changes only the events. -/
theorem placeRasts_eq (s : State) (c : Crew) (st : Stream) : ∃ v, s.placeRasts c st = { s with evs := v } := by
  refine evs_foldl _ (fun s p => ?_) _ _
  split
  · exact ⟨_, rfl⟩
  · exact ⟨s.evs, rfl⟩

/-- What the effect of an S-instruction starts from: the state with its crew marked and, at a marker, the places of what its threads have done. -/
theorem seenS_eq (s : State) (c : Crew) (w d : Bool) :
    ∃ v j, Claims.seenS s c w d = { s.setCrew s.focus (waited s.oracle c w d) with evs := v, joins := j } := by
  unfold Claims.seenS
  split
  · obtain ⟨v, hv⟩ := placeRasts_eq (s.setCrew s.focus (waited s.oracle c w d)) c .s
    simp only [hv]
    exact ⟨_, _, rfl⟩
  · exact ⟨_, _, rfl⟩

/-- The same for an L-word. -/
theorem seenL_eq (s : State) (c : Crew) (f : LF) : ∃ v, Claims.seenL s c f = { s.setCrew s.focus (waitedL s.oracle c f) with evs := v } := by
  unfold Claims.seenL
  split
  · obtain ⟨v, hv⟩ := placeRasts_eq s c .l
    rw [hv]
    exact ⟨v, rfl⟩
  · exact ⟨_, rfl⟩

/-- An issued word that counts changes only the counters (R421). -/
theorem countWord_eq (t s : State) (c : Crew) (code : Nat) : ∃ k, t.countWord s c code = { t with counters := k } := by
  unfold State.countWord
  split
  · exact ⟨t.counters, rfl⟩
  · exact ⟨_, rfl⟩

/-! ### S-instructions -/

/-- An S-instruction whose wait is over and whose crew's stack is in the core comes to its checks and effect. -/
theorem runS_goes {s : State} {c : Crew} {w drain : Bool} {len : Nat} {checks : State → Crew → List (Bool × Trap)} {body : State → Crew → Eff}
    (hc : s.crew? s.focus = some c) (hn : c.stack.length ≤ 32) (hw : mayGo c w drain = true) :
    runS s w drain len checks body = (match firstFail (checks (Claims.seenS s c w drain) (waited s.oracle c w drain)) with
      | some t => fin ((Claims.seenS s c w drain).takeTrap s.focus .s len t)
      | none =>
        match body (Claims.seenS s c w drain) (waited s.oracle c w drain) with
        | .trap t => fin ((Claims.seenS s c w drain).takeTrap s.focus .s len t)
        | .wait s' => fin s'
        | .done s' =>
          match (s'.crew? s.focus).elim (.ok s') s'.spill with
          | .ok s2 => fin (s2.countWord s c 3)
          | .error f => fin ((Claims.seenS s c w drain).takeTrap s.focus .s len (Trap.access .store f 0))) := by
  have hf := fill_near (Claims.seenS s c w drain) (c := waited s.oracle c w drain) (by rwa [waited_stack])
  simp only [Claims.seenS, waited] at hf ⊢
  unfold mayGo at hw
  simp only [runS, hc]
  rw [if_neg (by rw [Bool.not_eq_true'] at hw; simp [hw])]
  generalize State.fill _ _ = x at hf ⊢
  subst hf
  rfl

/-- An S-instruction whose checks pass and whose effect completes. -/
theorem runS_done {s : State} {c : Crew} {w drain : Bool} {len : Nat} {checks : State → Crew → List (Bool × Trap)} {body : State → Crew → Eff}
    {s' : State} (hc : s.crew? s.focus = some c) (hn : c.stack.length ≤ 32) (hw : mayGo c w drain = true)
    (hk : firstFail (checks (Claims.seenS s c w drain) (waited s.oracle c w drain)) = none)
    (hb : body (Claims.seenS s c w drain) (waited s.oracle c w drain) = .done s')
    (hs : (s'.crew? s.focus).elim (.ok s') s'.spill = .ok s') :
    runS s w drain len checks body = fin (s'.countWord s c 3) := by
  rw [runS_goes hc hn hw, hk, hb]
  simp only [hs]

/-- An S-instruction whose wait is not over parks the crew and does nothing else (R28). -/
theorem runS_waits {s : State} {c : Crew} {w drain : Bool} {len : Nat} {checks : State → Crew → List (Bool × Trap)} {body : State → Crew → Eff}
    (hc : s.crew? s.focus = some c) (hw : mayGo c w drain = false) :
    runS s w drain len checks body = fin (s.park s.focus c (if w then .marker .s else .stall .s)) := by
  unfold mayGo at hw
  simp only [runS, hc]
  rw [if_pos (by rwa [Bool.not_eq_false'] at hw)]

/-- An S-instruction one of whose checks fails takes that check's trap (R221). -/
theorem runS_traps {s : State} {c : Crew} {w drain : Bool} {len : Nat} {checks : State → Crew → List (Bool × Trap)} {body : State → Crew → Eff}
    {t : Trap} (hc : s.crew? s.focus = some c) (hn : c.stack.length ≤ 32) (hw : mayGo c w drain = true)
    (hk : firstFail (checks (Claims.seenS s c w drain) (waited s.oracle c w drain)) = some t) :
    runS s w drain len checks body = fin ((Claims.seenS s c w drain).takeTrap s.focus .s len t) := by
  rw [runS_goes hc hn hw, hk]

/-- An S-instruction whose effect is a trap, or meets one, takes it (R377). -/
theorem runS_body_traps {s : State} {c : Crew} {w drain : Bool} {len : Nat} {checks : State → Crew → List (Bool × Trap)}
    {body : State → Crew → Eff} {t : Trap} (hc : s.crew? s.focus = some c) (hn : c.stack.length ≤ 32) (hw : mayGo c w drain = true)
    (hk : firstFail (checks (Claims.seenS s c w drain) (waited s.oracle c w drain)) = none)
    (hb : body (Claims.seenS s c w drain) (waited s.oracle c w drain) = .trap t) :
    runS s w drain len checks body = fin ((Claims.seenS s c w drain).takeTrap s.focus .s len t) := by
  rw [runS_goes hc hn hw, hk, hb]

/-! ### L-words -/

/-- An L-word with W that finds an outstanding L pending write waits (R28). -/
theorem runL_waits {s : State} {c : Crew} {f : LF} {r : LRun} {rs : List LRun} {checks : State → Crew → List (Bool × Trap)}
    {body : State → Crew → LRun → W32 → Eff} (hc : s.crew? s.focus = some c) (hr : c.runs = r :: rs) (hw : f.w = true) (ho : c.out .l ≠ []) :
    runL s f checks body = fin (s.park s.focus c (.marker .l)) := by
  simp only [runL, hc, hr]
  rw [if_pos (by simp [hw, ho])]

/-- An L-word one of whose checks fails takes that check's trap (R221). -/
theorem runL_traps {s : State} {c : Crew} {f : LF} {r : LRun} {rs : List LRun} {checks : State → Crew → List (Bool × Trap)}
    {body : State → Crew → LRun → W32 → Eff} {t : Trap} (hc : s.crew? s.focus = some c) (hr : c.runs = r :: rs) (hw : f.w = true → c.out .l = [])
    (hk : firstFail (checks (Claims.seenL s c f) (waitedL s.oracle c f)) = some t) :
    runL s f checks body = fin ((Claims.seenL s c f).takeTrap s.focus .l 12 t) := by
  unfold Claims.seenL waitedL at hk ⊢
  simp only [runL, hc, hr]
  rw [if_neg (by cases hf : f.w <;> simp_all)]
  simp only [hk]

/-- An L-word whose effect meets a trap takes it (R377). -/
theorem runL_body_traps {s : State} {c : Crew} {f : LF} {r : LRun} {rs : List LRun} {checks : State → Crew → List (Bool × Trap)}
    {body : State → Crew → LRun → W32 → Eff} {t : Trap} (hc : s.crew? s.focus = some c) (hr : c.runs = r :: rs) (hw : f.w = true → c.out .l = [])
    (hk : firstFail (checks (Claims.seenL s c f) (waitedL s.oracle c f)) = none)
    (hb : body (Claims.seenL s c f) (waitedL s.oracle c f) r ((waitedL s.oracle c f).activeFor s.oracle r f) = .trap t) :
    runL s f checks body = fin ((Claims.seenL s c f).takeTrap s.focus .l 12 t) := by
  unfold Claims.seenL waitedL at hk hb ⊢
  simp only [runL, hc, hr]
  rw [if_neg (by cases hf : f.w <;> simp_all)]
  simp only [hk, hb]

/-- An S-instruction of a crew in focus ends in a next state, whatever it does. -/
theorem runS_fin {s : State} {c : Crew} (w drain : Bool) (len : Nat) (checks : State → Crew → List (Bool × Trap)) (body : State → Crew → Eff)
    (hc : s.crew? s.focus = some c) : ∃ s', runS s w drain len checks body = fin s' := by
  simp only [runS, hc]
  split
  · exact ⟨_, rfl⟩
  · split
    · exact ⟨_, rfl⟩
    · split
      · exact ⟨_, rfl⟩
      · split
        · exact ⟨_, rfl⟩
        · exact ⟨_, rfl⟩
        · split <;> exact ⟨_, rfl⟩

/-- An L-word of a crew in focus with a run ends in a next state, whatever it does. -/
theorem runL_fin {s : State} {c : Crew} {r : LRun} {rs : List LRun} (f : LF) (checks : State → Crew → List (Bool × Trap))
    (body : State → Crew → LRun → W32 → Eff) (hc : s.crew? s.focus = some c) (hr : c.runs = r :: rs) : ∃ s', runL s f checks body = fin s' := by
  simp only [runL, hc, hr]
  split
  · exact ⟨_, rfl⟩
  · split
    · exact ⟨_, rfl⟩
    · split <;> exact ⟨_, rfl⟩

/-- An L-word whose checks pass and whose effect completes. -/
theorem runL_done {s : State} {c : Crew} {f : LF} {r : LRun} {rs : List LRun} {checks : State → Crew → List (Bool × Trap)}
    {body : State → Crew → LRun → W32 → Eff} {s' : State} (hc : s.crew? s.focus = some c) (hr : c.runs = r :: rs)
    (hw : f.w = true → c.out .l = [])
    (hk : firstFail (checks (Claims.seenL s c f) (waitedL s.oracle c f)) = none)
    (hb : body (Claims.seenL s c f) (waitedL s.oracle c f) r ((waitedL s.oracle c f).activeFor s.oracle r f) = .done s') :
    runL s f checks body = fin ((s'.modCrew s.focus Crew.wordDone).countWord s c 2) := by
  unfold Claims.seenL waitedL at hk hb
  simp only [runL, hc, hr]
  rw [if_neg (by cases hf : f.w <;> simp_all)]
  simp only [hk, hb]

end Sys2Proof.Machine
end

