-- ==== Sys2Proof/Laws/Order.lean ====
section
/-! SUPPORT. What the operations on the graph of accesses change (04): a read or a fence the graph alone, a write the graph, the orders of its bytes
and the bytes. -/

namespace Sys2Proof.Machine

/-! ### Happens-before -/

theorem push_eq (s : State) (e : Ev) : ∃ v, s.push e = { s with evs := v } := ⟨_, rfl⟩
theorem setEv_eq (s : State) (e : Ev) : ∃ v, s.setEv e = { s with evs := v } := ⟨_, rfl⟩

theorem closing_eq : ∀ (n : Nat) (s : State), ∃ v, s.closing n = { s with evs := v }
  | 0, s => ⟨s.evs, rfl⟩
  | n + 1, s => by
    unfold State.closing
    dsimp only
    split
    · exact ⟨s.evs, rfl⟩
    · obtain ⟨v, hv⟩ := evs_foldl (fun (t : State) (i : Nat) => t.setEv { t.ev i with hb := t.hbOf false (t.ev i), hbScr := t.hbOf true (t.ev i) })
        (fun t i => setEv_eq t _) (List.range s.evs.length) s
      obtain ⟨w, hw⟩ := closing_eq n { s with evs := v }
      exact ⟨w, by rw [hv, hw]⟩

/-- Closing the graph changes only the events. -/
theorem close_eq (s : State) : ∃ v, s.close = { s with evs := v } := by
  obtain ⟨v, hv⟩ := closing_eq (s.evs.length + 1) { s with evs := s.evs.map (fun (e : Ev) => { e with hb := 0, hbScr := 0 }) }
  exact ⟨v, hv⟩

/-! ### Reads and fences -/

/-- A read changes only the events. -/
theorem enterRead_eq (s : State) (e : Ev) : ∃ v, s.enterRead e = { s with evs := v } := by
  unfold State.enterRead
  dsimp only
  split
  · exact close_eq (s.push _)
  · exact push_eq s _

/-- A read that looks again changes only the events. -/
theorem lookAgain_eq (s : State) (i : Nat) : ∃ v, s.lookAgain i = { s with evs := v } := by
  unfold State.lookAgain
  dsimp only
  split
  · exact ⟨s.evs, rfl⟩
  · split
    · exact ⟨s.evs, rfl⟩
    · exact close_eq (s.setEv _)

theorem readAt_eq (s : State) (place : Ev) (y : Sync) (bs : List ByteAt) : ∃ v, (s.readAt place y bs).1 = { s with evs := v } := by
  have key : ∀ (l : List (List (ByteAt × EvByte))) (p : State × List Nat), ∃ v, (l.foldl (fun (p : State × List Nat) part =>
      (p.1.enterRead (Ev.access place y part), p.2 ++ [p.1.evs.length])) p).1 = { p.1 with evs := v } := by
    intro l
    induction l with
    | nil => intro p; exact ⟨p.1.evs, rfl⟩
    | cons x l ih =>
      intro p
      obtain ⟨v, hv⟩ := enterRead_eq p.1 (Ev.access place y x)
      obtain ⟨w, hw⟩ := ih (p.1.enterRead (Ev.access place y x), p.2 ++ [p.1.evs.length])
      exact ⟨w, by rw [List.foldl_cons, hw, hv]⟩
  exact key _ (s, [])

/-- Reading ranges changes only the events. -/
theorem readRanges_eq (s : State) (place : Ev) (ctx : Nat) (words : Bool) (ranges : List (Nat × Nat)) :
    ∃ v, (s.readRanges place ctx words ranges).1 = { s with evs := v } := by
  have key : ∀ (l : List (Nat × Nat)) (p : State × List (List Nat)), ∃ v, (l.foldl (fun (p : State × List (List Nat)) r => match p.1.access ctx .engine r.1 r.2 with
      | .error _ => (p.1, p.2 ++ [[]])
      | .ok ps =>
        let q := p.1.readAt place Sync.plain
          (p.1.bytesWith ctx .glb r.1 (fun i => if words then wordUnit r.1 r.2 i else 0) ((paList ps).map Loc.mem))
        (q.1, p.2 ++ [q.2])) p).1 = { p.1 with evs := v } := by
    intro l
    induction l with
    | nil => intro p; exact ⟨p.1.evs, rfl⟩
    | cons r l ih =>
      intro p
      rw [List.foldl_cons]
      cases p.1.access ctx .engine r.1 r.2 with
      | error f => exact ih (p.1, p.2 ++ [[]])
      | ok ps =>
        dsimp only
        obtain ⟨v, hv⟩ := readAt_eq p.1 place Sync.plain
          (p.1.bytesWith ctx .glb r.1 (fun i => if words then wordUnit r.1 r.2 i else 0) ((paList ps).map Loc.mem))
        obtain ⟨w, hw⟩ := ih ((p.1.readAt place Sync.plain
          (p.1.bytesWith ctx .glb r.1 (fun i => if words then wordUnit r.1 r.2 i else 0) ((paList ps).map Loc.mem))).1, p.2 ++ [(p.1.readAt place Sync.plain
          (p.1.bytesWith ctx .glb r.1 (fun i => if words then wordUnit r.1 r.2 i else 0) ((paList ps).map Loc.mem))).2])
        exact ⟨w, by rw [hw, hv]⟩
  exact key _ (s, [])

/-- The loads of a command that look at memory change only the events. -/
theorem proceed_eq (s : State) (k : Cmd) (trig : List Nat) : ∃ v, (s.proceed k trig).1 = { s with evs := v } := by
  unfold State.proceed
  dsimp only
  split
  · split
    · exact ⟨s.evs, rfl⟩
    · exact readRanges_eq ..
  · exact ⟨s.evs, rfl⟩

theorem readCmd_eq (s : State) (k : Cmd) : ∃ v, (s.readCmd k).1 = { s with evs := v } := by
  unfold State.readCmd
  split
  · exact evs_foldl _ lookAgain_eq _ _
  · exact proceed_eq s k []

/-- A fence changes only the events and the order of the SC fences. -/
theorem enterFence_eq (s : State) (e : Ev) : ∃ v sc, s.enterFence e = { s with evs := v, scs := sc } := by
  have put : ∀ (t : State) (sc : List Nat), (∃ v, t = { s with evs := v }) → ∃ v sc', ({ t with scs := sc } : State).close = { s with evs := v, scs := sc' } := by
    rintro t sc ⟨v, rfl⟩
    obtain ⟨w, hw⟩ := close_eq { s with evs := v, scs := sc }
    exact ⟨w, sc, hw⟩
  unfold State.enterFence
  dsimp only
  split
  · exact ⟨_, s.scs, rfl⟩
  · split <;> exact put _ _ (push_eq s e)

/-- Accesses that end and streams that meet change only the events and the places of the streams. -/
theorem finish_eq (s : State) (st : Stream) (mine : Ev → Bool) : ∃ v, s.finish st mine = { s with evs := v } := ⟨_, rfl⟩
theorem joinStreams_eq (s : State) (k : Nat) : s.joinStreams k = { s with joins := tset s.joins k s.evs.length } := rfl

/-! ### Writes -/

/-- A run of insertions changes only the orders. -/
theorem inserts_eq (at_ : Nat → Nat) (ids : Nat → List Nat) : ∀ (ks : List Nat) (s : State),
    ∃ o, ks.foldl (fun (t : State) k => t.insert k (at_ k) (ids k)) s = { s with orders := o }
  | [], s => ⟨s.orders, rfl⟩
  | k :: ks, s => by
    obtain ⟨o, ho⟩ := inserts_eq at_ ids ks (s.insert k (at_ k) (ids k))
    exact ⟨o, by rw [List.foldl_cons, ho]; rfl⟩

/-- The device's choice of places is one of the graphs in question, closed or not. -/
theorem choosePlaces_eq (s : State) (keys : List Nat) (cs : Nat → List Nat) (graph : (Nat → Nat) → State)
    (h : ∀ f, ∃ v o, graph f = { s with evs := v, orders := o }) : ∃ v o, s.choosePlaces keys cs graph = { s with evs := v, orders := o } := by
  unfold State.choosePlaces
  dsimp only
  split
  · exact h _
  · split
    · obtain ⟨v, o, hv⟩ := h (fun k => choose s.oracle 32 k ((s.order k).length) (cs k))
      obtain ⟨w, hw⟩ := close_eq (graph (fun k => choose s.oracle 32 k ((s.order k).length) (cs k)))
      exact ⟨w, o, by rw [hw, hv]⟩
    · exact h _

/-- What writes change besides the graph: bytes of memory written, and bytes of scratch. -/
def Bytes (s t : State) : Prop := ∃ w g x, t = { s with writes := w, wgs := g, gangs := x }

theorem Bytes.refl (s : State) : Bytes s s := ⟨_, _, _, rfl⟩
theorem Bytes.trans {s t u : State} (a : Bytes s t) (b : Bytes t u) : Bytes s u := by
  obtain ⟨_, _, _, rfl⟩ := a
  obtain ⟨w, g, x, rfl⟩ := b
  exact ⟨w, g, x, rfl⟩

theorem bytes_foldl {β : Type} (f : State → β → State) (h : ∀ s b, Bytes s (f s b)) : ∀ (l : List β) (s : State), Bytes s (l.foldl f s)
  | [], s => .refl s
  | b :: t, s => (h s b).trans (bytes_foldl f h t (f s b))

theorem putLoc_bytes (s : State) (l : Loc) (v : Byte) : Bytes s (s.putLoc l v) := by
  cases l <;> exact ⟨_, _, _, rfl⟩

theorem putUnit_bytes (s : State) (xs : List (Nat × Byte)) : Bytes s (s.putUnit xs) := by
  have h : ∀ ys : List (Nat × Byte), Bytes s (ys.foldl (fun (s : State) x => s.putLoc (locOf x.1) x.2) s) := fun ys => bytes_foldl _ (fun s x => putLoc_bytes s _ _) ys s
  unfold State.putUnit
  dsimp only
  split
  · exact h _
  · exact (h _).trans ⟨_, _, _, rfl⟩

theorem stand_bytes (s : State) (ids : List Nat) : Bytes s (s.stand ids) :=
  bytes_foldl _ (fun _ _ => bytes_foldl _ (fun s _ => putUnit_bytes s _) _ _) ids s

/-- Writes of one instruction change the graph, the orders of bytes, and bytes. -/
theorem enterWrites_eq (s : State) (es : List Ev) :
    ∃ v o w g x, s.enterWrites es = { s with evs := v, orders := o, writes := w, wgs := g, gangs := x } := by
  have graph : ∀ (evs : List Ev) (at_ : Nat → Nat) (ids : Nat → List Nat) (g : Ev → Ev) (ks : List Nat), ∃ v o,
      ks.foldl (fun (t : State) k => t.insert k (at_ k) (ids k)) (evs.foldl (fun (t : State) e => t.push (g e)) s) = { s with evs := v, orders := o } := by
    intro evs at_ ids g ks
    obtain ⟨v, hv⟩ := evs_foldl (fun (t : State) e => t.push (g e)) (fun t e => push_eq t _) evs s
    obtain ⟨o, ho⟩ := inserts_eq at_ ids ks { s with evs := v }
    exact ⟨v, o, by rw [hv, ho]⟩
  have stands : ∀ (t : State) (ids : List Nat), (∃ v o, t = { s with evs := v, orders := o }) →
      ∃ v o w g x, t.stand ids = { s with evs := v, orders := o, writes := w, wgs := g, gangs := x } := by
    rintro t ids ⟨v, o, rfl⟩
    obtain ⟨w, g, x, h⟩ := stand_bytes { s with evs := v, orders := o } ids
    exact ⟨v, o, w, g, x, h⟩
  exact stands _ _ (choosePlaces_eq s _ _ _ (fun f => graph _ f _ _ _))

/-- An engine's write changes the same. -/
theorem engineWrite_eq (s : State) (place : Ev) (y : Sync) (ctx va : Nat) (words : Bool) (ps : List (Nat × Nat)) (bs : List Byte) :
    ∃ v o w g x, s.engineWrite place y ctx va words ps bs = { s with evs := v, orders := o, writes := w, wgs := g, gangs := x } := enterWrites_eq _ _

/-- An update changes the same. -/
theorem enterUpdate_eq (s : State) (e : Ev) (f : List Byte → List Byte) :
    ∃ v o w g x, s.enterUpdate e f = { s with evs := v, orders := o, writes := w, wgs := g, gangs := x } := by
  have graph : ∀ (e : Ev) (at_ : Nat → Nat) (ids : Nat → List Nat) (ks : List Nat), ∃ v o,
      ks.foldl (fun (t : State) k => t.insert k (at_ k) (ids k)) (s.push e) = { s with evs := v, orders := o } := by
    intro e at_ ids ks
    obtain ⟨v, hv⟩ := push_eq s e
    obtain ⟨o, ho⟩ := inserts_eq at_ ids ks { s with evs := v }
    exact ⟨v, o, by rw [hv, ho]⟩
  have stands : ∀ (t : State) (x : Ev) (ids : List Nat), (∃ v o, t = { s with evs := v, orders := o }) →
      ∃ v o w g y, (t.setEv x).stand ids = { s with evs := v, orders := o, writes := w, wgs := g, gangs := y } := by
    rintro t x ids ⟨v, o, rfl⟩
    obtain ⟨v2, hv⟩ := setEv_eq { s with evs := v, orders := o } x
    obtain ⟨w, g, y, h⟩ := stand_bytes { s with evs := v2, orders := o } ids
    exact ⟨v2, o, w, g, y, by rw [hv, h]⟩
  unfold State.enterUpdate
  dsimp only
  split
  · exact stands _ _ _ (graph _ (fun k => (s.order k).length) (fun _ => [_]) _)
  · exact stands _ _ _ (choosePlaces_eq s _ _ _ (fun f => graph _ f (fun _ => [_]) _))

/-! ### Which bytes an operation reaches -/

/-- An event's number is its place (`GraphOk.ids`). -/
def Numbered (s : State) : Prop := ∀ (i : Nat) (e : Ev), s.evs[i]? = some e → e.id = i

/-- The events from n on name only bytes of P. -/
def Within (n : Nat) (P : Nat → Prop) (s : State) : Prop := ∀ e ∈ s.evs, n ≤ e.id → ∀ b ∈ e.bytes, P b.key

theorem numbered_ev {s : State} (h : Numbered s) {i : Nat} (hi : i < s.evs.length) : (s.ev i).id = i := by
  have : s.evs[i]? = some (s.ev i) := by simp [State.ev, hi]
  exact h i _ this

theorem within_ev {n : Nat} {P : Nat → Prop} {s : State} (h : Within n P s) (i : Nat) (hi : n ≤ (s.ev i).id) : ∀ b ∈ (s.ev i).bytes, P b.key := by
  by_cases hl : i < s.evs.length
  · have he : s.ev i = s.evs[i] := by simp [State.ev, hl]
    rw [he] at hi ⊢
    exact h _ (List.getElem_mem hl) hi
  · simp [State.ev, List.getElem?_eq_none (Nat.le_of_not_lt hl), Ev.blank]

theorem numbered_push {s : State} (h : Numbered s) (e : Ev) : Numbered (s.push e) := by
  intro i x hx
  simp only [State.push] at hx
  rcases Nat.lt_trichotomy i s.evs.length with hi | hi | hi
  · rw [List.getElem?_append_left hi] at hx
    exact h i x hx
  · subst hi
    rw [List.getElem?_append_right (Nat.le_refl _)] at hx
    simp at hx
    rw [← hx]
  · rw [List.getElem?_append_right (by omega)] at hx
    rw [List.getElem?_eq_none (by simp; omega)] at hx
    cases hx

theorem within_push {n : Nat} {P : Nat → Prop} {s : State} (h : Within n P s) {e : Ev} (he : ∀ b ∈ e.bytes, P b.key) : Within n P (s.push e) := by
  intro x hx hn
  simp only [State.push, List.mem_append, List.mem_singleton] at hx
  rcases hx with hx | rfl
  · exact h x hx hn
  · exact he

theorem numbered_setEv {s : State} (h : Numbered s) (e : Ev) : Numbered (s.setEv e) := by
  intro i x hx
  simp only [State.setEv, List.getElem?_map, Option.map_eq_some_iff] at hx
  obtain ⟨y, hy, rfl⟩ := hx
  split
  · next hi => rw [← hi]; exact h i y hy
  · exact h i y hy

theorem within_setEv {n : Nat} {P : Nat → Prop} {s : State} (h : Within n P s) {e : Ev} (he : n ≤ e.id → ∀ b ∈ e.bytes, P b.key) : Within n P (s.setEv e) := by
  intro x hx hn
  simp only [State.setEv, List.mem_map] at hx
  obtain ⟨y, hy, rfl⟩ := hx
  by_cases hi : y.id = e.id
  · rw [if_pos hi] at hn ⊢
    exact he hn
  · rw [if_neg hi] at hn ⊢
    exact h y hy hn

theorem closing_keeps {n : Nat} {P : Nat → Prop} : ∀ (k : Nat) (s : State), Numbered s → Within n P s → Numbered (s.closing k) ∧ Within n P (s.closing k)
  | 0, _, hn, hw => ⟨hn, hw⟩
  | k + 1, s, hn, hw => by
    unfold State.closing
    dsimp only
    split
    · exact ⟨hn, hw⟩
    · have key : ∀ (l : List Nat) (t : State), Numbered t → Within n P t →
          Numbered (l.foldl (fun (t : State) (i : Nat) => t.setEv { t.ev i with hb := t.hbOf false (t.ev i), hbScr := t.hbOf true (t.ev i) }) t)
            ∧ Within n P (l.foldl (fun (t : State) (i : Nat) => t.setEv { t.ev i with hb := t.hbOf false (t.ev i), hbScr := t.hbOf true (t.ev i) }) t) := by
        intro l
        induction l with
        | nil => intro t a b; exact ⟨a, b⟩
        | cons i l ih => intro t a b; exact ih _ (numbered_setEv a _) (within_setEv b (within_ev b i))
      obtain ⟨a, b⟩ := key (List.range s.evs.length) s hn hw
      exact closing_keeps k _ a b

/-- Closing the graph keeps its numbers and its bytes. -/
theorem close_keeps {n : Nat} {P : Nat → Prop} {s : State} (hn : Numbered s) (hw : Within n P s) : Numbered s.close ∧ Within n P s.close := by
  refine closing_keeps _ _ ?_ ?_
  · intro i e he
    simp only [List.getElem?_map, Option.map_eq_some_iff] at he
    obtain ⟨y, hy, rfl⟩ := he
    exact hn i y hy
  · intro e he hi
    simp only [List.mem_map] at he
    obtain ⟨y, hy, rfl⟩ := he
    exact hw y hy hi

/-! ### Bytes that a write leaves -/

theorem tget?_tmod_other {α : Type} (t : Tbl α) (k j : Nat) (f : α → α) (h : j ≠ k) : tget? (tmod t k f) j = tget? t j := by
  unfold tmod
  split
  · exact tget?_tset_other _ _ _ _ h
  · rfl

theorem tget?_tmod_same {α : Type} (t : Tbl α) (k : Nat) (f : α → α) : tget? (tmod t k f) k = (tget? t k).map f := by
  unfold tmod
  split
  · next v hv => simp [hv]
  · next hv => simp [hv]

/-- A write to one place leaves every other place. -/
theorem getLoc_putLoc_other (s : State) (l m : Loc) (v : Byte) (h : m ≠ l) : (s.putLoc l v).getLoc m = s.getLoc m := by
  cases l with
  | mem a =>
    cases m with
    | mem b =>
      have hb : b ≠ a := fun hb => h (by rw [hb])
      show (s.wr a v).rd b = s.rd b
      rw [rd_wr, if_neg hb]
    | scr g o => rfl
    | left k i o => rfl
  | scr g o =>
    cases m with
    | mem b => rfl
    | left k i p => rfl
    | scr g2 p =>
      show (tget? (tmod s.wgs g _) g2).elim 0 (fun w => _) = (tget? s.wgs g2).elim 0 (fun w => s.scrByte g2 w p)
      by_cases hg : g2 = g
      · subst hg
        have hp : p ≠ o := fun hp => h (by rw [hp])
        rw [tget?_tmod_same]
        cases tget? s.wgs g2 with
        | none => rfl
        | some w =>
          show (match tget? (tset w.scratch o v) p with
            | some v => v
            | none => _) = _
          rw [tget?_tset_other _ _ _ _ hp]
          rfl
      · rw [tget?_tmod_other _ _ _ _ hg]
        rfl
  | left k i o =>
    cases m with
    | mem b => rfl
    | scr g p => rfl
    | left k2 j p =>
      show (tget? (tmod s.gangs k _) k2).elim 0 (fun x => tget 0 (tget [] x.left j) p) = (tget? s.gangs k2).elim 0 (fun x => tget 0 (tget [] x.left j) p)
      by_cases hk : k2 = k
      · subst hk
        rw [tget?_tmod_same]
        cases tget? s.gangs k2 with
        | none => rfl
        | some x =>
          simp only [Option.map_some, Option.elim_some, tget_tset]
          by_cases hj : j = i
          · subst hj
            have hp : p ≠ o := fun hp => h (by rw [hp])
            simp [tget_tset, hp]
          · simp [hj]
      · rw [tget?_tmod_other _ _ _ _ hk]

/-- Bytes written together leave every place that none of them names. -/
theorem getLoc_putUnit_other (s : State) (xs : List (Nat × Byte)) (m : Loc) (h : ∀ x ∈ xs, locOf x.1 ≠ m) : (s.putUnit xs).getLoc m = s.getLoc m := by
  have key : ∀ (ys : List (Nat × Byte)) (t : State), (∀ x ∈ ys, locOf x.1 ≠ m) → (ys.foldl (fun (s : State) x => s.putLoc (locOf x.1) x.2) t).getLoc m = t.getLoc m := by
    intro ys
    induction ys with
    | nil => intro t _; rfl
    | cons y ys ih =>
      intro t hy
      rw [List.foldl_cons, ih _ (fun x hx => hy x (List.mem_cons_of_mem _ hx))]
      exact getLoc_putLoc_other _ _ _ _ (Ne.symm (hy y (List.mem_cons_self ..)))
  unfold State.putUnit
  dsimp only
  have h1 := key (xs.filter (fun x => !decide (x.1 < scrBase))) s (fun x hx => h x (List.mem_filter.1 hx).1)
  split
  · exact h1
  · rw [← h1]
    cases m with
    | scr g o => rfl
    | left k i o => rfl
    | mem b =>
      show (State.wrUnit _ _).rd b = State.rd _ b
      unfold State.rd State.wrUnit
      rw [List.flatten_cons, List.find?_append, List.find?_eq_none.2]
      · rfl
      · intro x hx
        have hl := List.mem_filter.1 hx
        have := h x hl.1
        simp only [locOf, of_decide_eq_true hl.2, if_true] at this
        simpa using this

theorem evUnits_mem (xs : List EvByte) : ∀ u ∈ evUnits xs, ∀ b ∈ u, b ∈ xs := by
  have key : ∀ (ys : List EvByte) (out : List (List EvByte)), (∀ u ∈ out, ∀ b ∈ u, b ∈ xs) → (∀ y ∈ ys, y ∈ xs) →
      ∀ u ∈ ys.foldl (fun (out : List (List EvByte)) b =>
        match out.getLast?.bind List.head? with
        | some a => if a.unit ≠ 0 && a.unit = b.unit then out.dropLast ++ [(out.getLast?.getD []) ++ [b]] else out ++ [[b]]
        | none => out ++ [[b]]) out, ∀ b ∈ u, b ∈ xs := by
    intro ys
    induction ys with
    | nil => intro out h _; exact h
    | cons y ys ih =>
      intro out h hy
      rw [List.foldl_cons]
      refine ih _ ?_ (fun z hz => hy z (List.mem_cons_of_mem _ hz))
      have hy0 := hy y (List.mem_cons_self ..)
      have one : ∀ u ∈ out ++ [[y]], ∀ b ∈ u, b ∈ xs := by
        intro u hu b hb
        rcases List.mem_append.1 hu with hu | hu
        · exact h u hu b hb
        · rw [List.mem_singleton.1 hu] at hb
          rw [List.mem_singleton.1 hb]
          exact hy0
      split
      · split
        · intro u hu b hb
          rcases List.mem_append.1 hu with hu | hu
          · exact h u (List.dropLast_subset _ hu) b hb
          · rw [List.mem_singleton.1 hu] at hb
            rcases List.mem_append.1 hb with hb | hb
            · cases ho : out.getLast? with
              | none => simp [ho] at hb
              | some w =>
                simp only [ho, Option.getD_some] at hb
                exact h w (List.mem_of_getLast? ho) b hb
            · rw [List.mem_singleton.1 hb]
              exact hy0
        · exact one
      · exact one
  exact key xs [] (by simp) (fun _ h => h)

/-- What stands last is written only at the bytes of the events. -/
theorem getLoc_stand_other (m : Loc) : ∀ (ids : List Nat) (s : State), (∀ i ∈ ids, ∀ b ∈ (s.ev i).bytes, locOf b.key ≠ m) → (s.stand ids).getLoc m = s.getLoc m
  | [], _, _ => rfl
  | i :: ids, s, h => by
    have units : ∀ (us : List (List EvByte)) (t : State), (∀ u ∈ us, ∀ b ∈ u, locOf b.key ≠ m) →
        (us.foldl (fun (s : State) u => s.putUnit (u.filterMap (fun b => if (s.order b.key).getLast? = some i then b.wr.map (fun v => (b.key, v)) else none))) t).getLoc m
          = t.getLoc m := by
      intro us
      induction us with
      | nil => intro t _; rfl
      | cons u us ih =>
        intro t hu
        rw [List.foldl_cons, ih _ (fun x hx => hu x (List.mem_cons_of_mem _ hx))]
        refine getLoc_putUnit_other _ _ _ (fun x hx => ?_)
        obtain ⟨b, hb, hbx⟩ := List.mem_filterMap.1 hx
        split at hbx
        · obtain ⟨v, _, rfl⟩ := Option.map_eq_some_iff.1 hbx
          exact hu u (List.mem_cons_self ..) b hb
        · cases hbx
    have same : ∀ (t u : State), Bytes t u → u.evs = t.evs := by
      rintro t u ⟨w, g, x, rfl⟩
      rfl
    have hb : Bytes s ((evUnits (s.ev i).bytes).foldl (fun (s : State) u =>
        s.putUnit (u.filterMap (fun b => if (s.order b.key).getLast? = some i then b.wr.map (fun v => (b.key, v)) else none))) s) :=
      bytes_foldl _ (fun s _ => putUnit_bytes s _) _ s
    show (State.stand _ ids).getLoc m = _
    rw [getLoc_stand_other m ids _ (fun j hj b hb' => ?_)]
    · exact units _ s (fun u hu b hbu => h i (List.mem_cons_self ..) b (evUnits_mem _ u hu b hbu))
    · rw [State.ev, same _ _ hb] at hb'
      exact h j (List.mem_cons_of_mem _ hj) b hb'

theorem fresh_ev {n : Nat} {P : Nat → Prop} {s : State} (hn : Numbered s) (hw : Within n P s) {i : Nat} (hi : n ≤ i) : ∀ b ∈ (s.ev i).bytes, P b.key := by
  by_cases hl : i < s.evs.length
  · exact within_ev hw i (by rwa [numbered_ev hn hl])
  · simp [State.ev, List.getElem?_eq_none (Nat.le_of_not_lt hl), Ev.blank]

/-- What every graph in question has, and closing keeps, the chosen graph has. -/
theorem choosePlaces_keeps {Q : State → Prop} {s : State} {keys : List Nat} {cs : Nat → List Nat} {graph : (Nat → Nat) → State}
    (h : ∀ f, Q (graph f)) (hc : ∀ t, Q t → Q t.close) : Q (s.choosePlaces keys cs graph) := by
  unfold State.choosePlaces
  dsimp only
  split
  · exact h _
  · split
    · exact hc _ (h _)
    · exact h _

theorem getLoc_graph (s : State) (v : List Ev) (o : Tbl Order) (m : Loc) : ({ s with evs := v, orders := o } : State).getLoc m = s.getLoc m := by
  cases m <;> rfl

/-- Writes of one instruction leave every byte that none of them names, and the graph numbered. -/
theorem enterWrites_keeps {n : Nat} {P : Nat → Prop} {s : State} (hn : Numbered s) (hw : Within n P s) (hl : n ≤ s.evs.length) (es : List Ev)
    (he : ∀ e ∈ es, ∀ b ∈ e.bytes, P b.key) :
    Numbered (s.enterWrites es) ∧ Within n P (s.enterWrites es) ∧ ∀ m, (∀ k, P k → locOf k ≠ m) → (s.enterWrites es).getLoc m = s.getLoc m := by
  let Q (t : State) : Prop := (∃ v o, t = { s with evs := v, orders := o }) ∧ Numbered t ∧ Within n P t
  have pushes : ∀ (ks : List Nat) (xs : List Ev) (t : State), Q t → (∀ e ∈ xs, ∀ b ∈ e.bytes, P b.key) →
      Q (xs.foldl (fun (t : State) e => t.push { e with bytes := e.bytes.filter (fun b => ks.contains b.key) }) t) := by
    intro ks xs
    induction xs with
    | nil => intro t h _; exact h
    | cons x xs ih =>
      rintro t ⟨⟨v, o, rfl⟩, b, c⟩ d
      exact ih _ ⟨⟨_, o, rfl⟩, numbered_push b _, within_push c (fun b hb => d x (List.mem_cons_self ..) b (List.mem_filter.1 hb).1)⟩
        (fun e h => d e (List.mem_cons_of_mem _ h))
  have inserts : ∀ (at_ : Nat → Nat) (ids : Nat → List Nat) (ks : List Nat) (t : State), Q t →
      Q (ks.foldl (fun (t : State) k => t.insert k (at_ k) (ids k)) t) := by
    rintro at_ ids ks t ⟨⟨v, o, rfl⟩, b, c⟩
    obtain ⟨o2, ho⟩ := inserts_eq at_ ids ks { s with evs := v, orders := o }
    rw [ho]
    exact ⟨⟨v, o2, rfl⟩, b, c⟩
  have closes : ∀ t, Q t → Q t.close := by
    rintro t ⟨⟨v, o, rfl⟩, b, c⟩
    obtain ⟨w, hv⟩ := close_eq { s with evs := v, orders := o }
    exact ⟨⟨w, o, hv⟩, close_keeps b c⟩
  have stands : ∀ (t : State) (ids : List Nat), Q t → (∀ i ∈ ids, n ≤ i) →
      Numbered (t.stand ids) ∧ Within n P (t.stand ids) ∧ ∀ m, (∀ k, P k → locOf k ≠ m) → (t.stand ids).getLoc m = s.getLoc m := by
    rintro t ids ⟨⟨v, o, rfl⟩, b, c⟩ hi
    have hs := fun m (hm : ∀ k, P k → locOf k ≠ m) => getLoc_stand_other m ids { s with evs := v, orders := o } (fun i h x hx => hm _ (fresh_ev b c (hi i h) x hx))
    obtain ⟨w, g, x, h⟩ := stand_bytes { s with evs := v, orders := o } ids
    refine ⟨?_, ?_, fun m hm => by rw [hs m hm, getLoc_graph]⟩
    · rw [h]; exact b
    · rw [h]; exact c
  unfold State.enterWrites
  dsimp only
  refine stands _ _ (choosePlaces_keeps (fun f => inserts _ _ _ _ (pushes _ _ _ ⟨⟨s.evs, s.orders, rfl⟩, hn, hw⟩ ?_)) closes) ?_
  · intro e h
    obtain ⟨x, hx, rfl⟩ := List.mem_map.1 h
    exact he x.2 (List.of_mem_zip hx).2
  · intro i h
    obtain ⟨e, h2, hi⟩ := List.mem_map.1 h
    obtain ⟨x, _, rfl⟩ := List.mem_map.1 h2
    rw [← hi]
    show n ≤ s.evs.length + x.1
    omega

/-- The events of bytes written from a place name those bytes. -/
theorem writesAt_names (place : Ev) (y : Sync) (bs : List ByteAt) (vals : List Byte) :
    ∀ e ∈ writesAt place y bs vals, ∀ b ∈ e.bytes, ∃ x ∈ bs, x.key = b.key := by
  intro e he b hb
  obtain ⟨part, hp, rfl⟩ := List.mem_map.1 he
  simp only [byPage, List.mem_map] at hp
  obtain ⟨q, _, rfl⟩ := hp
  obtain ⟨x, hx, rfl⟩ := List.mem_map.1 hb
  obtain ⟨z, hz, rfl⟩ := List.mem_map.1 (List.mem_filter.1 hx).1
  exact ⟨z.1, (List.of_mem_zip hz).1, rfl⟩

theorem bytesWith_names (s : State) (ctx : Nat) (sp : Space) (addr : Nat) (unit : Nat → Nat) (ls : List Loc) :
    ∀ x ∈ s.bytesWith ctx sp addr unit ls, ∃ l ∈ ls, x.key = l.key := by
  intro x hx
  simp only [State.bytesWith, List.mem_map] at hx
  obtain ⟨z, hz, rfl⟩ := hx
  exact ⟨z.2, (List.of_mem_zip hz).2, rfl⟩

/-- An engine's write leaves every byte of memory outside its pieces, and the graph numbered. -/
theorem engineWrite_keeps {n : Nat} {P : Nat → Prop} {s : State} (hn : Numbered s) (hw : Within n P s) (hl : n ≤ s.evs.length) (place : Ev) (y : Sync) (ctx va : Nat)
    (words : Bool) (ps : List (Nat × Nat)) (bs : List Byte) (hp : ∀ a ∈ paList ps, P a) :
    let t := s.engineWrite place y ctx va words ps bs
    Numbered t ∧ Within n P t ∧ ∀ m, (∀ k, P k → locOf k ≠ m) → t.getLoc m = s.getLoc m := by
  refine enterWrites_keeps hn hw hl _ (fun e he b hb => ?_)
  obtain ⟨x, hx, hk⟩ := writesAt_names _ _ _ _ e he b hb
  obtain ⟨l, hm, hk2⟩ := bytesWith_names _ _ _ _ _ _ x hx
  obtain ⟨a, ha, rfl⟩ := List.mem_map.1 hm
  rw [← hk, hk2]
  exact hp a ha

end Sys2Proof.Machine
end

