-- ==== Sys2Proof/Laws/PerInstr.lean ====
section
/-! SUPPORT. For every constructor of Instr: the word that the encoder gives it is 32, 64 or 96 bits wide and holds no more (R222, R225). -/

namespace Sys2Proof.Laws.Encodes
open Sys2Proof

/-- A well-formed instruction that has a word has one of 32, 64 or 96 bits. -/
def Statement (i : Instr) : Prop := i.wf = true → ∀ n w, encode i = some (n, w) → (n = 32 ∨ n = 64 ∨ n = 96) ∧ w < 2 ^ n

theorem of_word {i : Instr} {n w : Nat} (he : encode i = some (n, w)) (hn : n = 32 ∨ n = 64 ∨ n = 96) (hw : i.wf = true → w < 2 ^ n) : Statement i := by
  intro h m x hx
  rw [he] at hx
  cases hx
  exact ⟨hn, hw h⟩

theorem of_none {i : Instr} (he : encode i = none) : Statement i := by
  intro _ m x hx
  rw [he] at hx
  cases hx

theorem wBit_le (w : Bool) (n : Nat) : wBit w n ≤ 2 ^ n := by cases w <;> simp [wBit]

theorem sa_lt (op : Nat) (a : SA) (ho : op < 128) (h : a.wf = true) : a.toWord op < 2 ^ 32 := by
  have := wBit_le a.w 31
  simp only [SA.wf, below, Bool.and_eq_true, decide_eq_true_eq] at h
  unfold SA.toWord
  omega
theorem si_lt (op : Nat) (a : SI) (ho : op < 128) (h : a.wf = true) : a.toWord op < 2 ^ 32 := by
  have := wBit_le a.w 31
  simp only [SI.wf, below, Bool.and_eq_true, decide_eq_true_eq] at h
  unfold SI.toWord
  omega
theorem sj_lt (op : Nat) (a : SJ) (ho : op < 128) (h : a.wf = true) : a.toWord op < 2 ^ 32 := by
  have := wBit_le a.w 31
  simp only [SJ.wf, below, Bool.and_eq_true, decide_eq_true_eq] at h
  unfold SJ.toWord
  omega
theorem sl_lt (op : Nat) (a : SL) (ho : op < 128) (h : a.wf = true) : a.toWord op < 2 ^ 32 := by
  have := wBit_le a.w 31
  simp only [SL.wf, below, Bool.and_eq_true, decide_eq_true_eq] at h
  unfold SL.toWord
  omega
theorem sm_lt (op : Nat) (a : SM) (ho : op < 128) (h : a.wf = true) : a.toWord op < 2 ^ 32 := by
  have := wBit_le a.w 31
  simp only [SM.wf, below, Bool.and_eq_true, decide_eq_true_eq] at h
  unfold SM.toWord
  omega
theorem sm6_lt (op : Nat) (a : SM6) (ho : op < 128) (h : a.wf = true) : a.toWord op < 2 ^ 32 := by
  have := wBit_le a.w 31
  simp only [SM6.wf, below, Bool.and_eq_true, decide_eq_true_eq] at h
  unfold SM6.toWord
  omega
theorem sb_lt (op : Nat) (a : SB) (ho : op < 128) (h : a.wf = true) : a.toWord op < 2 ^ 32 := by
  have := wBit_le a.w 31
  simp only [SB.wf, below, Bool.and_eq_true, decide_eq_true_eq] at h
  unfold SB.toWord
  omega
theorem sp_lt (op : Nat) (a : SP) (ho : op < 128) (h : a.wf = true) : a.toWord op < 2 ^ 32 := by
  have := wBit_le a.w 31
  simp only [SP.wf, below, Bool.and_eq_true, decide_eq_true_eq] at h
  unfold SP.toWord
  omega
theorem sf_lt (op : Nat) (a : SF) (ho : op < 128) (h : a.wf = true) : a.toWord op < 2 ^ 32 := by
  have := wBit_le a.w 31
  simp only [SF.wf, below, Bool.and_eq_true, decide_eq_true_eq] at h
  unfold SF.toWord
  omega
theorem sr_lt (op : Nat) (a : SR) (ho : op < 128) (h : a.wf = true) : a.toWord op < 2 ^ 32 := by
  have := wBit_le a.w 31
  simp only [SR.wf, below, decide_eq_true_eq] at h
  unfold SR.toWord
  omega
theorem sx_lt (op : Nat) (a : SX) (ho : op < 128) (h : a.wf = true) : a.toWord op < 2 ^ 64 := by
  have := wBit_le a.w 31
  simp only [SX.wf, below, Bool.and_eq_true, decide_eq_true_eq] at h
  unfold SX.toWord
  omega
theorem lf_lt (op : Nat) (f : LF) (ho : op < 512) (h : f.wf = true) : f.toWord op < 2 ^ 96 := by
  have h1 := wBit_le f.w 95
  have h2 := wBit_le f.gn 82
  have h3 := wBit_le f.sat 43
  simp only [LF.wf, below, Bool.and_eq_true, decide_eq_true_eq] at h
  unfold LF.toWord
  omega

theorem saddR (a : SA) : Statement (.saddR a) := of_word rfl (Or.inl rfl) (sa_lt _ a (by decide))
theorem saddI (a : SI) : Statement (.saddI a) := of_word rfl (Or.inl rfl) (si_lt _ a (by decide))
theorem ssub (a : SA) : Statement (.ssub a) := of_word rfl (Or.inl rfl) (sa_lt _ a (by decide))
theorem smulR (a : SA) : Statement (.smulR a) := of_word rfl (Or.inl rfl) (sa_lt _ a (by decide))
theorem smulI (a : SI) : Statement (.smulI a) := of_word rfl (Or.inl rfl) (si_lt _ a (by decide))
theorem smulhI (a : SA) : Statement (.smulhI a) := of_word rfl (Or.inl rfl) (sa_lt _ a (by decide))
theorem smulhN (a : SA) : Statement (.smulhN a) := of_word rfl (Or.inl rfl) (sa_lt _ a (by decide))
theorem sdivI (a : SA) : Statement (.sdivI a) := of_word rfl (Or.inl rfl) (sa_lt _ a (by decide))
theorem sdivN (a : SA) : Statement (.sdivN a) := of_word rfl (Or.inl rfl) (sa_lt _ a (by decide))
theorem sremI (a : SA) : Statement (.sremI a) := of_word rfl (Or.inl rfl) (sa_lt _ a (by decide))
theorem sremN (a : SA) : Statement (.sremN a) := of_word rfl (Or.inl rfl) (sa_lt _ a (by decide))
theorem sandR (a : SA) : Statement (.sandR a) := of_word rfl (Or.inl rfl) (sa_lt _ a (by decide))
theorem sandI (a : SI) : Statement (.sandI a) := of_word rfl (Or.inl rfl) (si_lt _ a (by decide))
theorem sorR (a : SA) : Statement (.sorR a) := of_word rfl (Or.inl rfl) (sa_lt _ a (by decide))
theorem sorI (a : SI) : Statement (.sorI a) := of_word rfl (Or.inl rfl) (si_lt _ a (by decide))
theorem sxorR (a : SA) : Statement (.sxorR a) := of_word rfl (Or.inl rfl) (sa_lt _ a (by decide))
theorem sxorI (a : SI) : Statement (.sxorI a) := of_word rfl (Or.inl rfl) (si_lt _ a (by decide))
theorem sshlR (a : SA) : Statement (.sshlR a) := of_word rfl (Or.inl rfl) (sa_lt _ a (by decide))
theorem sshlI (a : SI) : Statement (.sshlI a) := of_word rfl (Or.inl rfl) (si_lt _ a (by decide))
theorem sshrR (a : SA) : Statement (.sshrR a) := of_word rfl (Or.inl rfl) (sa_lt _ a (by decide))
theorem sshrI (a : SI) : Statement (.sshrI a) := of_word rfl (Or.inl rfl) (si_lt _ a (by decide))
theorem ssraR (a : SA) : Statement (.ssraR a) := of_word rfl (Or.inl rfl) (sa_lt _ a (by decide))
theorem ssraI (a : SI) : Statement (.ssraI a) := of_word rfl (Or.inl rfl) (si_lt _ a (by decide))
theorem sminI (a : SA) : Statement (.sminI a) := of_word rfl (Or.inl rfl) (sa_lt _ a (by decide))
theorem sminN (a : SA) : Statement (.sminN a) := of_word rfl (Or.inl rfl) (sa_lt _ a (by decide))
theorem smaxI (a : SA) : Statement (.smaxI a) := of_word rfl (Or.inl rfl) (sa_lt _ a (by decide))
theorem smaxN (a : SA) : Statement (.smaxN a) := of_word rfl (Or.inl rfl) (sa_lt _ a (by decide))
theorem ssetI (a : SA) : Statement (.ssetI a) := of_word rfl (Or.inl rfl) (sa_lt _ a (by decide))
theorem ssetN (a : SA) : Statement (.ssetN a) := of_word rfl (Or.inl rfl) (sa_lt _ a (by decide))
theorem sbit32 (a : SA) : Statement (.sbit32 a) := of_word rfl (Or.inl rfl) (sa_lt _ a (by decide))
theorem sbit64 (a : SA) : Statement (.sbit64 a) := of_word rfl (Or.inl rfl) (sa_lt _ a (by decide))
theorem sldiLo (a : SX) : Statement (.sldiLo a) := of_word rfl (Or.inr (Or.inl rfl)) (sx_lt _ a (by decide))
theorem sldiHi (a : SX) : Statement (.sldiHi a) := of_word rfl (Or.inr (Or.inl rfl)) (sx_lt _ a (by decide))
theorem sldiSx (a : SX) : Statement (.sldiSx a) := of_word rfl (Or.inr (Or.inl rfl)) (sx_lt _ a (by decide))
theorem baddR (a : SA) : Statement (.baddR a) := of_word rfl (Or.inl rfl) (sa_lt _ a (by decide))
theorem baddI (a : SI) : Statement (.baddI a) := of_word rfl (Or.inl rfl) (si_lt _ a (by decide))
theorem bsetLo (a : SA) : Statement (.bsetLo a) := of_word rfl (Or.inl rfl) (sa_lt _ a (by decide))
theorem bsetHi (a : SA) : Statement (.bsetHi a) := of_word rfl (Or.inl rfl) (sa_lt _ a (by decide))
theorem bgetLo (a : SA) : Statement (.bgetLo a) := of_word rfl (Or.inl rfl) (sa_lt _ a (by decide))
theorem bgetHi (a : SA) : Statement (.bgetHi a) := of_word rfl (Or.inl rfl) (sa_lt _ a (by decide))
theorem bmov (a : SA) : Statement (.bmov a) := of_word rfl (Or.inl rfl) (sa_lt _ a (by decide))
theorem sldN8 (a : SM) : Statement (.sldN8 a) := of_word rfl (Or.inl rfl) (sm_lt _ a (by decide))
theorem sldI8 (a : SM) : Statement (.sldI8 a) := of_word rfl (Or.inl rfl) (sm_lt _ a (by decide))
theorem sldN16 (a : SM) : Statement (.sldN16 a) := of_word rfl (Or.inl rfl) (sm_lt _ a (by decide))
theorem sldI16 (a : SM) : Statement (.sldI16 a) := of_word rfl (Or.inl rfl) (sm_lt _ a (by decide))
theorem sldN32 (a : SM) : Statement (.sldN32 a) := of_word rfl (Or.inl rfl) (sm_lt _ a (by decide))
theorem sldI32 (a : SM) : Statement (.sldI32 a) := of_word rfl (Or.inl rfl) (sm_lt _ a (by decide))
theorem sld64 (a : SM) : Statement (.sld64 a) := of_word rfl (Or.inl rfl) (sm_lt _ a (by decide))
theorem sst8 (a : SM) : Statement (.sst8 a) := of_word rfl (Or.inl rfl) (sm_lt _ a (by decide))
theorem sst16 (a : SM) : Statement (.sst16 a) := of_word rfl (Or.inl rfl) (sm_lt _ a (by decide))
theorem sst32 (a : SM) : Statement (.sst32 a) := of_word rfl (Or.inl rfl) (sm_lt _ a (by decide))
theorem sst64 (a : SM) : Statement (.sst64 a) := of_word rfl (Or.inl rfl) (sm_lt _ a (by decide))
theorem satomAdd (a : SM) : Statement (.satomAdd a) := of_word rfl (Or.inl rfl) (sm_lt _ a (by decide))
theorem satomAnd (a : SM) : Statement (.satomAnd a) := of_word rfl (Or.inl rfl) (sm_lt _ a (by decide))
theorem satomOr (a : SM) : Statement (.satomOr a) := of_word rfl (Or.inl rfl) (sm_lt _ a (by decide))
theorem satomXor (a : SM) : Statement (.satomXor a) := of_word rfl (Or.inl rfl) (sm_lt _ a (by decide))
theorem satomMin (a : SM) : Statement (.satomMin a) := of_word rfl (Or.inl rfl) (sm_lt _ a (by decide))
theorem satomMax (a : SM) : Statement (.satomMax a) := of_word rfl (Or.inl rfl) (sm_lt _ a (by decide))
theorem satomMinn (a : SM) : Statement (.satomMinn a) := of_word rfl (Or.inl rfl) (sm_lt _ a (by decide))
theorem satomMaxn (a : SM) : Statement (.satomMaxn a) := of_word rfl (Or.inl rfl) (sm_lt _ a (by decide))
theorem satomXchg (a : SM) : Statement (.satomXchg a) := of_word rfl (Or.inl rfl) (sm_lt _ a (by decide))
theorem scas (a : SM) : Statement (.scas a) := of_word rfl (Or.inl rfl) (sm_lt _ a (by decide))
theorem jmp (a : SJ) : Statement (.jmp a) := of_word rfl (Or.inl rfl) (sj_lt _ a (by decide))
theorem jmpcEqz (a : SJ) : Statement (.jmpcEqz a) := of_word rfl (Or.inl rfl) (sj_lt _ a (by decide))
theorem jmpcNez (a : SJ) : Statement (.jmpcNez a) := of_word rfl (Or.inl rfl) (sj_lt _ a (by decide))
theorem jmpcLtz (a : SJ) : Statement (.jmpcLtz a) := of_word rfl (Or.inl rfl) (sj_lt _ a (by decide))
theorem jmpcGez (a : SJ) : Statement (.jmpcGez a) := of_word rfl (Or.inl rfl) (sj_lt _ a (by decide))
theorem call (a : SJ) : Statement (.call a) := of_word rfl (Or.inl rfl) (sj_lt _ a (by decide))
theorem ret (a : SA) : Statement (.ret a) := of_word rfl (Or.inl rfl) (sa_lt _ a (by decide))
theorem brd (a : SB) : Statement (.brd a) := of_word rfl (Or.inl rfl) (sb_lt _ a (by decide))
theorem join (a : SR) : Statement (.join a) := of_word rfl (Or.inl rfl) (sr_lt _ a (by decide))
theorem lrun (a : SL) : Statement (.lrun a) := of_word rfl (Or.inl rfl) (sl_lt _ a (by decide))
theorem bar (a : SA) : Statement (.bar a) := of_word rfl (Or.inl rfl) (sa_lt _ a (by decide))
theorem gbar (a : SA) : Statement (.gbar a) := of_word rfl (Or.inl rfl) (sa_lt _ a (by decide))
theorem peal (a : SA) : Statement (.peal a) := of_word rfl (Or.inl rfl) (sa_lt _ a (by decide))
theorem tget (a : SI) : Statement (.tget a) := of_word rfl (Or.inl rfl) (si_lt _ a (by decide))
theorem twait (a : SA) : Statement (.twait a) := of_word rfl (Or.inl rfl) (sa_lt _ a (by decide))
theorem twaitPres (a : SA) : Statement (.twaitPres a) := of_word rfl (Or.inl rfl) (sa_lt _ a (by decide))
theorem lnch (a : SM6) : Statement (.lnch a) := of_word rfl (Or.inl rfl) (sm6_lt _ a (by decide))
theorem lnchNb (a : SM6) : Statement (.lnchNb a) := of_word rfl (Or.inl rfl) (sm6_lt _ a (by decide))
theorem exit (a : SR) : Statement (.exit a) := of_word rfl (Or.inl rfl) (sr_lt _ a (by decide))
theorem gsetT (a : SA) : Statement (.gsetT a) := of_word rfl (Or.inl rfl) (sa_lt _ a (by decide))
theorem gsetF (a : SA) : Statement (.gsetF a) := of_word rfl (Or.inl rfl) (sa_lt _ a (by decide))
theorem gsetTrig (a : SM6) : Statement (.gsetTrig a) := of_word rfl (Or.inl rfl) (sm6_lt _ a (by decide))
theorem gclr (a : SA) : Statement (.gclr a) := of_word rfl (Or.inl rfl) (sa_lt _ a (by decide))
theorem binc (a : SA) : Statement (.binc a) := of_word rfl (Or.inl rfl) (sa_lt _ a (by decide))
theorem rgrp (a : SX) : Statement (.rgrp a) := of_word rfl (Or.inr (Or.inl rfl)) (sx_lt _ a (by decide))
theorem rhom (a : SI) : Statement (.rhom a) := of_word rfl (Or.inl rfl) (si_lt _ a (by decide))
theorem sread (a : SP) : Statement (.sread a) := of_word rfl (Or.inl rfl) (sp_lt _ a (by decide))
theorem swrite (a : SI) : Statement (.swrite a) := of_word rfl (Or.inl rfl) (si_lt _ a (by decide))
theorem fence (a : SF) : Statement (.fence a) := of_word rfl (Or.inl rfl) (sf_lt _ a (by decide))
theorem yieldCrew (a : SR) : Statement (.yieldCrew a) := of_word rfl (Or.inl rfl) (sr_lt _ a (by decide))
theorem trap (a : SI) : Statement (.trap a) := of_word rfl (Or.inl rfl) (si_lt _ a (by decide))
theorem sysc (a : SI) : Statement (.sysc a) := of_word rfl (Or.inl rfl) (si_lt _ a (by decide))
theorem brkpt (a : SI) : Statement (.brkpt a) := of_word rfl (Or.inl rfl) (si_lt _ a (by decide))
theorem nop (a : SR) : Statement (.nop a) := of_word rfl (Or.inl rfl) (sr_lt _ a (by decide))
theorem sHint (op : Nat) (a : SR) : Statement (.sHint op a) := of_word rfl (Or.inl rfl) (fun h => by
  simp only [Instr.wf, sIsHint, Bool.and_eq_true, decide_eq_true_eq] at h
  exact sr_lt op a (by omega) h.2)
theorem sIllegalOpcode (op : Nat) (a : SR) : Statement (.sIllegalOpcode op a) := of_word rfl (Or.inl rfl) (fun h => by
  simp only [Instr.wf, below, Bool.and_eq_true, decide_eq_true_eq] at h
  exact sr_lt op a (by omega) h.2)
theorem vadd (f : LF) : Statement (.vadd f) := of_word rfl (Or.inr (Or.inr rfl)) (lf_lt _ f (by decide))
theorem vsub (f : LF) : Statement (.vsub f) := of_word rfl (Or.inr (Or.inr rfl)) (lf_lt _ f (by decide))
theorem vmul (f : LF) : Statement (.vmul f) := of_word rfl (Or.inr (Or.inr rfl)) (lf_lt _ f (by decide))
theorem vmulh (f : LF) : Statement (.vmulh f) := of_word rfl (Or.inr (Or.inr rfl)) (lf_lt _ f (by decide))
theorem vmulw (f : LF) : Statement (.vmulw f) := of_word rfl (Or.inr (Or.inr rfl)) (lf_lt _ f (by decide))
theorem vaddc (k : AddcVar) (f : LF) : Statement (.vaddc k f) := of_word rfl (Or.inr (Or.inr rfl)) (lf_lt _ f (by rcases k <;> decide))
theorem vfma (k : FmaVar) (f : LF) : Statement (.vfma k f) := of_word rfl (Or.inr (Or.inr rfl)) (lf_lt _ f (by rcases k <;> decide))
theorem vdiv (k : DivVar) (f : LF) : Statement (.vdiv k f) := of_word rfl (Or.inr (Or.inr rfl)) (lf_lt _ f (by rcases k <;> decide))
theorem vdot (k : DotVar) (f : LF) : Statement (.vdot k f) := of_word rfl (Or.inr (Or.inr rfl)) (lf_lt _ f (by rcases k <;> decide))
theorem vmin (k : MinVar) (f : LF) : Statement (.vmin k f) := of_word rfl (Or.inr (Or.inr rfl)) (lf_lt _ f (by rcases k <;> decide))
theorem vmax (k : MinVar) (f : LF) : Statement (.vmax k f) := of_word rfl (Or.inr (Or.inr rfl)) (lf_lt _ f (by rcases k <;> decide))
theorem vclamp (f : LF) : Statement (.vclamp f) := of_word rfl (Or.inr (Or.inr rfl)) (lf_lt _ f (by decide))
theorem vmed3 (f : LF) : Statement (.vmed3 f) := of_word rfl (Or.inr (Or.inr rfl)) (lf_lt _ f (by decide))
theorem vabs (f : LF) : Statement (.vabs f) := of_word rfl (Or.inr (Or.inr rfl)) (lf_lt _ f (by decide))
theorem vneg (f : LF) : Statement (.vneg f) := of_word rfl (Or.inr (Or.inr rfl)) (lf_lt _ f (by decide))
theorem vsel (f : LF) : Statement (.vsel f) := of_word rfl (Or.inr (Or.inr rfl)) (lf_lt _ f (by decide))
theorem vlerp (f : LF) : Statement (.vlerp f) := of_word rfl (Or.inr (Or.inr rfl)) (lf_lt _ f (by decide))
theorem vsad (f : LF) : Statement (.vsad f) := of_word rfl (Or.inr (Or.inr rfl)) (lf_lt _ f (by decide))
theorem vcmp (k : CmpVar) (f : LF) : Statement (.vcmp k f) := of_word rfl (Or.inr (Or.inr rfl)) (lf_lt _ f (by rcases k <;> decide))
theorem vand (f : LF) : Statement (.vand f) := of_word rfl (Or.inr (Or.inr rfl)) (lf_lt _ f (by decide))
theorem vor (f : LF) : Statement (.vor f) := of_word rfl (Or.inr (Or.inr rfl)) (lf_lt _ f (by decide))
theorem vxor (f : LF) : Statement (.vxor f) := of_word rfl (Or.inr (Or.inr rfl)) (lf_lt _ f (by decide))
theorem vnot (f : LF) : Statement (.vnot f) := of_word rfl (Or.inr (Or.inr rfl)) (lf_lt _ f (by decide))
theorem vlop3 (f : LF) : Statement (.vlop3 f) := of_word rfl (Or.inr (Or.inr rfl)) (lf_lt _ f (by decide))
theorem vshl (f : LF) : Statement (.vshl f) := of_word rfl (Or.inr (Or.inr rfl)) (lf_lt _ f (by decide))
theorem vshr (f : LF) : Statement (.vshr f) := of_word rfl (Or.inr (Or.inr rfl)) (lf_lt _ f (by decide))
theorem vsra (f : LF) : Statement (.vsra f) := of_word rfl (Or.inr (Or.inr rfl)) (lf_lt _ f (by decide))
theorem vbfe (f : LF) : Statement (.vbfe f) := of_word rfl (Or.inr (Or.inr rfl)) (lf_lt _ f (by decide))
theorem vbfi (f : LF) : Statement (.vbfi f) := of_word rfl (Or.inr (Or.inr rfl)) (lf_lt _ f (by decide))
theorem vpopc (f : LF) : Statement (.vpopc f) := of_word rfl (Or.inr (Or.inr rfl)) (lf_lt _ f (by decide))
theorem vclz (k : ClzVar) (f : LF) : Statement (.vclz k f) := of_word rfl (Or.inr (Or.inr rfl)) (lf_lt _ f (by rcases k <;> decide))
theorem vbrev (f : LF) : Statement (.vbrev f) := of_word rfl (Or.inr (Or.inr rfl)) (lf_lt _ f (by decide))
theorem vprmt (f : LF) : Statement (.vprmt f) := of_word rfl (Or.inr (Or.inr rfl)) (lf_lt _ f (by decide))
theorem vrcp (f : LF) : Statement (.vrcp f) := of_word rfl (Or.inr (Or.inr rfl)) (lf_lt _ f (by decide))
theorem vrsq (f : LF) : Statement (.vrsq f) := of_word rfl (Or.inr (Or.inr rfl)) (lf_lt _ f (by decide))
theorem vsqrt (f : LF) : Statement (.vsqrt f) := of_word rfl (Or.inr (Or.inr rfl)) (lf_lt _ f (by decide))
theorem vexp2 (f : LF) : Statement (.vexp2 f) := of_word rfl (Or.inr (Or.inr rfl)) (lf_lt _ f (by decide))
theorem vlog2 (f : LF) : Statement (.vlog2 f) := of_word rfl (Or.inr (Or.inr rfl)) (lf_lt _ f (by decide))
theorem vsin (k : TrigVar) (f : LF) : Statement (.vsin k f) := of_word rfl (Or.inr (Or.inr rfl)) (lf_lt _ f (by rcases k <;> decide))
theorem vcos (k : TrigVar) (f : LF) : Statement (.vcos k f) := of_word rfl (Or.inr (Or.inr rfl)) (lf_lt _ f (by rcases k <;> decide))
theorem vtanh (f : LF) : Statement (.vtanh f) := of_word rfl (Or.inr (Or.inr rfl)) (lf_lt _ f (by decide))
theorem vfrc (f : LF) : Statement (.vfrc f) := of_word rfl (Or.inr (Or.inr rfl)) (lf_lt _ f (by decide))
theorem vrnd (f : LF) : Statement (.vrnd f) := of_word rfl (Or.inr (Or.inr rfl)) (lf_lt _ f (by decide))
theorem vclass (f : LF) : Statement (.vclass f) := of_word rfl (Or.inr (Or.inr rfl)) (lf_lt _ f (by decide))
theorem vldexp (f : LF) : Statement (.vldexp f) := of_word rfl (Or.inr (Or.inr rfl)) (lf_lt _ f (by decide))
theorem vcvt (k : SrcType) (f : LF) : Statement (.vcvt k f) := of_word rfl (Or.inr (Or.inr rfl)) (fun h => by
  simp only [Instr.wf, below, Bool.and_eq_true, decide_eq_true_eq] at h
  exact lf_lt _ f (by omega) h.2)
theorem vpack (k : HalfVar) (f : LF) : Statement (.vpack k f) := of_word rfl (Or.inr (Or.inr rfl)) (lf_lt _ f (by rcases k <;> decide))
theorem vunpk (k : HalfVar) (f : LF) : Statement (.vunpk k f) := of_word rfl (Or.inr (Or.inr rfl)) (lf_lt _ f (by rcases k <;> decide))
theorem vbqnt (f : LF) : Statement (.vbqnt f) := of_word rfl (Or.inr (Or.inr rfl)) (lf_lt _ f (by decide))
theorem vbscl (f : LF) : Statement (.vbscl f) := of_word rfl (Or.inr (Or.inr rfl)) (lf_lt _ f (by decide))
theorem vmov (f : LF) : Statement (.vmov f) := of_word rfl (Or.inr (Or.inr rfl)) (lf_lt _ f (by decide))
theorem vmovi (f : LF) : Statement (.vmovi f) := of_word rfl (Or.inr (Or.inr rfl)) (lf_lt _ f (by decide))
theorem vmovs (f : LF) : Statement (.vmovs f) := of_word rfl (Or.inr (Or.inr rfl)) (lf_lt _ f (by decide))
theorem vshfl (k : ShfWidth) (f : LF) : Statement (.vshfl k f) := of_word rfl (Or.inr (Or.inr rfl)) (lf_lt _ f (by rcases k <;> decide))
theorem vshfu (k : ShfWidth) (f : LF) : Statement (.vshfu k f) := of_word rfl (Or.inr (Or.inr rfl)) (lf_lt _ f (by rcases k <;> decide))
theorem vshfd (k : ShfWidth) (f : LF) : Statement (.vshfd k f) := of_word rfl (Or.inr (Or.inr rfl)) (lf_lt _ f (by rcases k <;> decide))
theorem vshfx (k : ShfWidth) (f : LF) : Statement (.vshfx k f) := of_word rfl (Or.inr (Or.inr rfl)) (lf_lt _ f (by rcases k <;> decide))
theorem vvote (k : VoteVar) (f : LF) : Statement (.vvote k f) := of_word rfl (Or.inr (Or.inr rfl)) (lf_lt _ f (by rcases k <;> decide))
theorem vbal (f : LF) : Statement (.vbal f) := of_word rfl (Or.inr (Or.inr rfl)) (lf_lt _ f (by decide))
theorem vplog (k : PlogVar) (f : LF) : Statement (.vplog k f) := of_word rfl (Or.inr (Or.inr rfl)) (lf_lt _ f (by rcases k <;> decide))
theorem vpmov (k : PmovVar) (f : LF) : Statement (.vpmov k f) := of_word rfl (Or.inr (Or.inr rfl)) (lf_lt _ f (by rcases k <;> decide))
theorem vred (k : RedOp) (f : LF) : Statement (.vred k f) := of_word rfl (Or.inr (Or.inr rfl)) (lf_lt _ f (by rcases k <;> decide))
theorem vscanInc (k : RedOp) (f : LF) : Statement (.vscanInc k f) := of_word rfl (Or.inr (Or.inr rfl)) (lf_lt _ f (by rcases k <;> decide))
theorem vscanExc (k : RedOp) (f : LF) : Statement (.vscanExc k f) := of_word rfl (Or.inr (Or.inr rfl)) (lf_lt _ f (by rcases k <;> decide))
theorem vmatch (f : LF) : Statement (.vmatch f) := of_word rfl (Or.inr (Or.inr rfl)) (lf_lt _ f (by decide))
theorem vld (k : Space) (f : LF) : Statement (.vld k f) := of_word rfl (Or.inr (Or.inr rfl)) (lf_lt _ f (by rcases k <;> decide))
theorem vst (k : Space) (f : LF) : Statement (.vst k f) := of_word rfl (Or.inr (Or.inr rfl)) (lf_lt _ f (by rcases k <;> decide))
theorem vsmp (f : LF) : Statement (.vsmp f) := of_word rfl (Or.inr (Or.inr rfl)) (lf_lt _ f (by decide))
theorem atom (k : AtomVar) (f : LF) : Statement (.atom k f) := of_word rfl (Or.inr (Or.inr rfl)) (lf_lt _ f (by
  rcases k with ⟨s, o, n⟩
  cases s <;> cases o <;> cases n <;> decide))
theorem cas (k : Space) (f : LF) : Statement (.cas k f) := of_word rfl (Or.inr (Or.inr rfl)) (lf_lt _ f (by rcases k <;> decide))
theorem vfence (f : LF) : Statement (.vfence f) := of_word rfl (Or.inr (Or.inr rfl)) (lf_lt _ f (by decide))
theorem cpy (f : LF) : Statement (.cpy f) := of_word rfl (Or.inr (Or.inr rfl)) (lf_lt _ f (by decide))
theorem cseal (f : LF) : Statement (.cseal f) := of_word rfl (Or.inr (Or.inr rfl)) (lf_lt _ f (by decide))
theorem cwait (f : LF) : Statement (.cwait f) := of_word rfl (Or.inr (Or.inr rfl)) (lf_lt _ f (by decide))
theorem srd (f : LF) : Statement (.srd f) := of_word rfl (Or.inr (Or.inr rfl)) (lf_lt _ f (by decide))
theorem swr (f : LF) : Statement (.swr f) := of_word rfl (Or.inr (Or.inr rfl)) (lf_lt _ f (by decide))
theorem sstatGet (f : LF) : Statement (.sstatGet f) := of_word rfl (Or.inr (Or.inr rfl)) (lf_lt _ f (by decide))
theorem sstatSet (f : LF) : Statement (.sstatSet f) := of_word rfl (Or.inr (Or.inr rfl)) (lf_lt _ f (by decide))
theorem ralloc (f : LF) : Statement (.ralloc f) := of_word rfl (Or.inr (Or.inr rfl)) (lf_lt _ f (by decide))
theorem rallocNb (f : LF) : Statement (.rallocNb f) := of_word rfl (Or.inr (Or.inr rfl)) (lf_lt _ f (by decide))
theorem rpush (f : LF) : Statement (.rpush f) := of_word rfl (Or.inr (Or.inr rfl)) (lf_lt _ f (by decide))
theorem qpop (f : LF) : Statement (.qpop f) := of_word rfl (Or.inr (Or.inr rfl)) (lf_lt _ f (by decide))
theorem mldb (k : MldbFmt) (f : LF) : Statement (.mldb k f) := of_word rfl (Or.inr (Or.inr rfl)) (lf_lt _ f (by rcases k <;> decide))
theorem smcp (f : LF) : Statement (.smcp f) := of_word rfl (Or.inr (Or.inr rfl)) (lf_lt _ f (by decide))
theorem mma (k : MmaFmt) (f : LF) : Statement (.mma k f) := of_word rfl (Or.inr (Or.inr rfl)) (lf_lt _ f (by rcases k <;> decide))
theorem msca (f : LF) : Statement (.msca f) := of_word rfl (Or.inr (Or.inr rfl)) (lf_lt _ f (by decide))
theorem macz (f : LF) : Statement (.macz f) := of_word rfl (Or.inr (Or.inr rfl)) (lf_lt _ f (by decide))
theorem macrd (k : MacrdVar) (f : LF) : Statement (.macrd k f) := of_word rfl (Or.inr (Or.inr rfl)) (lf_lt _ f (by rcases k <;> decide))
theorem macwr (f : LF) : Statement (.macwr f) := of_word rfl (Or.inr (Or.inr rfl)) (lf_lt _ f (by decide))
theorem collAdd (f : LF) : Statement (.collAdd f) := of_word rfl (Or.inr (Or.inr rfl)) (lf_lt _ f (by decide))
theorem collWr (f : LF) : Statement (.collWr f) := of_word rfl (Or.inr (Or.inr rfl)) (lf_lt _ f (by decide))
theorem trav (f : LF) : Statement (.trav f) := of_word rfl (Or.inr (Or.inr rfl)) (lf_lt _ f (by decide))
theorem rast (f : LF) : Statement (.rast f) := of_word rfl (Or.inr (Or.inr rfl)) (lf_lt _ f (by decide))
theorem rcq (f : LF) : Statement (.rcq f) := of_word rfl (Or.inr (Or.inr rfl)) (lf_lt _ f (by decide))
theorem rcqTrain (f : LF) : Statement (.rcqTrain f) := of_word rfl (Or.inr (Or.inr rfl)) (lf_lt _ f (by decide))
theorem lHint (op : Nat) (f : LF) : Statement (.lHint op f) := of_word rfl (Or.inr (Or.inr rfl)) (fun h => by
  simp only [Instr.wf, lIsHint, Bool.and_eq_true, decide_eq_true_eq] at h
  exact lf_lt op f (by omega) h.2)
theorem lIllegalOpcode (op : Nat) (f : LF) : Statement (.lIllegalOpcode op f) := of_word rfl (Or.inr (Or.inr rfl)) (fun h => by
  simp only [Instr.wf, below, Bool.and_eq_true, decide_eq_true_eq] at h
  exact lf_lt op f (by omega) h.2)
theorem crewRetire (cid : Nat) : Statement (.crewRetire cid) := of_none rfl
theorem barrierTimeout (b : BarRef) : Statement (.barrierTimeout b) := of_none rfl
theorem twaitWake (cid : Nat) : Statement (.twaitWake cid) := of_none rfl
theorem copyLeaveHead (cid : Nat) : Statement (.copyLeaveHead cid) := of_none rfl
theorem copyLand (op lane : Nat) : Statement (.copyLand op lane) := of_none rfl
theorem passGrant (quad : Nat) : Statement (.passGrant quad) := of_none rfl
theorem passComplete (quad : Nat) (mismatch : Bool) (row : Nat) : Statement (.passComplete quad mismatch row) := of_none rfl
theorem foldGrant (quad : Nat) : Statement (.foldGrant quad) := of_none rfl
theorem scaleUnitFill (quad : Nat) : Statement (.scaleUnitFill quad) := of_none rfl
theorem mldbLeaveHead (cmd : Nat) : Statement (.mldbLeaveHead cmd) := of_none rfl
theorem mldbCommit (cmd : Nat) : Statement (.mldbCommit cmd) := of_none rfl
theorem smcpCommit (cmd : Nat) : Statement (.smcpCommit cmd) := of_none rfl
theorem regroupRoundTimeout (round : Nat) : Statement (.regroupRoundTimeout round) := of_none rfl
theorem regroupCommit (round : Nat) (moved : Bool) : Statement (.regroupCommit round moved) := of_none rfl
theorem guardWatchRead (w : WatchRef) : Statement (.guardWatchRead w) := of_none rfl
theorem rcqGrant (quad : Nat) : Statement (.rcqGrant quad) := of_none rfl
theorem rcqComplete (quad : Nat) : Statement (.rcqComplete quad) := of_none rfl
theorem travComplete (cmd : Nat) : Statement (.travComplete cmd) := of_none rfl
theorem rasteriseTriangle (cmd lane view : Nat) : Statement (.rasteriseTriangle cmd lane view) := of_none rfl
theorem rastReturn (cmd : Nat) : Statement (.rastReturn cmd) := of_none rfl
theorem kilnStep (slot : Nat) : Statement (.kilnStep slot) := of_none rfl
theorem kilnSwitchDue (slot : Nat) : Statement (.kilnSwitchDue slot) := of_none rfl
theorem kilnSwitchWrite (slot : Nat) : Statement (.kilnSwitchWrite slot) := of_none rfl
theorem rcuWritebackRetry (slot : Nat) : Statement (.rcuWritebackRetry slot) := of_none rfl
theorem bindRco (slot value : Nat) : Statement (.bindRco slot value) := of_none rfl
theorem unbindRco (slot value : Nat) : Statement (.unbindRco slot value) := of_none rfl
theorem unbindComplete (slot : Nat) : Statement (.unbindComplete slot) := of_none rfl
theorem pauseKiln (value : Nat) : Statement (.pauseKiln value) := of_none rfl
theorem rxPacket (port : Nat) (p : VideoPacket) : Statement (.rxPacket port p) := of_none rfl
theorem rxRecordPacket (port : Nat) (p : RecordPacket) : Statement (.rxRecordPacket port p) := of_none rfl
theorem lineDeadline (flow slot row : Nat) : Statement (.lineDeadline flow slot row) := of_none rfl
theorem jxsLineDecoded (flow seq row engine : Nat) : Statement (.jxsLineDecoded flow seq row engine) := of_none rfl
theorem txRowDue (flow : Nat) : Statement (.txRowDue flow) := of_none rfl
theorem flowEnable (tx : Bool) (flow value : Nat) : Statement (.flowEnable tx flow value) := of_none rfl
theorem flowDisable (tx : Bool) (flow value : Nat) : Statement (.flowDisable tx flow value) := of_none rfl
theorem nodeBatchTimeout (node : Nat) : Statement (.nodeBatchTimeout node) := of_none rfl
theorem recordCopyLand (op : Nat) : Statement (.recordCopyLand op) := of_none rfl
theorem collSend (cid : Nat) : Statement (.collSend cid) := of_none rfl
theorem gpxData (entry : Nat) (header payload : List Byte) : Statement (.gpxData entry header payload) := of_none rfl
theorem gpxAck (entry : Nat) (packet : List Byte) : Statement (.gpxAck entry packet) := of_none rfl
theorem gpxResendTimeout (entry : Nat) : Statement (.gpxResendTimeout entry) := of_none rfl
theorem arrive (entry : Nat) (header payload : List Byte) : Statement (.arrive entry header payload) := of_none rfl
theorem decideMsg (entry : Nat) (header payload : List Byte) : Statement (.decideMsg entry header payload) := of_none rfl
theorem pealCollectionClose (frame : Nat) : Statement (.pealCollectionClose frame) := of_none rfl
theorem pealDecideResend (frame : Nat) : Statement (.pealDecideResend frame) := of_none rfl
theorem pealFrameStart (frame : Nat) : Statement (.pealFrameStart frame) := of_none rfl
theorem pealArm (value : Nat) : Statement (.pealArm value) := of_none rfl
theorem pealEnable (value : Nat) : Statement (.pealEnable value) := of_none rfl
theorem peerRevalidate (entry value : Nat) : Statement (.peerRevalidate entry value) := of_none rfl
theorem doorbell (queue value : Nat) : Statement (.doorbell queue value) := of_none rfl
theorem launchTake (queue : Nat) : Statement (.launchTake queue) := of_none rfl
theorem launchSlackExpiry (lid : Nat) : Statement (.launchSlackExpiry lid) := of_none rfl
theorem workgroupPlace (lid : Nat) (places : List Place) : Statement (.workgroupPlace lid places) := of_none rfl
theorem gangReserve (lid : Nat) : Statement (.gangReserve lid) := of_none rfl
theorem queueEnable (queue value : Nat) : Statement (.queueEnable queue value) := of_none rfl
theorem queueDisable (queue value : Nat) : Statement (.queueDisable queue value) := of_none rfl
theorem crfaultClear (queue : Nat) : Statement (.crfaultClear queue) := of_none rfl
theorem poolEnable (pool value : Nat) : Statement (.poolEnable pool value) := of_none rfl
theorem poolDisable (pool value : Nat) : Statement (.poolDisable pool value) := of_none rfl
theorem nodeEnable (node value : Nat) : Statement (.nodeEnable node value) := of_none rfl
theorem nodeDisable (node value : Nat) : Statement (.nodeDisable node value) := of_none rfl
theorem hwqEnable (queue value : Nat) : Statement (.hwqEnable queue value) := of_none rfl
theorem hwqDisable (queue value : Nat) : Statement (.hwqDisable queue value) := of_none rfl
theorem trapRecordWrite (ctx : Nat) : Statement (.trapRecordWrite ctx) := of_none rfl
theorem trgetWrite (ctx value : Nat) : Statement (.trgetWrite ctx value) := of_none rfl
theorem replay (ctx : Nat) (entry : Resumed) : Statement (.replay ctx entry) := of_none rfl
theorem killStop (ctx seq : Nat) : Statement (.killStop ctx seq) := of_none rfl
theorem debugStop (ctx seq : Nat) : Statement (.debugStop ctx seq) := of_none rfl
theorem deferredMemoryError (line : Nat) (retired : Bool) (ctx slot : Nat) : Statement (.deferredMemoryError line retired ctx slot) := of_none rfl
theorem eviction (core lid : Nat) (victims : List Nat) : Statement (.eviction core lid victims) := of_none rfl
theorem saveComplete (wg : Nat) : Statement (.saveComplete wg) := of_none rfl
theorem saveFault (wg addr : Nat) : Statement (.saveFault wg addr) := of_none rfl
theorem emergencyCopyDone (wg : Nat) : Statement (.emergencyCopyDone wg) := of_none rfl
theorem workgroupRestore (p : List Place) (wgs : List Nat) : Statement (.workgroupRestore p wgs) := of_none rfl
theorem restoreComplete (wg : Nat) : Statement (.restoreComplete wg) := of_none rfl
theorem mmuInvalidate (value : Nat) : Statement (.mmuInvalidate value) := of_none rfl
theorem mmuInvalidateDone : Statement .mmuInvalidateDone := of_none rfl
theorem scinvGo (quad value : Nat) : Statement (.scinvGo quad value) := of_none rfl
theorem scinvDone (quad : Nat) : Statement (.scinvDone quad) := of_none rfl
theorem powerOnReset : Statement .powerOnReset := of_none rfl
theorem bringupStepEnd (r : StepResult) : Statement (.bringupStepEnd r) := of_none rfl
theorem ptplockTimeout : Statement .ptplockTimeout := of_none rfl
theorem ptpSync (m : PtpMsg) : Statement (.ptpSync m) := of_none rfl
theorem ptpAnnounce (port domain : Nat) : Statement (.ptpAnnounce port domain) := of_none rfl
theorem ptpSyncLoss : Statement .ptpSyncLoss := of_none rfl
theorem holdoverExpiry : Statement .holdoverExpiry := of_none rfl
theorem ptpcDisable : Statement .ptpcDisable := of_none rfl
theorem ptpcStep (value : Nat) : Statement (.ptpcStep value) := of_none rfl
theorem ethmodeSet (value : Nat) : Statement (.ethmodeSet value) := of_none rfl
theorem portTrain (port value : Nat) : Statement (.portTrain port value) := of_none rfl
theorem portTrainDone (port : Nat) (up : Bool) : Statement (.portTrainDone port up) := of_none rfl
theorem portDisable (port value : Nat) : Statement (.portDisable port value) := of_none rfl
theorem wallEnable (value : Nat) : Statement (.wallEnable value) := of_none rfl
theorem badHostAccess (a : HostAccess) : Statement (.badHostAccess a) := of_none rfl
theorem hostMemoryAccess (a : HostAccess) : Statement (.hostMemoryAccess a) := of_none rfl
theorem msixUnmask (vector : Nat) : Statement (.msixUnmask vector) := of_none rfl
theorem registerWrite (a : HostAccess) : Statement (.registerWrite a) := of_none rfl
theorem continueStop (ctx target : Nat) : Statement (.continueStop ctx target) := of_none rfl
theorem stepS (ctx target : Nat) : Statement (.stepS ctx target) := of_none rfl
theorem stepL (ctx target : Nat) : Statement (.stepL ctx target) := of_none rfl
theorem commitDump (ctx target : Nat) : Statement (.commitDump ctx target) := of_none rfl
theorem stopPartition (ctx target : Nat) : Statement (.stopPartition ctx target) := of_none rfl
theorem debugKill (ctx target : Nat) : Statement (.debugKill ctx target) := of_none rfl
theorem debugRevoke (ctx value : Nat) : Statement (.debugRevoke ctx value) := of_none rfl
theorem releaseTaint (ctx value : Nat) : Statement (.releaseTaint ctx value) := of_none rfl
theorem icinvGo : Statement .icinvGo := of_none rfl
theorem icinvDone : Statement .icinvDone := of_none rfl
theorem capCounters (ctx : Nat) : Statement (.capCounters ctx) := of_none rfl
theorem clrCounters (ctx : Nat) : Statement (.clrCounters ctx) := of_none rfl
theorem sensorSample (readings : List Nat) (levels : List Nat) : Statement (.sensorSample readings levels) := of_none rfl
theorem arrayError (e : ArrayErr) : Statement (.arrayError e) := of_none rfl
theorem rowTestDone (array row : Nat) (lasting : Bool) : Statement (.rowTestDone array row lasting) := of_none rfl
theorem updateCmd : Statement .updateCmd := of_none rfl
theorem kilnUpdateApply : Statement .kilnUpdateApply := of_none rfl
theorem retireCmd : Statement .retireCmd := of_none rfl
theorem quoteCmd : Statement .quoteCmd := of_none rfl
theorem logreadCmd : Statement .logreadCmd := of_none rfl
theorem reeveCommandDone : Statement .reeveCommandDone := of_none rfl
theorem pendingWriteReturn (cid pid : Nat) : Statement (.pendingWriteReturn cid pid) := of_none rfl
theorem restoreFault (wg addr : Nat) : Statement (.restoreFault wg addr) := of_none rfl
theorem kilnUpdateDone : Statement .kilnUpdateDone := of_none rfl

end Sys2Proof.Laws.Encodes
end

