-- ==== Sys2Proof/Laws/Scalar.lean ====
section
/-! SUPPORT. What the shared operations of the scalar unit do: going past an instruction, writing s[sd], writing b[bd]. -/

namespace Sys2Proof.Claims
open Sys2Proof.Machine

/-! ### The stack under mapRun -/

theorem find?_mapRun_path (pc : VA) : ∀ st : List Entry,
    (mapRun (fun e => match e with
      | .path _ m l a p => [.path pc m l a p]
      | .join i x m n l => [.join i x m n l]) st).find? Entry.running
    = (st.find? Entry.running).map (fun e => match e with
      | .path _ m l a p => .path pc m l a p
      | .join i x m n l => .join i x m n l)
  | [] => rfl
  | e :: t => by
    by_cases h : e.running = true
    · cases e with
      | path q m l a p => cases p <;> simp_all [mapRun, Entry.running, List.find?_cons]
      | join i x m n l => simp [Entry.running] at h
    · simp [mapRun, h, find?_mapRun_path pc t]

theorem length_mapRun_one (f : Entry → List Entry) (hf : ∀ e, (f e).length = 1) : ∀ st : List Entry, (mapRun f st).length = st.length
  | [] => rfl
  | e :: t => by
    by_cases h : e.running = true
    · simp [mapRun, h, hf, Nat.add_comm]
    · simp [mapRun, h, length_mapRun_one f hf t]

theorem length_mapRun_none : ∀ st : List Entry, (st.find? Entry.running).isSome = true → (mapRun (fun _ => []) st).length + 1 = st.length
  | [], h => by simp at h
  | e :: t, h => by
    by_cases he : e.running = true
    · simp [mapRun, he]
    · simp only [List.find?_cons, he] at h
      simp [mapRun, he, length_mapRun_none t h]

theorem runPath_setPc (c : Crew) (pc : VA) :
    (c.setPc pc).runPath = c.runPath.map (fun e => match e with
      | .path _ m l a p => .path pc m l a p
      | .join i x m n l => .join i x m n l) := find?_mapRun_path pc c.stack

theorem running_path {c : Crew} {e : Entry} (h : c.runPath = some e) : ∃ pc m l a, e = .path pc m l a none := by
  have := List.find?_some h
  cases e with
  | path pc m l a p => cases p <;> simp_all [Entry.running]
  | join i x m n l => simp [Entry.running] at this

theorem pc_setPc {c : Crew} (h : c.runPath.isSome = true) (pc : VA) : (c.setPc pc).pc = pc := by
  obtain ⟨e, he⟩ := Option.isSome_iff_exists.mp h
  obtain ⟨q, m, l, a, rfl⟩ := running_path he
  simp [Crew.pc, runPath_setPc, he, Entry.pc]

theorem active_setPc (c : Crew) (pc : VA) : (c.setPc pc).active = c.active := by
  unfold Crew.active
  rw [runPath_setPc]
  cases h : c.runPath with
  | none => rfl
  | some e => obtain ⟨q, m, l, a, rfl⟩ := running_path h; rfl

theorem stack_length_setPc (c : Crew) (pc : VA) : (c.setPc pc).stack.length = c.stack.length :=
  length_mapRun_one _ (fun e => by cases e <;> rfl) c.stack

theorem stack_length_rotate (c : Crew) : c.rotate.stack.length = c.stack.length := by
  unfold Crew.rotate
  split
  · rename_i pc m l a p h
    have := length_mapRun_none c.stack (by unfold Crew.runPath at h; simp [h])
    simpa using this
  · rfl

/-- A crew past an instruction of n bytes. -/
def past (c : Crew) (n : Nat) : Crew :=
  { (if c.rotDue then ({ c.advance n with rotDue := false }).rotate else c.advance n) with wait := .none }

theorem rotate_fields (c : Crew) : c.rotate = { c with stack := c.rotate.stack } := by
  unfold Crew.rotate; split <;> rfl

theorem past_eq (c : Crew) (n : Nat) : past c n = { c with stack := (past c n).stack, rotDue := (past c n).rotDue, wait := .none } := by
  unfold past
  split
  · rw [rotate_fields]; rfl
  · rfl

theorem past_goes {c : Crew} (h : c.runPath.isSome = true) (n : Nat) : GoesPast c (past c n) n where
  pc := by intro hr; simp only [past, hr]; exact pc_setPc h _
  active := by intro hr; simp only [past, hr]; exact active_setPc c _
  depth := by
    unfold past
    split
    · simp only [stack_length_rotate]; exact stack_length_setPc c _
    · exact stack_length_setPc c _
  threads := by rw [past_eq]
  runs := by rw [past_eq]
  key := by rw [past_eq]
  stop := by rw [past_eq]
  slot := by rw [past_eq]; simp
  wait := by rw [past_eq]

theorem sDone_eq (s : State) (c : Crew) (n : Nat) : sDone s c n = .done (s.setCrew s.focus (past c n)) := rfl

theorem waited_path (o : Nat) {c : Crew} (h : c.runPath.isSome = true) (w d : Bool) : (waited o c w d).runPath.isSome = true := by
  simpa [Crew.runPath, waited_stack] using h

/-- A form that only changes its crew (R28, R30, R221): its checks pass, and its crew's stack grows no deeper. -/
theorem crew_end {s : State} {c c' : Crew} {w drain : Bool} {len : Nat} {checks : State → Crew → List (Bool × Trap)} {body : State → Crew → Eff}
    (h : Focus s c) (hw : mayGo c w drain = true) (hk : firstFail (checks (seenS s c w drain) (waited s.oracle c w drain)) = none)
    (hb : body (seenS s c w drain) (waited s.oracle c w drain) = .done ((seenS s c w drain).setCrew (seenS s c w drain).focus c'))
    (hd : c'.stack.length ≤ 32) : ∃ t, runS s w drain len checks body = .next t ∧ OnlyCrew s t c' := by
  obtain ⟨v, j, hv⟩ := seenS_eq s c w drain
  have hf : (seenS s c w drain).focus = s.focus := by rw [hv]; rfl
  obtain ⟨k, hk'⟩ := countWord_eq ((seenS s c w drain).setCrew (seenS s c w drain).focus c') s c 3
  refine ⟨_, (runS_done h.crew h.near hw hk hb (spilled_near (c := c') (by rw [hf]; exact State.crew?_setCrew _ _ _) hd)).trans
    (fin_clean _ (by rw [hk', hv]; exact h.clean)), ?_⟩
  rw [hk', hv]
  exact ⟨k, v, j, by simp [State.setCrew]⟩

theorem past_depth {c : Crew} (h : c.runPath.isSome = true) (hn : c.stack.length ≤ 32) (n : Nat) : (past c n).stack.length ≤ 32 := by
  rw [(past_goes h n).depth]; exact hn

/-- A fixed-latency scalar result (R248): the value goes to s[sd] and nothing else changes. -/
theorem sAlu_writes {s : State} {c : Crew} {w : Bool} (h : Focus s c) (hw : mayGo c w false = true) (sd len : Nat) (val : Nat → Crew → W64) :
    WritesS s (waited s.oracle c w false) len sd (val s.oracle (waited s.oracle c w false)) (sAlu s w sd len val) := by
  have hp := waited_path s.oracle h.path w false
  have ho : (seenS s c w false).oracle = s.oracle := by obtain ⟨v, j, hv⟩ := seenS_eq s c w false; rw [hv]; rfl
  obtain ⟨t, ht, hc⟩ := crew_end (c' := past ((waited s.oracle c w false).sWr sd (val s.oracle (waited s.oracle c w false))) len) (len := len)
    (checks := fun _ _ => []) (body := fun s c => sDone s (c.sWr sd (val s.oracle c)) len) h hw rfl (by rw [sDone_eq, ho])
    (past_depth (c := (waited s.oracle c w false).sWr sd (val s.oracle (waited s.oracle c w false))) hp (by
      show (waited s.oracle c w false).stack.length ≤ 32
      rw [waited_stack]; exact h.near) len)
  refine ⟨t, _, ht, hc, ?_, ?_, ?_⟩
  · have := past_goes (c := (waited s.oracle c w false).sWr sd (val s.oracle (waited s.oracle c w false))) hp len
    exact ⟨this.1, this.2, this.3, this.4, this.5, this.6, this.7, this.8, this.9⟩
  · rw [past_eq]; exact ⟨rfl, rfl, rfl, rfl, rfl⟩
  · rw [past_eq]
    exact ⟨by simp [Crew.sWr, tget], fun r hr => by simp [Crew.sWr, tget_tset, hr], rfl⟩

/-- A base-register form: the value goes to b[bd] and nothing else changes. -/
theorem bAlu_writes {s : State} {c : Crew} {w : Bool} (h : Focus s c) (hw : mayGo c w false = true) (sd : Nat) (val : Nat → Crew → VA) :
    WritesB s (waited s.oracle c w false) (sd % 16) (val s.oracle (waited s.oracle c w false)) (bAlu s w sd val) := by
  have hp := waited_path s.oracle h.path w false
  have ho : (seenS s c w false).oracle = s.oracle := by obtain ⟨v, j, hv⟩ := seenS_eq s c w false; rw [hv]; rfl
  obtain ⟨t, ht, hc⟩ := crew_end (c' := past ((waited s.oracle c w false).bWr (sd % 16) (val s.oracle (waited s.oracle c w false))) 4) (len := 4)
    (checks := fun _ _ => []) (body := fun s c => sDone s (c.bWr (sd % 16) (val s.oracle c)) 4) h hw rfl (by rw [sDone_eq, ho])
    (past_depth (c := (waited s.oracle c w false).bWr (sd % 16) (val s.oracle (waited s.oracle c w false))) hp (by
      show (waited s.oracle c w false).stack.length ≤ 32
      rw [waited_stack]; exact h.near) 4)
  refine ⟨t, _, ht, hc, ?_, ?_, ?_, ?_, ?_, ?_, ?_, ?_⟩
  · have := past_goes (c := (waited s.oracle c w false).bWr (sd % 16) (val s.oracle (waited s.oracle c w false))) hp 4
    exact ⟨this.1, this.2, this.3, this.4, this.5, this.6, this.7, this.8, this.9⟩
  · rw [past_eq]; exact ⟨rfl, rfl⟩
  · rw [past_eq]; simp [Crew.bWr, tget]
  · intro r hr; rw [past_eq]; simp [Crew.bWr, tget_tset, hr]
  all_goals rw [past_eq]; rfl

end Sys2Proof.Claims
end

