-- ==== Sys2Proof/Tests/Slice0.lean ====
section
/-! SUPPORT. Tests of decoding, well-formedness and single steps, and a witness for the hypotheses of every statement. Expected values are
worked out from the spec's tables and examples. -/

namespace Sys2Proof.Tests
set_option Elab.async false
open Sys2Proof Sys2Proof.Machine Sys2Proof.Claims

/-! ### Ill-formed instructions are refused -/

theorem test_illformed_scalar : [Instr.saddR ⟨false, 64, 0, 0, 0⟩, .saddR ⟨false, 0, 64, 0, 0⟩, .saddR ⟨false, 0, 0, 64, 0⟩, .saddR ⟨false, 0, 0, 0, 64⟩,
    .saddI ⟨false, 0, 0, 4096⟩, .jmp ⟨false, 8, 0⟩, .jmp ⟨false, 0, 2 ^ 21⟩, .lrun ⟨false, 2 ^ 17, 0⟩, .lrun ⟨false, 0, 128⟩, .sld64 ⟨false, 0, 4, 0, 0, 0, 0, 0, 0⟩,
    .sst8 ⟨false, 0, 0, 16, 0, 0, 0, 0, 0⟩, .lnch ⟨false, 0, 4, 0, 0, 0⟩, .brd ⟨false, 8, 0, 0⟩, .brd ⟨false, 0, 1024, 0⟩, .brd ⟨false, 0, 0, 2048⟩,
    .sread ⟨false, 256, 0, 0⟩, .sread ⟨false, 0, 16, 0⟩, .sread ⟨false, 0, 0, 4096⟩, .fence ⟨false, 4, 0, 0, 0, 0⟩, .fence ⟨false, 0, 0, 8, 0, 0⟩,
    .nop ⟨false, 2 ^ 24⟩, .sldiLo ⟨false, 0, 0, 0, 0, 2 ^ 32⟩, .sHint 0x6F ⟨false, 0⟩, .sIllegalOpcode 0x01 ⟨false, 0⟩, .sIllegalOpcode 0x70 ⟨false, 0⟩].all
    (fun i => !i.wf) = true := by decide

theorem test_illformed_lane : [Instr.vadd ⟨false, 8, false, 0, 0, 0, 0, 0, 0, false, 0, 0, 0⟩, .vadd ⟨false, 0, false, 256, 0, 0, 0, 0, 0, false, 0, 0, 0⟩,
    .vadd ⟨false, 0, false, 0, 0, 0, 0, 16, 0, false, 0, 0, 0⟩, .vadd ⟨false, 0, false, 0, 0, 0, 0, 0, 4, false, 0, 0, 0⟩,
    .vadd ⟨false, 0, false, 0, 0, 0, 0, 0, 0, false, 8, 0, 0⟩, .vadd ⟨false, 0, false, 0, 0, 0, 0, 0, 0, false, 0, 256, 0⟩,
    .vadd ⟨false, 0, false, 0, 0, 0, 0, 0, 0, false, 0, 0, 2 ^ 32⟩, .vcvt ⟨15⟩ ⟨false, 0, false, 0, 0, 0, 0, 0, 0, false, 0, 0, 0⟩,
    .lHint 0x1BF ⟨false, 0, false, 0, 0, 0, 0, 0, 0, false, 0, 0, 0⟩, .lIllegalOpcode 0x001 ⟨false, 0, false, 0, 0, 0, 0, 0, 0, false, 0, 0, 0⟩].all
    (fun i => !i.wf) = true := by decide

theorem test_illformed_event : [Instr.copyLand 0 32, .passGrant 48, .workgroupPlace 0 [⟨192, []⟩], .workgroupPlace 0 [⟨0, [(4, 0)]⟩], .replay 64 ⟨0, []⟩, .portTrain 16 0,
    .msixUnmask 256, .eviction 192 0 [], .registerWrite ⟨0, 0, 4, true, 2 ^ 32, 0⟩].all (fun i => !i.wf) = true := by decide

/-! ### Every opcode decodes to its form (R234, R235) -/

/-- Fields 3, 4, 5, 5 of layout SA below an opcode. -/
def sWord (op : Nat) : Nat := op * 2 ^ 24 + 0x0C4145
def sa0 : SA := ⟨false, 3, 4, 5, 5⟩
def si0 : SI := ⟨false, 3, 4, 0x145⟩
def sm0 : SM := ⟨false, 3, 0, 4, 5, 0, 1, 0, 1⟩
def sj0 : SJ := ⟨false, 0, 0xC4145⟩
def sr0 : SR := ⟨false, 0x0C4145⟩
def sx0 : SX := ⟨false, 3, 4, 5, 5, 7⟩
def sm6 : SM6 := ⟨false, 3, 0, 4, 5, 5⟩

theorem test_decode_scalar_arithmetic : (List.range 0x20).map (fun op => decodeS (sWord op) 0) =
    [.sIllegalOpcode 0 sr0, .saddR sa0, .saddI si0, .ssub sa0, .smulR sa0, .smulI si0, .smulhI sa0, .smulhN sa0, .sdivI sa0, .sdivN sa0, .sremI sa0, .sremN sa0,
     .sandR sa0, .sandI si0, .sorR sa0, .sorI si0, .sxorR sa0, .sxorI si0, .sshlR sa0, .sshlI si0, .sshrR sa0, .sshrI si0, .ssraR sa0, .ssraI si0,
     .sminI sa0, .sminN sa0, .smaxI sa0, .smaxN sa0, .ssetI sa0, .ssetN sa0, .sbit32 sa0, .sbit64 sa0] := by decide

theorem test_decode_scalar_memory : (List.range 0x2C).map (fun op => decodeS (sWord (0x20 + op)) 7) =
    [.sldiLo sx0, .sldiHi sx0, .sldiSx sx0, .sIllegalOpcode 0x23 sr0, .baddR sa0, .baddI si0, .bsetLo sa0, .bsetHi sa0, .bgetLo sa0, .bgetHi sa0, .bmov sa0,
     .sIllegalOpcode 0x2B sr0, .sIllegalOpcode 0x2C sr0, .sIllegalOpcode 0x2D sr0, .sIllegalOpcode 0x2E sr0, .sIllegalOpcode 0x2F sr0,
     .sldN8 sm0, .sldI8 sm0, .sldN16 sm0, .sldI16 sm0, .sldN32 sm0, .sldI32 sm0, .sld64 sm0, .sIllegalOpcode 0x37 sr0, .sst8 sm0, .sst16 sm0, .sst32 sm0, .sst64 sm0,
     .sIllegalOpcode 0x3C sr0, .sIllegalOpcode 0x3D sr0, .sIllegalOpcode 0x3E sr0, .sIllegalOpcode 0x3F sr0, .satomAdd sm0, .satomAnd sm0, .satomOr sm0, .satomXor sm0,
     .satomMin sm0, .satomMax sm0, .satomMinn sm0, .satomMaxn sm0, .satomXchg sm0, .scas sm0, .sIllegalOpcode 0x4A sr0, .sIllegalOpcode 0x4B sr0] := by decide

theorem test_decode_scalar_control : (List.range 0x26).map (fun op => decodeS (sWord (0x4C + op)) 7) =
    [.jmp sj0, .jmpcEqz sj0, .jmpcNez sj0, .jmpcLtz sj0, .jmpcGez sj0, .call sj0, .ret sa0, .brd ⟨false, 0, 0x188, 0x145⟩, .join sr0, .lrun ⟨false, 0x1882, 0x45⟩,
     .bar sa0, .gbar sa0, .peal sa0, .tget si0, .twait sa0, .twaitPres sa0, .lnch sm6, .lnchNb sm6, .exit sr0, .sIllegalOpcode 0x5F sr0, .gsetT sa0, .gsetF sa0,
     .gsetTrig sm6, .gclr sa0, .binc sa0, .rgrp sx0, .rhom si0, .sread ⟨false, 0x0C, 4, 0x145⟩, .swrite si0, .fence ⟨false, 0, 0, 3, 2, 0x145⟩, .yieldCrew sr0, .trap si0,
     .sysc si0, .brkpt si0, .nop sr0, .sIllegalOpcode 0x6F sr0, .sHint 0x70 sr0, .sHint 0x71 sr0] := by decide

/-- Every field of an L-word at a value of its own, below an opcode. -/
def lWord (op : Nat) : Nat := op * 2 ^ 86 + 3 * 2 ^ 83 + 2 ^ 82 + 10 * 2 ^ 74 + 11 * 2 ^ 66 + 12 * 2 ^ 58 + 13 * 2 ^ 50 + 2 * 2 ^ 46 + 1 * 2 ^ 44 + 2 ^ 43 + 5 * 2 ^ 40 + 0x21 * 2 ^ 32 + 0x89ABCDEF
def lf0 : LF := ⟨false, 3, true, 10, 11, 12, 13, 2, 1, true, 5, 0x21, 0x89ABCDEF⟩
def lAt (a n : Nat) : List Instr := (List.range n).map (fun i => decodeL (lWord (a + i)))

theorem test_decode_lane_arithmetic : lAt 0 0x1C =
    [.lIllegalOpcode 0 lf0, .vadd lf0, .vsub lf0, .vmul lf0, .vmulh lf0, .vmulw lf0, .vaddc .c lf0, .vaddc .b lf0, .vfma .fma lf0, .vfma .fms lf0, .vfma .fnma lf0,
     .vfma .fnms lf0, .vdiv .q lf0, .vdiv .rem lf0, .vdot .acc lf0, .vdot .noacc lf0, .vmin .num lf0, .vmin .prop lf0, .vmax .num lf0, .vmax .prop lf0, .vclamp lf0,
     .vmed3 lf0, .vabs lf0, .vneg lf0, .vsel lf0, .vlerp lf0, .vsad lf0, .lIllegalOpcode 0x1B lf0] := by decide

theorem test_decode_lane_compare_bits : lAt 0x20 0xF ++ lAt 0x40 0x10 =
    [.vcmp .eq lf0, .vcmp .ne lf0, .vcmp .lt lf0, .vcmp .le lf0, .vcmp .gt lf0, .vcmp .ge lf0, .vcmp .ord lf0, .vcmp .uno lf0, .vcmp .ueq lf0, .vcmp .une lf0,
     .vcmp .ult lf0, .vcmp .ule lf0, .vcmp .ugt lf0, .vcmp .uge lf0, .lIllegalOpcode 0x2E lf0, .vand lf0, .vor lf0, .vxor lf0, .vnot lf0, .vlop3 lf0, .vshl lf0, .vshr lf0,
     .vsra lf0, .vbfe lf0, .vbfi lf0, .vpopc lf0, .vclz .zero lf0, .vclz .sign lf0, .vbrev lf0, .vprmt lf0, .lIllegalOpcode 0x4F lf0] := by decide

theorem test_decode_lane_functions : lAt 0x60 0xF ++ lAt 0x80 1 ++ lAt 0x8E 9 ++ lAt 0xA0 4 =
    [.vrcp lf0, .vrsq lf0, .vsqrt lf0, .vexp2 lf0, .vlog2 lf0, .vsin .rad lf0, .vsin .pi lf0, .vcos .rad lf0, .vcos .pi lf0, .vtanh lf0, .vfrc lf0, .vrnd lf0, .vclass lf0,
     .vldexp lf0, .lIllegalOpcode 0x6E lf0, .vcvt ⟨0⟩ lf0, .vcvt ⟨14⟩ lf0, .lIllegalOpcode 0x8F lf0, .vpack .lo lf0, .vpack .hi lf0, .vunpk .lo lf0, .vunpk .hi lf0,
     .vbqnt lf0, .vbscl lf0, .lIllegalOpcode 0x96 lf0, .vmov lf0, .vmovi lf0, .vmovs lf0, .lIllegalOpcode 0xA3 lf0] := by decide

theorem test_decode_cross_lane : lAt 0xA4 0x2B ++ lAt 0xD0 8 =
    [.vshfl .w32 lf0, .vshfl .w16 lf0, .vshfl .w8 lf0, .vshfl .w4 lf0, .vshfu .w32 lf0, .vshfu .w16 lf0, .vshfu .w8 lf0, .vshfu .w4 lf0, .vshfd .w32 lf0, .vshfd .w16 lf0,
     .vshfd .w8 lf0, .vshfd .w4 lf0, .vshfx .w32 lf0, .vshfx .w16 lf0, .vshfx .w8 lf0, .vshfx .w4 lf0, .vvote .all lf0, .vvote .any lf0, .vvote .uni lf0, .vbal lf0,
     .vplog .and lf0, .vplog .or lf0, .vplog .xor lf0, .vplog .andn lf0, .vplog .orn lf0, .vplog .xnor lf0, .vplog .nand lf0, .vplog .nor lf0, .vpmov .tov lf0,
     .vpmov .fromv lf0, .vred .add lf0, .vred .min lf0, .vred .max lf0, .vred .and lf0, .vred .or lf0, .vred .xor lf0, .vscanInc .add lf0, .vscanInc .min lf0,
     .vscanInc .max lf0, .vscanInc .and lf0, .vscanInc .or lf0, .vscanInc .xor lf0, .lIllegalOpcode 0xCE lf0, .vscanExc .add lf0, .vscanExc .min lf0, .vscanExc .max lf0,
     .vscanExc .and lf0, .vscanExc .or lf0, .vscanExc .xor lf0, .vmatch lf0, .lIllegalOpcode 0xD7 lf0] := by decide

theorem test_decode_lane_memory : lAt 0xE0 0x19 ++ lAt 0x100 3 ++ lAt 0x112 3 ++ lAt 0x125 1 ++ lAt 0x152 3 =
    [.vld .glb lf0, .vld .scr lf0, .vld .gang lf0, .lIllegalOpcode 0xE3 lf0, .vst .glb lf0, .vst .scr lf0, .vst .gang lf0, .vsmp lf0, .cas .glb lf0, .cas .scr lf0, .cas .gang lf0,
     .vfence lf0, .cpy lf0, .cseal lf0, .cwait lf0, .lIllegalOpcode 0xEF lf0, .srd lf0, .swr lf0, .sstatGet lf0, .sstatSet lf0, .ralloc lf0, .rallocNb lf0, .rpush lf0,
     .qpop lf0, .lIllegalOpcode 0xF8 lf0, .atom ⟨.glb, .add, false⟩ lf0, .atom ⟨.glb, .add, true⟩ lf0, .atom ⟨.glb, .sub, false⟩ lf0, .atom ⟨.glb, .dec, false⟩ lf0,
     .atom ⟨.glb, .dec, true⟩ lf0, .lIllegalOpcode 0x114 lf0, .atom ⟨.scr, .and, true⟩ lf0, .atom ⟨.gang, .dec, false⟩ lf0, .atom ⟨.gang, .dec, true⟩ lf0,
     .lIllegalOpcode 0x154 lf0] := by decide

theorem test_decode_engines : lAt 0x160 0xB ++ lAt 0x170 0xC ++ lAt 0x180 6 ++ lAt 0x190 7 ++ lAt 0x1C0 1 ++ lAt 0x1FF 1 =
    [.mldb .i4 lf0, .mldb .n4 lf0, .mldb .i8 lf0, .mldb .n8 lf0, .mldb .e2m1 lf0, .mldb .e4m3 lf0, .mldb .e5m2 lf0, .mldb .bf16 lf0, .mldb .fp16 lf0, .smcp lf0,
     .lIllegalOpcode 0x16A lf0, .mma .i4 lf0, .mma .n4 lf0, .mma .i8 lf0, .mma .n8 lf0, .mma .e2m1 lf0, .mma .e4m3 lf0, .mma .e4m3Fine lf0, .mma .e5m2 lf0,
     .mma .e5m2Fine lf0, .mma .bf16 lf0, .mma .fp16 lf0, .lIllegalOpcode 0x17B lf0, .msca lf0, .macz lf0, .macrd .f32 lf0, .macrd .cnt lf0, .macwr lf0,
     .lIllegalOpcode 0x185 lf0, .collAdd lf0, .collWr lf0, .trav lf0, .rast lf0, .rcq lf0, .rcqTrain lf0, .lIllegalOpcode 0x196 lf0, .lHint 0x1C0 lf0, .lHint 0x1FF lf0] := by decide

/-! ### Worked encodings of the spec (R223 to R236) -/

theorem test_worked_scalar : decodeTableWord 32 0x5500200F = some (.lrun ⟨false, 64, 15⟩) ∧ decodeTableWord 32 0x53008020 = some (.brd ⟨false, 0, 16, 32⟩)
    ∧ decodeTableWord 64 0xFFFFFFFE22100000 = some (.sldiSx ⟨false, 4, 0, 0, 0, 0xFFFFFFFE⟩) ∧ decodeTableWord 32 0x010C4140 = some (.saddR ⟨false, 3, 4, 5, 0⟩)
    ∧ decodeTableWord 32 0x020C4FFF = some (.saddI ⟨false, 3, 4, 0xFFF⟩) ∧ decodeTableWord 32 0x131C6006 = some (.sshlI ⟨false, 7, 6, 6⟩)
    ∧ decodeTableWord 32 0xEE000000 = some (.nop ⟨true, 0⟩) ∧ decodeTableWord 32 0x69CC2000 = some (.fence ⟨false, 3, 0, 3, 1, 0⟩) := by decide

theorem test_worked_lane : decodeTableWord 96 0x00781C0C1000080000000000 = some (.vadd ⟨false, 7, false, 7, 3, 4, 0, 0, 0, true, 0, 0, 0⟩)
    ∧ decodeTableWord 96 0x383828000000805820502000 = some (.vld .glb ⟨false, 7, false, 10, 0, 0, 0, 2, 0, false, 0, 0x58, 0x20502000⟩) := by decide

/-! ### Single steps: the scalar unit -/

/-- A crew in focus about to issue an S-instruction; and one with an L-run of one word. -/
def sBase : State := State.reset.withFetchWord 32 0
def lBase : State := State.reset.withFetchWord 96 0
def sIn (s : Tbl W64) (b : Tbl VA) : State := sBase.modCrew 0 (fun c => { c with s := s, b := b })
def lIn (v : Tbl W32) (b : Tbl VA) : State := (lBase.modCrew 0 (fun c => { c with v := v })).modCrew 0 (fun c =>
  { c with runs := c.runs.map (fun r => { r with bAt := b }) })
/-- Bytes in memory from the start. -/
def seeded (s : State) (pa : Nat) (bs : List Byte) : State := { s with mem := (bs.zipIdx).foldl (fun m x => memSet m (pa + x.2) x.1) s.mem }
def after (i : Instr) (s : State) : State := Res.state (exec i s) s
def crewAfter (i : Instr) (s : State) : Crew := ((after i s).crew? 0).getD (newCrew placedLaunch 0 0 0 (0, 0) 0 0)
def sAfter (i : Instr) (s : State) (r : Nat) : W64 := tget 0 (crewAfter i s).s r
def vAfter (i : Instr) (s : State) (r l : Nat) : W32 := tget 0 (crewAfter i s).v (32 * r + l)
def pAfter (i : Instr) (s : State) (p l : Nat) : Bool := (tget 0 (crewAfter i s).p p).getLsbD l
/-- The value on its way to a scalar or lane register. -/
def sDue (i : Instr) (s : State) (r : Nat) : Option W64 := ((crewAfter i s).pend.getLast?).bind (fun q => tget? q.ss r)
def vDue (i : Instr) (s : State) (r l : Nat) : Option W32 := ((crewAfter i s).pend.getLast?).bind (fun q => tget? q.vs (32 * r + l))
def pDue (i : Instr) (s : State) (p l : Nat) : Option Bool := ((crewAfter i s).pend.getLast?).bind (fun q => tget? q.ps (32 * p + l))
/-- Class and address of the trap at which the crew has stopped. -/
def trapOf (i : Instr) (s : State) : Option (Nat × Nat) := ((crewAfter i s).stop).map (fun st => (st.trap.cls, st.trap.addr))

-- R250's table.
theorem test_sdiv_srem : sAfter (.sdivI ⟨false, 3, 1, 2, 0⟩) (sIn [(1, -7), (2, 2)] []) 3 = -3 ∧ sAfter (.sremI ⟨false, 3, 1, 2, 0⟩) (sIn [(1, -7), (2, 2)] []) 3 = -1
    ∧ sAfter (.sdivN ⟨false, 3, 1, 2, 0⟩) (sIn [(1, 9)] []) 3 = 0xFFFFFFFFFFFFFFFF ∧ sAfter (.sremN ⟨false, 3, 1, 2, 0⟩) (sIn [(1, 9)] []) 3 = 9
    ∧ sAfter (.sdivI ⟨false, 3, 1, 2, 0⟩) (sIn [(1, 0x8000000000000000), (2, -1)] []) 3 = 0x8000000000000000 := by decide
theorem test_sshl_ssra_clz : sAfter (.sshlR ⟨false, 3, 1, 2, 0⟩) (sIn [(1, 1), (2, 65)] []) 3 = 2 ∧ sAfter (.ssraI ⟨false, 3, 1, 1⟩) (sIn [(1, -8)] []) 3 = -4
    ∧ sAfter (.sbit32 ⟨false, 3, 1, 0, 0⟩) (sIn [(1, 0xFFFFFFFF00000000)] []) 3 = 32 := by decide
-- R249: wraps, high products, signed and unsigned comparisons.
theorem test_sadd_wraps : sAfter (.saddR ⟨false, 1, 1, 2, 0⟩) (sIn [(1, -1), (2, 3)] []) 1 = 2 ∧ sAfter (.saddI ⟨false, 3, 1, 0xFFF⟩) (sIn [(1, 5)] []) 3 = 4 := by decide
theorem test_smulh : sAfter (.smulhI ⟨false, 3, 1, 1, 0⟩) (sIn [(1, -1)] []) 3 = 0 ∧ sAfter (.smulhN ⟨false, 3, 1, 1, 0⟩) (sIn [(1, -1)] []) 3 = 0xFFFFFFFFFFFFFFFE := by decide
theorem test_smin_sset : sAfter (.sminI ⟨false, 3, 1, 2, 0⟩) (sIn [(1, -1), (2, 1)] []) 3 = -1 ∧ sAfter (.sminN ⟨false, 3, 1, 2, 0⟩) (sIn [(1, -1), (2, 1)] []) 3 = 1
    ∧ sAfter (.ssetI ⟨false, 3, 1, 2, 2⟩) (sIn [(1, -1), (2, 1)] []) 3 = 1 ∧ sAfter (.ssetN ⟨false, 3, 1, 2, 2⟩) (sIn [(1, -1), (2, 1)] []) 3 = 0 := by decide
-- R251, R252.
theorem test_sldi : sAfter (.sldiSx ⟨false, 4, 0, 0, 0, 0xFFFFFFFE⟩) sBase 4 = -2 ∧ sAfter (.sldiHi ⟨false, 4, 0, 0, 0, 7⟩) (sIn [(4, 0x100000005)] []) 4 = 0x700000005 := by decide
theorem test_badd_bset_hi : tget 0 (crewAfter (.baddI ⟨false, 0x12, 0x31, 0xFFF⟩) (sIn [] [(1, 0)])).b 2 = BitVec.allOnes 72
    ∧ tget 0 (crewAfter (.bsetHi ⟨false, 2, 1, 0, 0⟩) (sIn [(1, 0x1AB)] [(2, 5)])).b 2 = 0xAB0000000000000005 := by decide
-- R253: the bytes of the placed table entry 0x20001 at 0x10000; R254.
theorem test_sld : sDue (.sldI8 ⟨false, 3, 0, 1, 2, 3, 0, 0, 0⟩) (seeded (sIn [] [(1, 0x50000)]) 0x50000 [0x80]) 3 = some 0xFFFFFFFFFFFFFF80
    ∧ sDue (.sldN16 ⟨false, 3, 0, 1, 2, 3, 0, 0, 0⟩) (sIn [(2, 2)] [(1, 0x10000)]) 3 = some 2 := by decide +kernel
theorem test_satom_scas : (let t := after (.satomAdd ⟨false, 3, 0, 1, 2, 3, 0, 0, 0⟩) (sIn [(3, 5)] [(1, 0x20000)]); (t.getLocs (paList [(0x20000, 4)] |>.map .mem)) = 0x30006)
    ∧ sDue (.scas ⟨false, 4, 0, 1, 2, 3, 0, 0, 1⟩) (sIn [(4, 1)] [(1, 0x20000)]) 4 = some 0x30001 := by decide +kernel
theorem test_sst_scratch : (after (.sst16 ⟨false, 3, 0, 1, 2, 0, 1, 0, 0⟩) (sIn [(3, 0x12345)] [(1, 64)])).getLocs [.scr 0 64, .scr 0 65, .scr 0 66] = 0x2345 := by decide +kernel
-- R255, R31, R32.
theorem test_jumps : (crewAfter (.jmp ⟨false, 0, 0x1FFFFF⟩) sBase).pc = 0x3FFFC ∧ (crewAfter (.jmpcLtz ⟨false, 2, 4⟩) (sIn [(58, -1)] [])).pc = 0x40010
    ∧ (crewAfter (.jmpcLtz ⟨false, 2, 4⟩) sBase).pc = 0x40004 ∧ tget 0 (crewAfter (.call ⟨false, 0, 8⟩) sBase).b 15 = 0x40004
    ∧ trapOf (.ret ⟨false, 0, 1, 0, 0⟩) (sIn [] [(1, 0x50002)]) = some (4, 0x50002) := by decide
theorem test_brd_splits : (crewAfter (.brd ⟨false, 0, 16, 32⟩) (sBase.modCrew 0 (fun c => { c with p := [(0, 3)] }))).stack
    = [.path 0x40040 3 (some 0) 0 none, .path 0x40004 0xFFFFFFFC (some 0) 0 none, .join 0 0x40080 0 2 none] := by decide
theorem test_join_then_exit : (crewAfter (.join ⟨false, 0⟩) (sBase.modCrew 0 (fun c => { c with stack := [.path 0x40000 3 (some 0) 0 none, .join 0 0x40000 0xC 1 none] }))).stack
      = [.path 0x40004 0xF none 0 none]
    ∧ ((crewAfter (.exit ⟨false, 0⟩) (sBase.modCrew 0 (fun c => { c with stack := [.path 0x40000 3 (some 0) 0 none, .join 0 0x40000 0xC 1 none] }))).threads.map (fun e => e.1)).take 2 = [2, 3] := by
  decide
-- R36, R44, R45, R265, R263, R268, R269, R27, R220, R236.
theorem test_bar_parks : (let t := after (.bar ⟨false, 5, 1, 0, 0⟩) ((sIn [(1, 9)] []).modWg 0 (fun w => { w with crews := [0, 7] })); (t.barrier (.wg 0 5)).counter = 9 ∧ (t.barrier (.wg 0 5)).arrived.length = 32) := by decide
theorem test_time : sAfter (.tget ⟨false, 3, 0, 5⟩) sBase 3 = 0 ∧ sAfter (.tget ⟨false, 3, 0, 3⟩) sBase 3 = -1 ∧ trapOf (.tget ⟨false, 3, 0, 1⟩) sBase = some (1, 0)
    ∧ (crewAfter (.twait ⟨false, 0, 1, 0, 0⟩) (sIn [(1, 10)] [])).wait = .twait (some 10) := by decide
theorem test_sread_binc : sAfter (.sread ⟨false, 3, 0, 1⟩) sBase 3 = 0 ∧ vAfter (.sread ⟨false, 3, 0, 0⟩) sBase 3 31 = 31 ∧ tget 0 (crewAfter (.binc ⟨false, 0x13, 1, 0, 0⟩) (sIn [(1, 0x100000005)] [])).bins 3 = 5 := by
  decide
theorem test_guards : tget .unbound (crewAfter (.gsetT ⟨false, 4, 0, 0, 0⟩) sBase).guards 4 = .yes ∧ tget .unbound (crewAfter (.gsetTrig ⟨false, 4, 0, 1, 2, 3⟩) (sIn [(3, 0x20001)] [(1, 0x10000)])).guards 4 = .yes := by
  decide
theorem test_traps : trapOf (.sysc ⟨false, 0, 0, 7⟩) sBase = some (14, 0) ∧ trapOf (.sIllegalOpcode 0 ⟨false, 0⟩) sBase = some (1, 0) ∧ (crewAfter (.brkpt ⟨false, 0, 0, 7⟩) sBase).pc = 0x40004
    ∧ (crewAfter (.sHint 0x75 ⟨true, 5⟩) sBase).pc = 0x40004 := by decide
theorem test_lrun : ((crewAfter (.lrun ⟨false, 64, 15⟩) (sIn [(9, 4)] [])).runs.map (fun r => (r.loff, r.count, tget 0 r.sAt 9))) = [(64, 16, 4)] := by decide
theorem test_step_runs_word : (match step (State.reset.withFetchWord 32 0x010C4140) with
    | .next t => (t.crew? 0).elim 0 (fun c => c.pc)
    | _ => 0) = 0x40004 := by decide

/-! ### Single steps: the lanes -/

def lf (vd va vb vc ty : Nat) : LF := ⟨false, 7, false, vd, va, vb, vc, ty, 0, false, 0, 0, 0⟩
def v0 (xs : List (Nat × W32)) : Tbl W32 := xs.map (fun e => (32 * e.1, e.2))

-- R282, R278, R281: the borderline table of chapter 15.
theorem test_vabs : vAfter (.vabs (lf 7 3 0 0 0)) (lIn (v0 [(3, 0x80000000)]) []) 7 0 = 0x80000000
    ∧ vAfter (.vabs { lf 7 3 0 0 0 with sat := true }) (lIn (v0 [(3, 0x80000000)]) []) 7 0 = 0x7FFFFFFF := by decide
theorem test_vadd : vAfter (.vadd { lf 7 3 4 0 10 with sat := true }) (lIn (v0 [(3, 0x7F7F7F7F), (4, 0x01010101)]) []) 7 0 = 0x7F7F7F7F
    ∧ vAfter (.vadd (lf 7 3 4 0 0)) (lIn (v0 [(3, 0xFFFFFFFF), (4, 2)]) []) 7 0 = 1 := by decide
theorem test_vmin : vAfter (.vmin .num (lf 7 3 4 0 2)) (lIn (v0 [(3, 0x7FC00001), (4, 0x40000000)]) []) 7 0 = 0x40000000
    ∧ vAfter (.vmin .prop (lf 7 3 4 0 2)) (lIn (v0 [(3, 0x7FC00001), (4, 0x40000000)]) []) 7 0 = 0x7FC00000
    ∧ vAfter (.vmin .num (lf 7 3 4 0 2)) (lIn (v0 [(3, 0), (4, 0x80000000)]) []) 7 0 = 0x80000000 := by decide
theorem test_vcmp : pAfter (.vcmp .ne (lf 0 3 4 0 2)) (lIn (v0 [(3, 0x7FC00000), (4, 0x3F800000)]) []) 0 0 = false
    ∧ pAfter (.vcmp .une (lf 0 3 4 0 2)) (lIn (v0 [(3, 0x7FC00000), (4, 0x3F800000)]) []) 0 0 = true := by decide
theorem test_vdiv_by_zero : vDue (.vdiv .q (lf 7 3 4 0 0)) (lIn (v0 [(3, 7)]) []) 7 0 = some 0xFFFFFFFF ∧ vDue (.vdiv .rem (lf 7 3 4 0 0)) (lIn (v0 [(3, 7)]) []) 7 0 = some 7 := by decide
theorem test_vcvt : vAfter (.vcvt ⟨2⟩ (lf 7 3 0 0 0)) (lIn (v0 [(3, 0x40200000)]) []) 7 0 = 2 ∧ vAfter (.vcvt ⟨2⟩ (lf 7 3 0 0 0)) (lIn (v0 [(3, 0x4F32D05E)]) []) 7 0 = 0x7FFFFFFF
    ∧ vAfter (.vcvt ⟨2⟩ (lf 7 3 0 0 0)) (lIn (v0 [(3, 0x7FC00000)]) []) 7 0 = 0 ∧ trapOf (.vcvt ⟨14⟩ (lf 7 3 0 0 3)) lBase = some (1, 0) := by decide
theorem test_vfma_single_rounding : vAfter (.vfma .fma (lf 7 3 4 5 2)) (lIn (v0 [(3, 0x3F800001), (4, 0x3F800001), (5, 0xBF800002)]) []) 7 0 = 0x28800000 := by decide
theorem test_vpack_vlop3_trap : trapOf (.vpack .hi { lf 5 1 2 0 3 with sub := 2 }) lBase = some (1, 0) ∧ trapOf (.vlop3 { lf 5 1 2 3 0 with sub := 0x80 }) lBase = some (1, 0) := by decide
theorem test_shift_modulo : vAfter (.vshl (lf 7 3 4 0 0)) (lIn (v0 [(3, 1), (4, 33)]) []) 7 0 = 2 ∧ vAfter (.vsra (lf 7 3 4 0 5)) (lIn (v0 [(3, 0x8000_0004), (4, 0x000F_0001)]) []) 7 0 = 0xFFFF_0002 := by decide
theorem test_vaddc : (let s := lIn (v0 [(3, 0xFFFFFFFF), (4, 1)]) []; vAfter (.vaddc .c (lf 7 3 4 0 1)) s 7 0 = 0 ∧ pAfter (.vaddc .c (lf 7 3 4 0 1)) s 0 0 = true ∧ pAfter (.vaddc .b (lf 7 4 3 0 1)) s 0 0 = true) := by decide
-- R300: lane 10 of a segment of 8 reads its own operand.
theorem test_vshfu : vDue (.vshfu .w8 { lf 1 1 0 0 0 with sub := 0x83, low := 3 }) (lIn ((List.range 32).map (fun l => (32 + l, BitVec.ofNat 32 (100 + l)))) []) 1 10 = some 110
    ∧ pDue (.vshfu .w8 { lf 1 1 0 0 0 with sub := 0x83, low := 3 }) lBase 3 10 = some false
    ∧ vDue (.vshfu .w8 { lf 1 1 0 0 0 with sub := 0x83, low := 3 }) (lIn ((List.range 32).map (fun l => (32 + l, BitVec.ofNat 32 (100 + l)))) []) 1 11 = some 108 := by decide
-- The worked scan of chapter 15: lanes 0, 1, 3, 5 under p0.
def scanState : State := (lIn ([1, 1, 1, 16777216, 1, 1].zipIdx.map (fun e => (32 * 8 + e.2, BitVec.ofNat 32 (if e.1 = 1 then 0x3F800000 else 0x4B800000)))) []).modCrew 0
  (fun c => { c with p := [(0, 0x2B)] })
theorem test_vscan : (let f : LF := { lf 9 8 0 0 2 with gp := 0 }
    [0, 1, 3, 5, 2].map (fun l => vDue (.vscanInc .add f) scanState 9 l) = [some 0x3F800000, some 0x40000000, some 0x4B800001, some 0x4B800002, none]
    ∧ [0, 1, 3, 5].map (fun l => vDue (.vscanExc .add f) scanState 9 l) = [some 0, some 0x3F800000, some 0x40000000, some 0x4B800001]
    ∧ vDue (.vred .add f) scanState 9 3 = some 0x4B800002) := by decide +kernel
-- The worked block quantisation of chapter 15.
theorem test_vbqnt : (let f : LF := { lf 20 4 0 0 12 with gp := 0, sub := 0x13 }
    let s := (lIn (v0 [(4, 0xC20063D0), (5, 0x0000211F)]) []).modCrew 0 (fun c => { c with p := [(0, 1)] })
    [20, 21, 28].map (fun r => vAfter (.vbqnt f) s r 0) = [0x0001B478, 0, 0x40800000]) := by decide +kernel

/-! ### Single steps: lane memory -/

/-- Lanes 0, 1 and 2 under p0, with a word at virtual and physical 0x50000, named by b2. -/
def atomState (w : Nat) (v : Tbl W32) : State := (seeded (lIn v [(2, 0x50000)]) 0x50000 (leBytes 4 w)).modCrew 0 (fun c => { c with p := [(0, 7)] })
def wordAt (s : State) : Nat := s.getLocs ((List.range 4).map (fun i => .mem (0x50000 + i)))
-- R313's worked merged pair add, and R314's borderline CAS.
theorem test_atom_bf16 : (let f : LF := { lf 8 0 4 9 4 with gp := 0, sub := 0x18, low := 0x24002000 }
    let s := atomState 0x43803F80 [(288, 0x3F800000), (289, 0x3F800000), (290, 0x3F800000)]
    wordAt (after (.atom ⟨.glb, .add, false⟩ f) s) = 0x43823F80
    ∧ [0, 1, 2].map (fun l => vDue (.atom ⟨.glb, .add, false⟩ f) s 8 l) = [some 0x43803F80, some 0x43803F80, some 0x43813F80]) := by decide +kernel
theorem test_cas_merges : (let f : LF := { lf 8 6 4 9 1 with gp := 0, sub := 0x18, low := 0x24002000 }
    let s := atomState 0 [(6 * 32 + 2, 5), (288, 5), (289, 7), (290, 9)]
    wordAt (after (.cas .glb f) s) = 9 ∧ [0, 1, 2].map (fun l => vDue (.cas .glb f) s 8 l) = [some 0, some 5, some 5]) := by decide +kernel
-- R309: where lanes overlap the highest lane's bytes stand; R308: a byte load extends by its type.
theorem test_vst_overlap : wordAt (after (.vst .glb { lf 0 0 4 9 0 with gp := 0, sub := 0x18, low := 0x24002000 }) (atomState 0 [(288, 1), (289, 2), (290, 3)])) = 3 := by decide +kernel
theorem test_vld_byte : vDue (.vld .glb { lf 8 0 4 0 0 with gp := 0, sub := 0x19, low := 0x24002000 }) (atomState 0x80 []) 8 2 = some 0xFFFFFF80
    ∧ trapOf (.vld .glb { lf 8 0 4 0 2 with sub := 0x19, low := 0x24002000 }) (atomState 0x80 []) = some (1, 0)
    ∧ trapOf (.atom ⟨.glb, .inc, false⟩ { lf 8 0 4 9 0 with sub := 0x18, low := 0x24002000 }) (atomState 0 []) = some (1, 0) := by decide +kernel
-- R306, R307 (MASK, SCOPE as the table of chapter 16): a load past the mapped TiB is a translation fault at its lowest byte.
theorem test_vld_faults : (trapOf (.vld .glb { lf 8 0 4 0 0 with sub := 0x18, low := 0x24002000 }) (lIn [] [(2, 0x10000000000)])).map (fun e => e.2) = some 0x10000000000 := by decide

/-! ### Numbers and engines: the worked examples of chapters 05, 03, 07, 09 and 11 -/

-- R108's table of conversions from FP32.
theorem test_round : [(0x43E80000, Fmt.e4m3, RMode.rne, false), (0x43EB0000, .e4m3, .rne, false), (0x43EB0000, .e4m3, .rne, true), (0x43EB0000, .e4m3, .rz, false),
    (0x3A83126F, .e4m3, .rne, false), (0xFF800000, .e4m3, .rne, false), (0xFF800000, .e4m3, .rne, true), (0x476A6000, .e5m2, .rne, false), (0x47723000, .e5m2, .rne, false),
    (0x47723000, .e5m2, .rne, true), (0x40A00000, .e2m1, .rne, false), (0x3F400000, .e2m1, .rne, false), (0x40E00000, .e2m1, .rne, false), (0x7FC00000, .e2m1, .rne, false)].map
    (fun e => round (Fmt.f32.dec e.1) e.2.1 e.2.2.1 e.2.2.2) = [0x7E, 0x7F, 0x7E, 0x7E, 0x01, 0x7F, 0xFE, 0x7B, 0x7C, 0x7B, 0x6, 0x2, 0x7, 0x0] := by decide
-- The worked block of chapter 05 in the standard and the fine window, and its folds.
def blockA : List Elem := [0x7E, 0x39, 0xAA, 0x46].map Fmt.e4m3.elem
def blockB : List Elem := [0x30, 0x40, 0x48, 0xB8].map Fmt.e4m3.elem
theorem test_align : alignBlock blockA (some 8) = ([224, 0, 0, 1], 1, false) ∧ alignBlock blockA (some 12) = ([3584, 9, -2, 28], -3, false)
    ∧ alignBlock blockB (some 12) = ([256, 1024, 2048, -512], -9, false) := by decide
theorem test_fold : foldElem 0x4B800000 56832 (-8) false 0x3E800000 0x40400000 = 0x4B800053 ∧ foldElem 0x4B800000 908288 (-12) false 0x3E800000 0x40400000 = 0x4B800053
    ∧ foldElem 0 0 0 false 0x7F800000 0x3F800000 = 0x7FC00000 := by decide
-- R66's worked gang addresses: G = 3.
theorem test_gang_addresses : (let s := { State.reset with wgs := [(4, placedWg), (5, { placedWg with wgi := 1 }), (6, { placedWg with wgi := 2 })] }
    [s.gangLoc 0 0 3 0xA85, s.gangLoc 0 0 3 0xA00, s.gangLoc 0 0 3 0x17F80]) = [.scr 4 0x385, .scr 6 0x300, .scr 6 0x7F80] := by decide
-- R206's worked reduction in skip mode: both orders.
def reduced (order : List Nat) : Nat × Nat :=
  let m := order.foldl (fun m x => addRow m ⟨0, 0, some 0, 3, 0, true⟩ 0 0 (x :: List.replicate 31 0)) { Matrix.empty with acc := [(0, 0x3F800000)] }
  ((tget 0 m.acc 0).toNat, tget 0 m.cnt 0)
theorem test_skip_reduction : reduced [0x4B800000, 0x3F800000, 0x7FC00000] = (0x4B800000, 2) ∧ reduced [0x3F800000, 0x4B800000, 0x7FC00000] = (0x4B800001, 2) := by decide
-- R164's worked frame time at 90 kHz.
theorem test_frame_time : (let s := { State.reset with tnow := 86400000150000 }; s.frameTime 0 0xCF7C5800) = 86400000000000 := by decide
-- R141: three keys of 40, 3 and 21 threads need four crews; with three slots the packing is plain.
def moving (k n from_ : Nat) : List Moving := (List.range n).map (fun i => { thread := ⟨0, 0, (from_ + i) / 32, (from_ + i) % 32⟩, key := k, cid := 0, lane := 0, n := 0 })
theorem test_packing : ((packCrews 4 (sortMoving (moving 0 40 0 ++ moving 1 3 40 ++ moving 2 21 43))).map List.length) = [32, 8, 3, 21]
    ∧ ((packCrews 3 (sortMoving (moving 0 40 0 ++ moving 1 3 40 ++ moving 2 21 43))).map List.length) = [32, 32] := by decide +kernel

/-! ### Witnesses: the hypotheses of each statement are met together -/

/-- x answers a, as a test that can be evaluated (answers_iff). -/
def answers {ε α : Type} [DecidableEq α] (x : Except ε α) (a : α) : Bool := match x with
  | .ok b => decide (b = a)
  | .error _ => false
theorem answers_iff {ε α : Type} [DecidableEq α] (x : Except ε α) (a : α) : answers x a = true ↔ x = .ok a := by
  cases x <;> simp [answers]

def crewS : Crew := newCrew placedLaunch 0 0 0 (0, 0) 0 0
theorem focusS : Focus sBase crewS := ⟨by decide, by decide, by decide, by decide⟩
theorem focus_set (c : Crew) (h : c.runPath.isSome = true) (n : c.stack.length ≤ 32 := by decide) : Focus (sBase.setCrew 0 c) c := ⟨rfl, h, n, show sBase.writes = [] by decide⟩
theorem settledS : sBase.Settled := ⟨by decide +kernel, by decide⟩
theorem settled_set (c : Crew) : (sBase.setCrew 0 c).Settled := by simpa [State.Settled, State.setCrew] using settledS
theorem settled_like (s : State) (hm : s.mem = sBase.mem) (hw : s.writes = sBase.writes) : s.Settled := by
  rw [State.Settled, hm, hw]; exact settledS
/-- A graph without events is in form. -/
theorem graphOk_new {s : State} (h : s.evs = []) (ho : s.orders = []) : GraphOk s :=
  ⟨fun i e he => by simp [h] at he, fun key => by simp [State.order, ho, tget?]⟩
theorem graphS : GraphOk sBase := graphOk_new rfl rfl
def bytesAt (a n : Nat) : List Loc := (List.range n).map (fun i => .mem (a + i))
def scrAt (a n : Nat) : List Loc := (List.range n).map (fun i => .scr 0 (a + i))

theorem witness_ScalarForms : Focus sBase crewS ∧ mayGo crewS false false = true ∧ mayGo crewS true false = true ∧ (⟨false, 4, 0, 0, 0, 0xFFFFFFFF⟩ : SX).wf = true :=
  ⟨focusS, by decide⟩
theorem witness_BaseRegisterForms : Focus sBase crewS ∧ mayGo crewS false false = true ∧ (⟨false, 15, 0, 0⟩ : SI).w = (⟨false, 15, 0, 0, 0⟩ : SA).w := ⟨focusS, by decide⟩

/-- A crew whose s2 and b1 form an address. -/
def addrCrew (s2 : W64) (b1 : VA) : Crew := { crewS with s := (2, s2) :: [], b := [(1, b1)] }
def addrState (s2 : W64) (b1 : VA) : State := sBase.setCrew 0 (addrCrew s2 b1)
def glbSm : SM := ⟨false, 4, 0, 1, 2, 3, 0, 0, 1⟩
def scrSm : SM := ⟨false, 4, 0, 1, 2, 0, 1, 0, 1⟩
theorem witness_ScalarLoads : Focus (addrState 4 0x20000) (addrCrew 4 0x20000) ∧ GraphOk (addrState 4 0x20000) ∧ GraphOk (addrState 4 0x10) ∧
    (let s := addrState 4 0x20000; let c := addrCrew 4 0x20000; let s1 := seenS s c false false
     mayGo c false false = true ∧ ordOk .load 0 = true ∧ scopeOk 0 3 = true ∧ c.tableFull .s = false ∧
     (∀ n ∈ [1, 2, 4, 8], answers (s1.locate c (smSpace glbSm) .load (smEa s.oracle c glbSm) n) (bytesAt 0x20004 n) = true ∧ s1.absent (bytesAt 0x20004 n) = false ∧ Named (bytesAt 0x20004 n)))
    ∧ (let s := addrState 4 0x10; let c := addrCrew 4 0x10; let s1 := seenS s c false false
       s1.displaced c = false ∧ answers (s1.locate c (smSpace scrSm) .load (smEa s.oracle c scrSm) 8) (scrAt 0x14 8) = true ∧ s1.absent (scrAt 0x14 8) = false ∧ Named (scrAt 0x14 8)) :=
  ⟨focus_set _ (by decide), graphOk_new rfl rfl, graphOk_new rfl rfl, by unfold Named; decide +kernel⟩
theorem witness_ScalarStores : Focus (addrState 4 0x20000) (addrCrew 4 0x20000) ∧ GraphOk (addrState 4 0x20000) ∧ (addrState 4 0x20000).Settled ∧
    (let s := addrState 4 0x20000; let c := addrCrew 4 0x20000; let s1 := seenS s c false false
     ordOk .store 0 = true ∧ scopeOk 0 3 = true ∧
     (∀ n ∈ [1, 2, 4, 8], answers (s1.locate c (smSpace glbSm) .store (smEa s.oracle c glbSm) n) (bytesAt 0x20004 n) = true ∧ s1.absent (bytesAt 0x20004 n) = false
       ∧ s1.poisonedLocs (bytesAt 0x20004 n) = false ∧ (bytesAt 0x20004 n).Nodup ∧ Named (bytesAt 0x20004 n) ∧ ∀ l ∈ bytesAt 0x20004 n, placeStands s1 l = true)) :=
  ⟨focus_set _ (by decide), graphOk_new rfl rfl, settled_set _, by unfold Named; decide +kernel⟩
theorem witness_ScalarAtomics : Focus (addrState 8 0x20000) (addrCrew 8 0x20000) ∧ GraphOk (addrState 8 0x20000) ∧ (addrState 8 0x20000).Settled ∧
    (let s := addrState 8 0x20000; let c := addrCrew 8 0x20000; let s1 := seenS s c false false
     scopeOk 0 3 = true ∧ c.tableFull .s = false ∧ smEa s.oracle c glbSm % 8 = 0 ∧ glbSm.sd % 2 = 0 ∧
     (∀ n ∈ [4, 8], answers (s1.locate c (smSpace glbSm) .atomic (smEa s.oracle c glbSm) n) (bytesAt 0x20008 n) = true ∧ s1.absent (bytesAt 0x20008 n) = false
       ∧ s1.poisonedLocs (bytesAt 0x20008 n) = false ∧ (bytesAt 0x20008 n).Nodup ∧ Named (bytesAt 0x20008 n) ∧ ∀ l ∈ bytesAt 0x20008 n, placeStands s1 l = true)) :=
  ⟨focus_set _ (by decide), graphOk_new rfl rfl, settled_set _, by unfold Named; decide +kernel⟩
theorem witness_UniformControlFlow : Focus (addrState 0 0x50000) (addrCrew 0 0x50000) ∧ (⟨false, 7, 0x1FFFFF⟩ : SJ).wf = true ∧ (addrCrew 0 0x50000).bRd 1 = 0x50000
    ∧ (addrCrew 0 0x50002).bRd 1 = 0x50002 ∧ (addrCrew 0 0x50000).sRd 0 (56 + 7) = 0 ∧ ({ crewS with s := [(63, -1)] } : Crew).sRd 0 63 = -1
    ∧ (∀ e ∈ jumpConds ⟨false, 7, 0⟩, e.2 0 = true ∨ e.2 (-1) = true) ∧ (∀ e ∈ jumpConds ⟨false, 7, 0⟩, e.2 0 = false ∨ e.2 (-1) = false) :=
  ⟨focus_set _ (by decide), by decide +kernel⟩
def predCrew (m : W32) : Crew := { crewS with p := [(0, m)] }
def joinCrew (x : VA) : Crew := { crewS with stack := [.path 0x40000 3 (some 0) 0 none, .join 0 x 0xC 1 none] }
theorem witness_DivergenceAndReconvergence : (∀ m, Focus (sBase.setCrew 0 (predCrew m)) (predCrew m)) ∧ Focus (sBase.setCrew 0 (joinCrew 0x40000)) (joinCrew 0x40000)
    ∧ (let taken (m : W32) : W32 := (predCrew m).active &&& (predCrew m).pMask 0 0
       mayGo crewS false true = true ∧ taken 0 = 0 ∧ (taken (-1) ≠ 0 ∧ crewS.active &&& ~~~(taken (-1)) = 0) ∧ (taken 5 ≠ 0 ∧ crewS.active &&& ~~~(taken 5) ≠ 0)
       ∧ crewS.stack.length ≤ 30)
    ∧ ((crewS.runPath.bind (fun e => crewS.joinOf e.link)) = none)
    ∧ (∃ j, ((joinCrew 0x40000).runPath.bind (fun e => (joinCrew 0x40000).joinOf e.link)) = some j ∧ j.pc = (joinCrew 0x40000).pc)
    ∧ (∃ j, ((joinCrew 0x40004).runPath.bind (fun e => (joinCrew 0x40004).joinOf e.link)) = some j ∧ j.pc ≠ (joinCrew 0x40004).pc) :=
  ⟨fun _ => focus_set _ rfl (show crewS.stack.length ≤ 32 by decide), focus_set _ (by decide), by decide, by decide, ⟨_, rfl, by decide⟩, ⟨_, rfl, by decide⟩⟩
/-- A crew of 33 stack entries, whose private area at the given address holds the lowest of them. -/
def deepCrew : Crew := { crewS with stack := .path 0x40000 3 none 0 none :: (List.range 32).map (fun i => Entry.join i 0x40000 1 0 none) }
def deepState (area : VA) : State :=
  { seeded (sBase.setCrew 0 deepCrew) 0x68000 (spillBytes deepCrew.stack) with launches := [(0, { placedLaunch with kern := { placedKernel with pstack := area, pstackKib := 1 } })] }
theorem witness_DivergenceAndReconvergence_spilled : (∀ a, (deepState a).crew? 0 = some deepCrew ∧ (deepState a).writes = []) ∧ deepCrew.runPath.isSome = true ∧ deepCrew.stack.length = 33
    ∧ (let s := deepState 0x68000
       (s.privateArea deepCrew).1 = 0x68000 ∧ answers (s.access (s.ctxOf deepCrew) .load 0x68000 32) [(0x68000, 32)] = true
       ∧ s.touchesPoison [(0x68000, 32)] = false ∧ s.rdPieces [(0x68000, 32)] = spillBytes deepCrew.stack
       ∧ (({ s with poisoned := [0x68000 / 128] } : State).touchesPoison [(0x68000, 32)]) = true
       ∧ answers (s.access (s.ctxOf deepCrew) .store 0x68000 32) [(0x68000, 32)] = true ∧ (paList [(0x68000, 32)]).Nodup)
    ∧ (let s := deepState (2 ^ 71)
       (match s.access (s.ctxOf deepCrew) .load (s.privateArea deepCrew).1 32 with
       | .ok _ => false
       | .error _ => true) = true) ∧ mayGo deepCrew false false = true :=
  ⟨fun _ => ⟨rfl, rfl⟩, by decide +kernel⟩
theorem witness_RunsFencesAndNoOperations : Focus sBase crewS ∧ GraphOk sBase ∧ mayGo crewS false false = true ∧ mayGo crewS true true = true ∧ 131071 + 0 ≤ 131071 ∧ crewS.runs.length < 4 ∧ 5 < 6 := ⟨focusS, graphS, by decide⟩
theorem witness_ExitRetiresLanes : Focus sBase crewS ∧ mayGo crewS false true = true := ⟨focusS, by decide⟩
def gangState : State := { sBase with launches := [(0, { placedLaunch with record := { placedLaunch.record with gang := 1 } })], gangs := [(gangKey 0 0, { bars := [], left := [], heldSubs := [] })] }
theorem witness_BarrierArrival : Focus sBase crewS ∧ Focus gangState crewS ∧ mayGo crewS false true = true ∧ (seenS sBase crewS false true).displaced crewS = false
    ∧ ((seenS sBase crewS false true).wg? crewS.g).isSome = true
    ∧ (let s1 := seenS gangState crewS false true; s1.displaced crewS = false ∧ s1.gangSize (s1.lidOf crewS) ≠ 0
      ∧ (tget? s1.gangs (gangKey (s1.lidOf crewS) (s1.wgiOf crewS / s1.gangSize (s1.lidOf crewS)))).isSome = true) :=
  ⟨focusS, ⟨by decide, by decide, by decide, by decide⟩, by decide⟩
def frameState : State := { sBase with launches := [(0, { placedLaunch with frame := some ⟨7, 1000, 900, 1, 3, 0x60000⟩ })], tnow := 500 }
theorem witness_TimeInstructions : Focus frameState crewS ∧ mayGo crewS false false = true ∧ mayGo crewS false true = true
    ∧ ((seenS frameState crewS false true).launchOf crewS).bind (fun l => l.frame) = some ⟨7, 1000, 900, 1, 3, 0x60000⟩ ∧ 0xFF1 % 16 = 1 ∧ 4 % 2 = 0 ∧ 5 % 2 = 1 :=
  ⟨⟨by decide, by decide, by decide, by decide⟩, by decide⟩

/-- A state with registers written, by offset. -/
def withRegs (s : State) (rs : List (Nat × Nat)) : State := { s with regs := tsets s.regs (rs.map (fun e => (e.1, BitVec.ofNat 32 e.2))) }
/-- The crew's record is the table page at 0x20000; queue 5 is device-fed, of 16 entries, with its ring at 0x60000. -/
def lnchCrew : Crew := { crewS with b := [(1, 0x20000)] }
def lnchState (tail : Nat) : State := withRegs (sBase.setCrew 0 lnchCrew) [(qBlk 5, 0xA0000400), (qBlk 5 + 8, 0x60000), (qBlk 5 + 0x28, tail)]
def lnchArgs : SM6 := ⟨false, 4, 0, 1, 2, 5⟩
def recBytes : List Byte := [1, 0, 3] ++ List.replicate 61 0
theorem focus_regs (tail : Nat) : Focus (lnchState tail) lnchCrew := ⟨rfl, by decide, by decide, show sBase.writes = [] by decide⟩
theorem witness_LaunchInstructions : Focus (lnchState 3) lnchCrew ∧ Focus (lnchState 16) lnchCrew ∧ (lnchState 3).Settled ∧ mayGo lnchCrew false true = true
    ∧ (let s1 (k : Nat) : State := seenS (lnchState k) lnchCrew false true
       answers (((s1 3).launchBytes lnchCrew lnchArgs).map Prod.snd) recBytes = true ∧ recBytes.length = 64
       ∧ (s1 3).lnchOk ((s1 3).ctxOf lnchCrew) 5 = true ∧ decide ((s1 3).qSize 5 ≤ (s1 3).qCount 5) = false ∧ answers ((s1 3).access ((s1 3).qCtx 5) .ring (tailVa (s1 3) 5) 64) [(0x600C0, 64)] = true
       ∧ decide ((s1 16).qSize 5 ≤ (s1 16).qCount 5) = true ∧ (s1 3).lnchOk ((s1 3).ctxOf lnchCrew) 6 = false) :=
  ⟨focus_regs 3, focus_regs 16, settled_like _ rfl rfl, by decide +kernel⟩
theorem witness_GuardsAndBins : Focus sBase crewS ∧ mayGo crewS false false = true ∧ sBase.cmds = [] ∧ sBase.copies = []
    ∧ (let s1 := seenS (sBase.setCrew 0 lnchCrew) lnchCrew false false
       ea (lnchCrew.bRd 1) (soff (lnchCrew.sRd 0 2)) % 8 = 0 ∧ answers (s1.vread (s1.ctxOf lnchCrew) .watch (ea (lnchCrew.bRd 1) (soff (lnchCrew.sRd 0 2))) 8) (leBytes 8 0x30001) = true)
    ∧ ea ((addrCrew 4 0x20000).bRd 1) (soff ((addrCrew 4 0x20000).sRd 0 2)) % 8 ≠ 0 :=
  ⟨focusS, by decide +kernel⟩
theorem witness_SpecialRegisterReads : Focus sBase crewS ∧ mayGo crewS false false = true ∧ mayGo crewS true true = true ∧ 255 < (sBase.kernOf crewS).vregs
    ∧ (let s1 := seenS sBase crewS false false
       (s1.launchOf crewS).isSome = true ∧ 0 < placedLaunch.record.gx ∧ 0 < placedLaunch.record.gy ∧ s1.wgiOf crewS = 0 + placedLaunch.record.gx * (0 + placedLaunch.record.gy * 0))
    ∧ (seenS sBase crewS false true).launchOf crewS = some placedLaunch ∧ ((List.range 32).all (fun l => (tget? crewS.threads l).isSome)) = true :=
  ⟨focusS, by decide⟩
theorem witness_SpecialRegisterReads_frame : ((seenS frameState crewS false false).launchOf crewS).bind (fun l => l.frame) = some ⟨7, 1000, 900, 1, 3, 0x60000⟩ := by decide
def bindCrew : Crew := { crewS with s := [(1, 0x10001001045)] }
def bindState : State := { sBase.setCrew 0 bindCrew with hwqs := [(5, ⟨0, [], [], false, true, []⟩)] }
theorem witness_TargetBinding : Focus bindState bindCrew ∧ mayGo bindCrew false false = true
    ∧ (∀ h, tget? sBase.hwqs (bits (bindCrew.sRd 0 1).toNat 5 0) = some h → h.ctx = sBase.ctxOf bindCrew → h.on = false)
    ∧ (let s1 := seenS bindState bindCrew false false; let x := (bindCrew.sRd bindState.oracle 1).toNat
       tget? bindState.hwqs (bits x 5 0) = some ⟨0, [], [], false, true, []⟩ ∧ s1.ctxOf bindCrew = 0 ∧ bits x 39 24 ≠ 0 ∧ (bitAt x 18 = true → bits x 23 19 < (bindState.kernOf bindCrew).acct)) :=
  ⟨⟨rfl, by decide, by decide, show sBase.writes = [] by decide⟩, by decide⟩
theorem witness_YieldAndRegroup : Focus sBase crewS ∧ mayGo crewS false false = true ∧ mayGo crewS true true = true
    ∧ (let s1 := seenS sBase crewS true true
       s1.queuesEmpty 0 = true ∧ s1.mayRegroup 0 crewS false = true ∧ s1.mayRegroup 0 crewS true = true ∧ 256 ≤ (s1.kernOf crewS).vregs ∧ 255 < (s1.kernOf crewS).vregs) :=
  ⟨focusS, by decide⟩
def wall : Armed := { frameNo := 7, pres := 2000000, subst := 1, obj := 0x60000, ctx := 0, buffer := none, arrivedSelf := false, arrivals := 0, decided := none, sends := 0, decision := none }
def pealState (t : Nat) : State := { withRegs frameState [(pealBlk, 0x80000003)] with tnow := t, peal := [wall] }
theorem witness_PealInstruction : (∀ t, Focus (pealState t) crewS) ∧ mayGo crewS false true = true
    ∧ (let s1 := seenS (pealState 0) crewS false true
       (s1.launchOf crewS).bind (fun l => l.frame) = some ⟨7, 1000, 900, 1, 3, 0x60000⟩ ∧ s1.pealOn = true ∧ 3 = s1.pealGroup ∧ s1.peal.find? (fun y => y.frameNo = 7) = some wall
       ∧ 0 + s1.pealGuard / 4 < wall.pres ∧ wall.buffer = none ∧ wall.pres ≤ 1900000 + s1.pealGuard / 4) :=
  ⟨fun _ => ⟨rfl, by decide, by decide, show sBase.writes = [] by decide⟩, by decide⟩

/-! #### L-words -/

def runL : LRun := { loff := 0, count := 1, done := 0, mask := 0xFFFFFFFF, spc := 0x40000, sAt := crewS.s, sAlt := [], bAt := crewS.b }
def crewL : Crew := { crewS with runs := [runL] }
theorem focusL (f : LF) : FocusL lBase crewL runL [] f := ⟨by decide, rfl, by decide, fun _ => rfl⟩
/-- Every form of a list is defined for some type, with registers that exist. -/
def allForms (n : Nat) (ok : LF → Nat → Bool) (sub low : Nat) : Bool :=
  (List.range n).all (fun k => [0, 1, 2, 3, 7, 8, 10, 12].any (fun ty => ok { lf 8 16 32 40 ty with sub := sub, low := low } k))
def formOk (forms : LF → List LaneForm) (f : LF) (k : Nat) : Bool := ((forms f)[k]?).elim false (fun e => e.ok && regsOk (seenL lBase crewL f) (waitedL 0 crewL f) e.regs)
theorem witness_LaneFixedForms : FocusL lBase crewL runL [] (lf 8 16 32 40 0) ∧ allForms 19 (formOk laneArithmetic) 0 0 = true ∧ allForms 6 (formOk laneMixed) 0 0 = true
    ∧ allForms 19 (formOk laneBits) 0 0 = true ∧ allForms 1 (formOk (fun f => laneConversions f ⟨0⟩)) 0 0 = true
    ∧ (formOk (fun f => laneConversions f ⟨0⟩) { lf 8 16 32 40 3 with sub := 2 } 1 && formOk (fun f => laneConversions f ⟨0⟩) { lf 8 16 32 40 14 with sub := 3 } 2
      && formOk (fun f => laneConversions f ⟨0⟩) { lf 8 16 32 40 3 with sub := 2 } 3 && formOk (fun f => laneConversions f ⟨0⟩) { lf 8 16 32 40 14 with sub := 3 } 4
      && formOk (fun f => laneConversions f ⟨0⟩) { lf 8 16 40 40 12 with sub := 3 } 5 && formOk (fun f => laneConversions f ⟨0⟩) { lf 8 32 40 40 12 with sub := 3 } 6) = true :=
  ⟨focusL _, by decide +kernel⟩
theorem witness_LaneLongLatencyForms : FocusL lBase crewL runL [] (lf 8 16 32 40 2) ∧ (waitedL 0 crewL (lf 8 16 32 40 2)).tableFull .l = false ∧ allForms 12 (formOk laneLongElement) 0 0 = true :=
  ⟨focusL _, by decide +kernel⟩
theorem witness_CrossLaneForms : FocusL lBase crewL runL [] (lf 8 16 32 40 0) ∧ (waitedL 0 crewL (lf 8 16 32 40 0)).tableFull .l = false
    ∧ allForms 12 (fun f k => ((crossForms f .w8 .add)[k]?).elim false (fun e => e.ok && regsOk (seenL lBase crewL f) (waitedL 0 crewL f) e.regs)) 0 0 = true :=
  ⟨focusL _, by decide +kernel⟩
theorem witness_PredicateForms : FocusL lBase crewL runL [] (lf 8 16 32 40 3) ∧ (∀ e ∈ testForms (lf 8 16 32 40 3) .lt, e.2.1 = true ∧ regsOk lBase crewL e.2.2.1 = true)
    ∧ (∀ e ∈ testForms (lf 8 16 32 40 2) .lt, e.2.1 = true ∧ regsOk lBase crewL e.2.2.1 = true)
    ∧ [1, 9].contains 9 = true ∧ bOk (lf 8 16 32 40 9) = true ∧ regsOk lBase crewL ([rT 9 8, rT 9 16] ++ rB (lf 8 16 32 40 9) (rT 9)) = true ∧ regsOk lBase crewL [r1 16] = true :=
  ⟨focusL _, by decide +kernel⟩
theorem witness_SoftwareTraps : Focus sBase crewS ∧ mayGo crewS false false = true ∧ FocusL lBase crewL runL [] (lf 0 0 0 0 0) ∧ (seenS sBase crewS false false).debugRight 0 = false
    ∧ (withRegs sBase [(dbgBlk 0, 0x80000000)]).debugRight 0 = true := ⟨focusS, by decide, focusL _, by decide⟩
theorem witness_TakingATrap : sBase.crew? 0 = some crewS ∧ sBase.policy (sBase.ctxOf crewS) 1 = .wait ∧ sBase.policy (sBase.ctxOf crewS) 12 = .debug
    ∧ (let s := sBase.takeTrapAt 0 .s ⟨0x40000, none⟩ 4 0 Trap.illegal
       (s.crew? 0).elim false (fun c => c.stop.elim false (fun st => st.trap.cls ≠ 10 && st.trap.cls ≠ 12 && st.trap.cls ≠ 13)) = true)
    ∧ (let s := sBase.takeTrapAt 0 .s ⟨0x40000, none⟩ 4 0 ⟨13, 0, 0, 7, []⟩; (s.crew? 0).elim false (fun c => c.stop.isSome && c.runPath.isSome) = true)
    ∧ bits (sBase.r32 (mmuBlk 0 + 8)) 5 4 = 0 ∧ bits ((withRegs sBase [(mmuBlk 0 + 8, 0x10)]).r32 (mmuBlk 0 + 8)) 5 4 = 1 ∧ bits ((withRegs sBase [(mmuBlk 0 + 8, 0x20)]).r32 (mmuBlk 0 + 8)) 5 4 = 2 := by
  decide +kernel

/-! #### Lane memory -/

/-- An L-word with every field of a plain access: SCOPE 3, MASK GLB, base b2, offset v4 zero-extended, under p0; and its state with lanes 0 and 1 active. -/
def glbF (ty : Nat) : LF := { lf 8 6 4 40 ty with gp := 0, sub := 0x18, low := 0x24002000 }
def memRun : LRun := { runL with bAt := [(2, 0x50000)] }
def memCrew : Crew := { crewL with runs := [memRun], v := [(32 * 4 + 1, 8)], p := [(0, 3)] }
def memState : State := lBase.setCrew 0 memCrew
theorem focusM (f : LF) : FocusL memState memCrew memRun [] f := ⟨rfl, rfl, show lBase.writes = [] by decide, fun _ => rfl⟩
theorem settledL : lBase.Settled := ⟨by decide +kernel, by decide⟩
theorem settledM : memState.Settled := by
  have hm : memState.mem = lBase.mem := rfl
  have hw : memState.writes = lBase.writes := rfl
  rw [State.Settled, hm, hw]; exact settledL
theorem graphM : GraphOk memState := graphOk_new rfl rfl
def laneAt (n : Nat) : List (Nat × List Loc) := [(0, bytesAt 0x50000 n), (1, bytesAt 0x50008 n)]
theorem witness_LaneLoads : FocusL memState memCrew memRun [] (glbF 0) ∧ GraphOk memState ∧
    (let f := glbF 0; let s1 := seenL memState memCrew f
     memFieldsOk .load f = true ∧ sizeOk f = true ∧ regsOk s1 memCrew ([memBlk f f.vd] ++ ofsRegs f) = true ∧ gangOk s1 memCrew .glb = true ∧ memCrew.tableFull .l = false
     ∧ answers (laneLocs s1 memCrew (activeL memState memCrew memRun f) .glb .load (memBytes f) (laneEa s1 memCrew memRun f)) (laneAt 4) = true ∧ anyAbsent s1 (laneAt 4) = false ∧ (∀ x ∈ laneAt 4, Named x.2)
     ∧ answers (laneLocs s1 memCrew 0 .glb .load (memBytes f) (laneEa s1 memCrew memRun f)) [] = true) :=
  ⟨focusM _, graphM, by unfold Named; decide +kernel⟩
theorem witness_LaneStores : FocusL memState memCrew memRun [] (glbF 0) ∧ GraphOk memState ∧ memState.Settled ∧
    (let f := glbF 0; let s1 := seenL memState memCrew f
     memFieldsOk .store f = true ∧ sizeOk f = true ∧ regsOk s1 memCrew ([memBlk f f.vc] ++ ofsRegs f) = true ∧ gangOk s1 memCrew .glb = true
     ∧ answers (laneLocs s1 memCrew (activeL memState memCrew memRun f) .glb .store (memBytes f) (laneEa s1 memCrew memRun f)) (laneAt 4) = true ∧ anyAbsent s1 (laneAt 4) = false
     ∧ (∀ x ∈ laneAt 4, s1.poisonedLocs x.2 = false ∧ Named x.2 ∧ (∀ a ∈ x.2, placeStands s1 a = true) ∧ x.2.Nodup ∧ ∀ y ∈ laneAt 4, x.1 < y.1 → ∀ a ∈ x.2, a ∉ y.2)) :=
  ⟨focusM _, graphM, settledM, by unfold Named; decide +kernel⟩
theorem witness_SamplerReadsAndFences : FocusL memState memCrew memRun [] (glbF 2) ∧ GraphOk memState ∧
    (let f := { glbF 2 with low := 0x24000000 }; let s1 := seenL memState memCrew f
     mScope f < 6 ∧ mOrdk f = 0 ∧ bits f.low 19 18 ≠ 3 ∧ sizeOk f = true ∧ regsOk s1 memCrew ([memBlk f f.vd] ++ ofsRegs f) = true ∧ memCrew.tableFull .l = false
     ∧ answers (laneLocs s1 memCrew (activeL memState memCrew memRun f) .glb .sampler (memBytes f) (laneEa s1 memCrew memRun f)) (laneAt 4) = true) :=
  ⟨focusM _, graphM, by decide +kernel⟩
theorem witness_LaneAtomics : FocusL memState memCrew memRun [] (glbF 8) ∧ GraphOk memState ∧ memState.Settled ∧
    (let f := glbF 8; let s1 := seenL memState memCrew f
     memFieldsOk .atomic f = true ∧ mSize f = 0 ∧ (atomTypes .add).contains f.ty = true ∧ (tI ++ [2]).contains f.ty = true
     ∧ regsOk s1 memCrew ([rT f.ty f.vc, rT f.ty f.vd, rT f.ty f.va] ++ ofsRegs f) = true ∧ gangOk s1 memCrew .glb = true ∧ memCrew.tableFull .l = false
     ∧ answers (laneLocs s1 memCrew (activeL memState memCrew memRun f) .glb .atomic 8 (laneEa s1 memCrew memRun f)) (laneAt 8) = true ∧ anyAbsent s1 (laneAt 8) = false
     ∧ (∀ x ∈ laneAt 8, s1.poisonedLocs x.2 = false ∧ x.2.Nodup ∧ Named x.2 ∧ (∀ a ∈ x.2, placeStands s1 a = true) ∧ ∀ y ∈ laneAt 8, y.2 = x.2 ∨ ∀ a ∈ x.2, a ∉ y.2)) :=
  ⟨focusM _, graphM, settledM, by unfold Named; decide +kernel⟩

/-! #### Words that post something -/

theorem noQueues {s : State} (hk : s.cmds = []) (hc : s.copies = []) : SubQueuesEmpty s := by simp [SubQueuesEmpty, hk, hc]
theorem guardOpen_none {c : Crew} {f : LF} (h : guardField f = none) : GuardOpen c f := by
  intro g hg
  rw [h] at hg
  cases hg
def cpyRun : LRun := { memRun with sAt := [(5, 16)] }
def cpyCrew : Crew := { memCrew with runs := [cpyRun] }
def cpyState : State := lBase.setCrew 0 cpyCrew
/-- CPY of 16 bytes from v4's addresses over b2 to scratch at v6's over b5. -/
def cpyF : LF := { lf 0 6 4 0 0 with gp := 0, low := 0x52414000 }
def cseals : State := { cpyState with batches := [⟨⟨0, 0, 0, 0⟩, some 0, 5, 0, false⟩] }
theorem witness_CopiesAndBatches : FocusL cpyState cpyCrew cpyRun [] cpyF ∧ SubQueuesEmpty cpyState ∧ GuardOpen (waitedL 0 cpyCrew cpyF) cpyF
    ∧ (let f := cpyF; let s1 := seenL cpyState cpyCrew f; let act := activeL cpyState cpyCrew cpyRun f
       act = 3 ∧ spaceOf (bits f.low 23 22) = .scr ∧ spaceOf (bits f.low 21 20) = .glb ∧ (lrunS cpyState.oracle cpyRun (bits f.low 19 14)).toNat % 2 ^ 32 = 16 ∧ bitAt f.low 13 = false
       ∧ regsOk s1 cpyCrew [r1 f.va, r1 f.vb] = true ∧ displacedTrap s1 cpyCrew .scr = false ∧ gangOk s1 cpyCrew .scr = true ∧ gangOk s1 cpyCrew .glb = true
       ∧ (∀ l ∈ lanesOf act, (tget? cpyCrew.threads l).isSome = true ∧ answers (s1.locate cpyCrew .glb .copyRead (cpySrc s1 cpyCrew cpyRun f l) 16) (bytesAt (0x50000 + 8 * l) 16) = true
          ∧ answers (s1.locate cpyCrew .scr .copyWrite (cpyDst s1 cpyCrew cpyRun f l) 16) (scrAt 0 16) = true ∧ ∀ x ∈ locLines (scrAt 0 16), s1.lineCount x < 15 ∧ lineStands s1 x = true)
       ∧ (∀ b ∈ cseals.batches, cseals.itemLanded b = true)) :=
  ⟨⟨rfl, rfl, show lBase.writes = [] by decide, fun _ => rfl⟩, noQueues rfl rfl, guardOpen_none (by decide), by decide +kernel⟩


def rxReg : XReg := ⟨false, 0, 5, 1, 12, 9⟩
def txReg : XReg := ⟨true, 1, 5, 1, 8, 9⟩
def txFlow0 : TxFlow := { frame := 5, row := 0, ftx := none, prevFtx := 0, lines := [], poison := false, sent := [], image := none }
def rxFlow0 : RxFlow := { frames := [⟨5, 7, 1000⟩], lines := [(1, ⟨5, 2 ^ 16 - 1, 0, false, true⟩)], seen := [], poison := false, wpos := 0, recNo := 0 }
def strWg : Workgroup := { placedWg with xregs := [(0, rxReg), (1, txReg)] }
/-- Flows of 16 pixels and 4 rows; the transmit flow is enabled, and the receive flow where on. -/
def strState (on : Bool) : State :=
  { withRegs memState [(rxBlk 0, 0x00300F00), (txBlk 1, 0x00300F00)] with wgs := [(0, strWg)], tx := [(1, txFlow0)], rx := if on then [(0, rxFlow0)] else [] }
/-- N = 4 under p0, of stream register k; and the selectors of SSTAT. -/
def strF (k : Nat) : LF := { lf 8 4 0 0 0 with gp := 0, sub := k, low := 0x18700000 }
def sstatF (k sel : Nat) : LF := { lf 8 4 0 0 0 with gp := 0, sub := k, low := sel * 2 ^ 28 }
theorem witness_StreamInstructions : (∀ on f, FocusL (strState on) memCrew memRun [] f) ∧
    (∀ on : Bool, let s := strState on; let s1 := seenL s memCrew (strF 0); let x := claim s1 memCrew (strF 0) rxReg 4 3 []
     (s.wg? 0 = some strWg ∧ tget? strWg.xregs 0 = some rxReg ∧ s.flowPoisoned false 0 = false ∧ (s.flowOn false 0 = false ∨ s.rowState 0 5 1 ≠ .absent)
     ∧ (on = true → answers (x.1.srdPixel x.2 0) ([0, 0, 0], false) = true ∧ answers (x.1.srdPixel x.2 1) ([0, 0, 0], false) = true)
     ∧ (on = false → answers (x.1.srdPixel x.2 0) ([0, 0, 0], true) = true ∧ answers (x.1.srdPixel x.2 1) ([0, 0, 0], true) = true)))
    ∧ (let s := strState false; let s1 := seenL s memCrew (strF 1); let x := claim s1 memCrew (strF 1) txReg 4 3 []
       tget? strWg.xregs 1 = some txReg ∧ regsOk s1 memCrew [⟨4, 3, false⟩] = true ∧ s.flowPoisoned true 1 = false ∧ s.flowOn true 1 = true ∧ s.txFree 1 5 = true ∧ 8 + 4 < s.fWidth true 1
       ∧ (x.1.swrPixels memCrew memRun x.2).flowPoisoned true 1 = false ∧ txFlow0.committed 5 1 = none
       ∧ ((s1.setXreg memCrew 1 (txReg.nextRow 4)).txCommit 1 5 1 9).flowPoisoned true 1 = false)
    ∧ (∀ k < 6, bits (sstatF 1 k).low 31 28 = k) ∧ lanesOf (activeL (strState false) memCrew memRun (sstatF 1 1)) = [0, 1]
    ∧ opV (strState false) memCrew 2 4 0 % 4096 < (strState false).fWidth true 1 ∧ (strState false).fRows true 1 ≤ bits 0x40000 27 16 :=
  ⟨fun _ _ => ⟨rfl, rfl, show lBase.writes = [] by decide, fun _ => rfl⟩, by decide +kernel⟩

def recPool (n : Nat) : Pool := { ctx := 0, base := 0x70000, rlines := 1, count := n, busy := [(0, .alloc 0), (1, .alloc 0)] }
def recNode : Node := { ctx := 0, qid := 0, tmpl := 0, batch := 8, pool := 0, timeout := 2 ^ 32 - 1, queue := [] }
def recCrew : Crew := { memCrew with v := [(32 * 4, 0x70000), (32 * 4 + 1, 0x70080)] }
def recState (n : Nat) : State :=
  { lBase.setCrew 0 recCrew with pools := [(0, recPool n)], nodes := [(0, recNode)], hwqs := [(5, ⟨0, [7], [], false, true, []⟩), (6, ⟨0, [], [], false, true, []⟩), (7, ⟨0, [], [], true, true, []⟩)] }
def recF (k : Nat) : LF := { lf 8 4 0 0 0 with gp := 0, sub := k, low := 0x00700000 }
theorem witness_RecordsAndQueues : (∀ n f, FocusL (recState n) recCrew memRun [] f) ∧ PoolOk (recPool 4) ∧ PoolOk (recPool 3)
    ∧ (let s := recState 4; let s1 := seenL s recCrew (recF 0); let act := activeL s recCrew memRun (recF 0)
       act = 3 ∧ (lanesOf act).length ≤ (recPool 4).count - (recPool 4).busy.length ∧ (recPool 3).count - (recPool 3).busy.length < (lanesOf act).length
       ∧ regsOk s1 recCrew [rPair 8] = true ∧ regsOk s1 recCrew [rPair 4] = true ∧ recCrew.tableFull .l = false
       ∧ (∀ l ∈ lanesOf act, (recPool 4).pushable (opV s1 recCrew 2 4 l) = true ∧ ∀ m ∈ lanesOf act, m ≠ l → opV s1 recCrew 2 4 m ≠ opV s1 recCrew 2 4 l)
       ∧ s.batchDue { recNode with queue := recNode.queue ++ (lanesOf act).map (fun l => ((recPool 4).va (opV s1 recCrew 2 4 l), s.tnow)) } = 0
       ∧ [5, 6, 7].all (fun k => (tget? s.hwqs (k % 64)).isSome) = true) :=
  ⟨fun _ _ => ⟨rfl, rfl, show lBase.writes = [] by decide, fun _ => rfl⟩, by unfold PoolOk; decide, by unfold PoolOk; decide, by decide +kernel⟩


def mxRun : LRun := { memRun with sAt := [(10, 0), (11, 512), (20, 0), (21, 0)], bAt := [(2, 0x50000), (3, 0x58000)] }
def mxCrew : Crew := { memCrew with runs := [mxRun] }
/-- Scale descriptors at 0x58000 (A and B): units at 0x59000, 512 bytes, 128 blocks. -/
def scaleBytes : List Byte := leBytes 10 0x59000 ++ leBytes 2 1 ++ leBytes 4 512 ++ leBytes 4 0 ++ leBytes 4 128 ++ leBytes 8 0
def mxState : State := seeded (lBase.setCrew 0 mxCrew) 0x58000 scaleBytes
/-- Slot 7 with density by DENS, the rows' address over b2 by s10 and s11. -/
def mldbF (dens : Nat) : LF := { lf 64 96 0 0 0 with gp := 0, sub := 0, low := 0x22800000 + 7 * 2 ^ 13 + dens * 2 ^ 11 }
def mscaF : LF := { lf 64 96 0 0 0 with gp := 0, sub := 0x0A, low := 0x33500000 }
theorem focusX (f : LF) : FocusL mxState mxCrew mxRun [] f := ⟨rfl, rfl, rfl, fun _ => rfl⟩
theorem canPostX_aux : ∀ f ∈ [mscaF, mldbF 0, mldbF 1, mldbF 2], activeL mxState mxCrew mxRun f ≠ 0 ∧ (waitedL 0 mxCrew f).tableFull .l = false ∧ guardField f = none := by decide +kernel
theorem canPostX (f : LF) (e : Engine) (h : activeL mxState mxCrew mxRun f ≠ 0 ∧ (waitedL 0 mxCrew f).tableFull .l = false) : CanPost mxState mxCrew mxRun f e :=
  ⟨noQueues rfl rfl, h.1, by cases e <;> decide, fun _ => h.2⟩
theorem witness_MatrixInstructions : ∀ f ∈ [mscaF, mldbF 0, mldbF 1, mldbF 2],
    FocusL mxState mxCrew mxRun [] f ∧ CanPost mxState mxCrew mxRun f .matrix ∧ GuardOpen (waitedL 0 mxCrew f) f :=
  fun f hf => have h := canPostX_aux f hf; ⟨focusX f, canPostX f _ ⟨h.1, h.2.1⟩, guardOpen_none h.2.2⟩
def emptyCrew : Crew := { crewS with runs := [{ runL with mask := 0 }] }
def emptyRun : LRun := { runL with mask := 0 }
def emptyState (k : Kernel) : State :=
  { lBase.setCrew 0 emptyCrew with launches := [(0, { placedLaunch with kern := k })], hwqs := [(0, ⟨0, [], [], false, true, []⟩)] }
/-- One word whose fields suit every form, and one that suits none on a crew of no slots and tiles. -/
def anyF : LF := { lf 8 16 32 40 0 with sub := 0, low := 2 ^ 11 }
def noF : LF := { lf 255 255 255 255 0 with sub := 2 ^ 10 - 1, low := 2 ^ 32 - 1 }
theorem witness_MatrixInstructions_empty : FocusL (emptyState placedKernel) emptyCrew emptyRun [] anyF ∧ activeL (emptyState placedKernel) emptyCrew emptyRun anyF = 0
    ∧ ((laneCommands (seenL (emptyState placedKernel) emptyCrew anyF) (waitedL 0 emptyCrew anyF) anyF .fp16 .fp16).all (fun i => i.2)) = true :=
  ⟨⟨rfl, rfl, show lBase.writes = [] by decide, fun _ => rfl⟩, by decide, by decide⟩
theorem witness_MatrixInstructions_undefined : FocusL (emptyState { placedKernel with acct := 0, sslots := 0, ptiles := 0 }) emptyCrew emptyRun [] noF
    ∧ ((laneCommands (seenL (emptyState { placedKernel with acct := 0, sslots := 0, ptiles := 0 }) emptyCrew noF) (waitedL 0 emptyCrew noF) noF .fp16 .fp16).all (fun i => !i.2)) = true :=
  ⟨⟨rfl, rfl, show lBase.writes = [] by decide, fun _ => rfl⟩, by decide⟩
def mldbRows : List (Nat × Nat) := (List.range 32).map (fun (i : Nat) => (ea (lrunB mxRun 2) ((lrunS mxState.oracle mxRun 10).toInt + (i : Int) * (lrunS mxState.oracle mxRun 11).toInt), 16 * mldbW .fp16))
theorem witness_MatrixInstructions_loads : mSlot (mldbF 1) < (mxState.kernOf mxCrew).sslots ∧ [0, 1, 2].map (fun d => mDens (mldbF d)) = [0, 1, 2]
    ∧ bits (mldbF 1).low 27 22 = 10 ∧ bits (mldbF 1).low 31 28 = 2 ∧ bits (mldbF 2).sub 5 0 + 2 ≤ (mxState.kernOf mxCrew).metas
    ∧ (seenL mxState mxCrew (mldbF 1)).rangeFault 0 mldbRows = none
    ∧ (∀ n ∈ [1024, 2048], (seenL mxState mxCrew (mldbF 1)).rangeFault 0 [(ea (lrunB mxRun 2) (lrunS mxState.oracle mxRun 10).toInt, n)] = none) := by decide +kernel
theorem witness_MatrixInstructions_commands :
    let s := mxState; let c := mxCrew; let r := mxRun; let f := mscaF; let s1 := seenL s c f; let act := activeL s c r f
       mSlot f < (s.kernOf c).sslots ∧ mPt f + 32 / s1.declared c.g (mSlot f) - 1 < (s.kernOf c).ptiles
       ∧ f.va + mldbW (mmaBase .fp16) * (32 / s1.declared c.g (mSlot f)) ≤ (s.kernOf c).vregs ∧ mAcc f < (s.kernOf c).acct ∧ bits f.low 23 18 ≤ 62
       ∧ (lrunB r (bits f.low 31 28)).toNat = 0x58000 ∧ (lrunB r (bits f.low 27 24)).toNat = 0x58000 ∧ answers (s1.access (s1.ctxOf c) .engine 0x58000 32) [(0x58000, 32)] = true
       ∧ s1.touchesPoison ([(0x58000, 32)] ++ [(0x58000, 32)]) = false ∧ (issued s1 c r act [(0x58000, 32), (0x58000, 32)]).2 = [scaleBytes, scaleBytes]
       ∧ (let p := parseScale 0x58000 scaleBytes; p.2 = true ∧ (∀ x ∈ blocksA p.1 0 0 act, x < p.1.nblk) ∧ (∀ x ∈ blocksB p.1 0 0, x < p.1.nblk)
          ∧ s1.rangeFault (s1.ctxOf c) ((unitsOf (blocksA p.1 0 0 act)).map (fun u => (unitAddr p.1 u, 512)) ++ (unitsOf (blocksB p.1 0 0)).map (fun u => (unitAddr p.1 u, 512))) = none)
       ∧ (∀ k ∈ [20, 21], (lrunS s.oracle r k).toNat = 0) ∧ regsOk s1 c [⟨f.vd, 32, false⟩] = true ∧ regsOk s1 c [⟨f.va, 32, false⟩] = true ∧ regsOk s1 c [r1 f.vd] = true := by decide +kernel

def ocKern : Kernel := { placedKernel with payload := 8, rdepth := 4 }
def ocRun : LRun := { memRun with sAt := [(10, 0), (11, 128)], bAt := [(2, 0x50000), (3, 0x58000)] }
def ocCrew : Crew := { memCrew with runs := [ocRun] }
/-- A raster target at 0x58000 and a BVH descriptor at 0x50000 (of zeros): 64 by 64 pixels, one view. -/
def targetBytes : List Byte := leBytes 30 0 ++ leBytes 2 64 ++ leBytes 2 64 ++ leBytes 1 0 ++ leBytes 1 1 ++ leBytes 28 0
def ocState : State := { seeded (lBase.setCrew 0 ocCrew) 0x58000 targetBytes with
  launches := [(0, { placedLaunch with kern := ocKern, versions := [(1, 0)] })] }
def ocF (base sreg : Nat) : LF := { lf 64 96 0 100 0 with gp := 0, sub := 1, low := base * 2 ^ 28 + sreg * 2 ^ 22 }
def travF : LF := { ocF 2 10 with low := (ocF 2 10).low + 4 * 2 ^ 16 + 8 * 2 ^ 8 }
theorem focusO (f : LF) : FocusL ocState ocCrew ocRun [] f := ⟨rfl, rfl, rfl, fun _ => rfl⟩
theorem canPostO_aux : ∀ f ∈ [ocF 2 10, ocF 3 10, travF], activeL ocState ocCrew ocRun f ≠ 0 ∧ (waitedL 0 ocCrew f).tableFull .l = false ∧ guardField f = none := by decide +kernel
theorem witness_OtherEngineCommands : ∀ f ∈ [ocF 2 10, ocF 3 10, travF],
    FocusL ocState ocCrew ocRun [] f ∧ (∀ e, CanPost ocState ocCrew ocRun f e) ∧ GuardOpen (waitedL 0 ocCrew f) f :=
  fun f hf => have h := canPostO_aux f hf; ⟨focusO f, fun e => ⟨noQueues rfl rfl, h.1, by cases e <;> decide, fun _ => h.2.1⟩, guardOpen_none h.2.2⟩
theorem witness_OtherEngineCommands_coll : (∀ l ∈ [0, 1], (tget? ocCrew.threads l).isSome = true) ∧ 96 + 5 ≤ (ocState.kernOf ocCrew).vregs
    ∧ (∀ l ∈ [0, 1], answers ((seenL ocState ocCrew (ocF 2 11)).access 0 .engine (ea (lrunB ocRun 2) (sgn 32 (ocCrew.vRd ocState.oracle 97 l).toNat)) 128) [(0x50000, 128)] = true)
    ∧ (lrunS ocState.oracle ocRun 11).toNat = 128 ∧ bitAt (ocF 2 11).low 21 = false := by decide +kernel
theorem witness_OtherEngineCommands_reads : regsOk ocState ocCrew [⟨96, 8, false⟩, ⟨64, 5, false⟩] = true ∧ regsOk ocState ocCrew [⟨96, 12, false⟩] = true
    ∧ regsOk ocState ocCrew [⟨96, 16, false⟩, ⟨64, 3, false⟩] = true ∧ regsOk ocState ocCrew [⟨100, 4, false⟩] = true ∧ ocState.capturedOf ocCrew 1 = some 0
    ∧ bits travF.low 15 8 ≤ (ocState.kernOf ocCrew).payload ∧ bits travF.low 19 16 ≤ (ocState.kernOf ocCrew).rdepth
    ∧ answers (ocState.access 0 .engine 0x50000 32) [(0x50000, 32)] = true ∧ ocState.touchesPoison [(0x50000, 32)] = false
    ∧ (bvhDesc ((issued (seenL ocState ocCrew travF) ocCrew ocRun 3 [(0x50000, 32)]).2.getD 0 [])).2.2.2.2 = true
    ∧ answers (ocState.access 0 .engine 0x58000 64) [(0x58000, 64)] = true ∧ ocState.touchesPoison [(0x58000, 64)] = false
    ∧ (issued (seenL ocState ocCrew (ocF 3 10)) ocCrew ocRun 3 [(0x58000, 64)]).2 = [targetBytes] ∧ (rasterTarget targetBytes).2 = true
    ∧ ea (lrunB ocRun 3) (lrunS ocState.oracle ocRun 10).toInt = 0x58000 ∧ ea (lrunB ocRun 2) (lrunS ocState.oracle ocRun 10).toInt = 0x50000
    ∧ ocState.rangeFault 0 ([0].map (fun v => ((0x58000 + 64 + 64 * v) % 2 ^ 72, 64))) = none
    ∧ ocState.touchesPoison (ocState.rangePieces 0 ([0].map (fun v => ((0x58000 + 64 + 64 * v) % 2 ^ 72, 64)))) = false := by decide +kernel

/-! #### Events of crews -/

def roundR : Round := { id := 4, home := false, coreScope := false, set := 0, core := 0, site := 0x40000, timeout := 500, elapsed := 600, fired := false, arrived := [⟨0, 7, (List.range 32).map (fun l => (l, l % 2)), ⟨0x40000, none⟩⟩] }
def rgrpCrew : Crew := { crewS with wait := .regroup 4 }
def slotR : Crew := { crewS.dormant with id := 1, idx := 1 }
def roundState (fired : Bool) : State := { sBase with crews := [(0, rgrpCrew), (1, { crewS.dormant with idx := 1 })], rounds := [{ roundR with fired := fired }] }
theorem witness_RegroupRoundsCommit : (roundState true).writes = [] ∧ roundR ∈ (roundState false).rounds ∧ roundR.timeout ≠ 0 ∧ roundR.timeout ≤ roundR.elapsed
    ∧ (let r := { roundR with fired := true, slots := [0, 1] }; let s := { roundState true with rounds := [r] }
       s.rounds.find? (fun x => x.id = r.id && x.fired) = some r ∧ r.home = false ∧ (roundState false).participants roundR = [0, 1] ∧ rgrpCrew.threads ≠ [] ∧ r.slots.Nodup ∧ s.crew? 0 = some rgrpCrew
       ∧ (packCrews r.slots.length (sortMoving (s.movingIn r))).map List.length = [16, 16]
       ∧ (s.arrivedIn r).Pairwise (fun a b => a.cid ≠ b.cid) ∧ (s.arrivedIn r).length = 1 ∧ (∀ e ∈ s.crews, s.policy (s.ctxOf e.2) 16 = .kill)
       ∧ (let d := withRegs s [(mmuBlk 0 + 8, 0x40), (dbgBlk 0, 0x80000000)]; ∀ e ∈ d.crews, d.policy (d.ctxOf e.2) 16 = .debug))
    ∧ ((((sortMoving (moving 0 20 0 ++ moving 1 3 40)).map (fun x => x.key)).eraseDups.flatMap (fun k => chunks 32 (23 + 1) ((sortMoving (moving 0 20 0 ++ moving 1 3 40)).filter (fun x => x.key = k)))).length ≤ 2) :=
  ⟨show sBase.writes = [] by decide, by decide⟩
theorem witness_RegroupRoundsCommit_home :
    let r := { roundR with fired := true, home := true, slots := [0] }; let s := { roundState true with rounds := [r] }
    s.rounds.find? (fun x => x.id = r.id && x.fired) = some r ∧ r.slots.Nodup ∧ (∀ m ∈ s.movingIn r, m.thread.lane < 32) ∧ s.crew? 0 = some rgrpCrew
      ∧ (s.movingIn r).map (fun m => (m.thread.lane, m.n)) = (List.range 32).map (fun l => (l, 7))
      ∧ (s.movingIn r).all (fun m => m.thread.lid = s.lidOf rgrpCrew && m.thread.wgi = s.wgiOf rgrpCrew && m.thread.crew = rgrpCrew.id) = true
      ∧ ((s.movingIn r).map (fun m => m.thread)).Nodup := by decide
def pend3 : Pending := { id := 3, strm := .l, vs := [(5, 9)], ps := [], ss := [], ready := true, returned := false, poison := false, pos := ⟨0x40000, none⟩ }
def watchCrew (thr : Nat) : Crew := { crewS with guards := [(2, .watch 0x20000 thr ⟨0x40000, none⟩ false none)] }
def doneCrew : Crew := { crewS with threads := [], stack := [] }
theorem crewIn (c : Crew) : (sBase.setCrew 0 c).crew? 0 = some c ∧ (sBase.setCrew 0 c).writes = [] := ⟨rfl, show sBase.writes = [] by decide⟩
def barCrew : Crew := { crewS with stack := [.path 0x40000 (-1) none 0 (some ⟨false, 5, 0x40000⟩)] }
def barWg : Workgroup := { placedWg with bars := [(5, ⟨[], 0, some 10000000, 0, []⟩)] }
def barState : State := { sBase.setCrew 0 barCrew with wgs := [(0, barWg)] }
/-- A crew with a lane write outstanding is held at a marker of either stream and at a drain. -/
def heldCrew : Crew := { crewL with pend := [pend3] }
theorem witness_EventsOfCrews_markers : Focus (sBase.setCrew 0 heldCrew) heldCrew ∧ mayGo heldCrew true false = false ∧ mayGo heldCrew false true = false
    ∧ heldCrew.runs ≠ [] ∧ heldCrew.out .l ≠ [] := ⟨focus_set _ (by decide), by decide⟩
theorem witness_EventsOfCrews : (∀ c, (sBase.setCrew 0 c).crew? 0 = some c ∧ (sBase.setCrew 0 c).writes = []) ∧ (sBase.setCrew 0 doneCrew).canRetire 0 doneCrew = true
    ∧ sBase.reached (some 0) = true ∧ [pend3].find? (fun p => p.id = 3 && !p.returned) = some pend3
    ∧ (∀ thr ∈ [5, 0x40000], tget .unbound (watchCrew thr).guards 2 = .watch 0x20000 thr ⟨0x40000, none⟩ false none)
    ∧ sBase.wg? 0 = some placedWg ∧ placedWg.phase = .resident ∧ sBase.cmds = [] ∧ sBase.copies = []
    ∧ answers ((sBase.setCrew 0 (watchCrew 5)).vread 0 .watch 0x20000 8) (leBytes 8 0x30001) = true
    ∧ (barState.barWgs (.wg 0 5)).head? = some 0 ∧ barState.wg? 0 = some barWg ∧ (∀ x ∈ barState.barWgs (.wg 0 5), barState.clockRuns x = true)
    ∧ (barState.barrier (.wg 0 5)).clock = some 10000000 ∧ (barState.kernOfLid barWg.lid).btoNs ≤ 10000000 ∧ (∀ e ∈ barState.crews, barState.policy (barState.ctxOf e.2) 10 = .wait)
    ∧ barCrew.stack.find? (barParks (.wg 0 5)) = some (.path 0x40000 (-1) none 0 (some ⟨false, 5, 0x40000⟩)) :=
  ⟨crewIn, by decide +kernel⟩

/-! #### The copy engine and the engines of a quad -/

def copyK : CopyLane := { lane := 0, thread := ⟨0, 0, 0, 0⟩, src := 0x20000, dst := 64, place := { id := 0, thr := [.thread ⟨0, 0, 0, 0⟩], strm := .l, start := 0, ins := 0, op := some (7, 0) }, landed := false, held := false }
def copyO (left : Bool) : CopyOp := { id := 7, cid := 0, g := 0, lid := 0, ctx := 0, dsp := .scr, ssp := .glb, lanes := [copyK], len := some 16, bin := 0, tag := none, guard := none, left := left, lines := [(0, 0)], pos := ⟨0x40000, none⟩, recs := none }
def copyState (left : Bool) : State := { sBase with copies := [copyO left] }
theorem settledC (left : Bool) : (copyState left).Settled := settled_like _ rfl rfl
theorem witness_CopyEngine : (∀ left : Bool, copyO left ∈ (copyState left).copies ∧ (∀ x ∈ (copyState left).copies, x.id = (copyO left).id → x = copyO left)
      ∧ (copyState left).copyLive (copyO left) = true ∧ (∀ k ∈ (copyState left).cmds, k.cid ≠ 0) ∧ (copyState left).stamps = [])
    ∧ (∀ left, GraphOk (copyState left) ∧ (copyState left).Settled) ∧ Named (bytesAt 0x20000 16) ∧ Named (scrAt 64 16)
    ∧ WgStays (copyState true) 0 placedWg ∧ (copyO true).lanes.find? (fun x => x.lane = copyK.lane && !x.landed && !x.held) = some copyK
    ∧ answers ((copyState true).spaceLocs 0 0 0 .glb .copyRead 0x20000 16) (bytesAt 0x20000 16) = true
    ∧ answers ((copyState true).spaceLocs 0 0 0 .scr .copyWrite 64 16) (scrAt 64 16) = true
    ∧ (∀ l ∈ locLines (bytesAt 0x20000 16), (copyState true).lineAbsent l = false) ∧ (copyState true).poisonedLocs (bytesAt 0x20000 16) = false
    ∧ (∀ l ∈ bytesAt 0x20000 16, l ∉ scrAt 64 16) ∧ ((copyState true).launch? 0).isSome = true ∧ copyK.got = [] ∧ copyK.reads = [] ∧ (∀ l ∈ scrAt 64 16, placeStands (copyState true) l = true) ∧ (scrAt 64 16).Nodup :=
  ⟨by decide, fun _ => ⟨graphOk_new rfl rfl, settledC _⟩, by unfold Named; decide, by unfold Named; decide, ⟨by decide, by decide⟩, by decide +kernel⟩
/-- An engine command at the head of its sub-queue, posted long ago. -/
def headCmd (e : Engine) (op : CmdOp) : Cmd := { id := 9, cid := 0, g := 0, lid := 0, ctx := 0, engine := e, unit := 0, op := op, act := 3, pid := some 1, guard := none, stage := 0, posted := 0, started := 0, rerun := false, held := false, pos := ⟨0x40000, none⟩ }
def pend1 (vs : Tbl W32) : Pending := { id := 1, strm := .l, vs := vs, ps := [], ss := [], ready := false, returned := false, poison := false, pos := ⟨0x40000, none⟩ }
def headCrew (vs : Tbl W32) : Crew := { crewL with pend := [pend1 vs] }
def headState (k : Cmd) (vs : Tbl W32) (w : Workgroup) : State := { lBase.setCrew 0 (headCrew vs) with cmds := [k], cycle := 200, wgs := [(0, w)] }
theorem headWrites (k : Cmd) (vs : Tbl W32) (w : Workgroup) (h : w.crews ≠ []) : (headState k vs w).writes = [] ∧ (headState k vs w).stamps = []
    ∧ (headState k vs w).cmds.find? (fun x => x.id = k.id) = some k ∧ WgStays (headState k vs w) 0 w := by
  refine ⟨rfl, rfl, ?_, rfl, h⟩
  show [k].find? (fun x => decide (x.id = k.id)) = some k
  simp
def rows32 : List Nat := (List.range 32).map (fun i => 0x50000 + 64 * i)
def slot8 : Slot := { tag := .i8, dens := 32, vals := [(5, 2)], eb := [], bad := [], ck := [] }
def mldbCmd (x : Option Slot) (stage : Nat) : Cmd := { headCmd .matrix (.mldb .i4 7 32 rows32 x) with stage := stage }
def smcpCmd : Cmd := headCmd .matrix (.smcp 7 2 1 0x50000)
def mmaCmd (cap : Option (Option Slot × Tbl Meta)) (stage : Nat) : Cmd := { headCmd .matrix (.mma .i8 1 7 32 [(0, 3)] [] [] cap) with stage := stage }
def mxWg : Workgroup := { placedWg with mx := { Matrix.empty with slots := [(7, slot8)], acc := [(4096, 0x40000000)], metas := [(5, ⟨[], some 7, 32⟩)] } }
theorem witness_MatrixEngineEvents_loads : ∀ k ∈ [mldbCmd none 0, mldbCmd (some slot8) 1, smcpCmd], (let s := headState k [] mxWg
      k.engine = .matrix ∧ s.passReads k 7 [] = false ∧ s.passReads k 7 [2] = false ∧ (k.stage = 0 → s.arbiter (s.ageLimit 0) ((s.eligible .matrix 0).filter (fun x => match x.op with
          | .mldb _ _ _ _ none => true
          | .smcp _ _ _ _ => true
          | _ => false)) = some k ∧ s.staging 0 < 4 ∧ s.rangeFault 0 k.op.ranges = none
        ∧ s.touchesPoison (s.rangePieces 0 k.op.ranges) = false)) := by decide +kernel
theorem aloneHead (k : Cmd) (vs : Tbl W32) (w : Workgroup) : Alone (headState k vs w) k :=
  ⟨fun x hx _ => by rw [List.mem_singleton.1 hx], fun x hx => by cases hx⟩
theorem witness_MatrixEngineEvents : (∀ k vs w, w.crews ≠ [] → (headState k vs w).writes = [] ∧ (headState k vs w).stamps = []
      ∧ (headState k vs w).cmds.find? (fun x => x.id = k.id) = some k ∧ WgStays (headState k vs w) 0 w) ∧ mxWg.crews ≠ []
    ∧ (let k := mmaCmd none 0; let s := headState k [] mxWg
       (∀ x ∈ s.cmds, x.id = k.id → x = k) ∧ (s.passes 0).any (fun x => decide (s.cycle < x.started + x.win)) = false
       ∧ s.arbiter (s.ageLimit 0) ((s.eligible .matrix 0).filter (fun x => match x.op with
        | .mma _ _ _ _ _ _ _ _ => true
        | _ => false)) = some k)
    ∧ (let k := mmaCmd (some (some slot8, [])) 1; let s := headState k [] mxWg
       (∀ x ∈ s.cmds, x.id = k.id → x = k) ∧ s.passes 0 = [k] ∧ k.started + k.win + 10 ≤ s.cycle ∧ slot8.dens = 32 ∧ pairClass slot8.tag = pairClass (mmaBase .i8)) :=
  ⟨headWrites, by decide +kernel⟩
def scaleA : ScaleDesc := { addr := 0x58000, sbase := 0x59000, tid := 1, extent := 512, ld := 0, nblk := 128, fresh := false }
def foldCmd (op : CmdOp) : Cmd := headCmd .matrix op
def mscaCmd : Cmd := { foldCmd (.msca 1 0 0 0 0 scaleA scaleA) with places := [(0, { id := 0, thr := [.thread ⟨0, 0, 0, 0⟩], strm := .l, start := 0, fin := some (.l, 0), ins := 0 })] }
def unit1 : ScaleUnit := { quad := 0, ctx := 0, tid := 1, unit := 0, data := List.replicate 512 0 }
theorem witness_MatrixEngineEvents_fold : (∀ k ∈ [foldCmd (.macz 1), foldCmd (.macrdF 1 2 64), foldCmd (.macrdC 1 64), foldCmd (.macwr 1 2 []), mscaCmd],
      (let s := { headState k [] mxWg with scales := [unit1] }
       (∀ x ∈ s.cmds, x.rest = none) ∧ k.vals = [] ∧ (foldSpan k.op k.act).elim true (fun e => !s.contended k e.1) = true
       ∧ (match k.op with
        | .msca _ _ _ _ _ da db => da.fresh = false && db.fresh = false && ((List.range 2).zip (k.op.units k.act)).all (fun e =>
            !(s.readCmd k).1.unitStale 0 (s.readCmd k).2 e.1 e.2.2.1 e.2.2.2)
        | _ => true) = true ∧ s.arbiter (s.ageLimit 0) ((s.eligible .matrix 0).filter (fun k => match k.op with
        | .msca _ pt _ _ _ _ _ => !s.passPending k pt && s.scalesReady 0 k
        | .macz _ | .macrdF _ _ _ | .macrdC _ _ | .macwr _ _ _ => true
        | _ => false)) = some k))
    ∧ (let s := headState mscaCmd [] mxWg
       s.arbiter (s.ageLimit 0) ((s.eligible .matrix 0).filter (fun k => match k.op with
          | .msca _ _ _ _ _ _ _ => !s.scalesReady 0 k
          | _ => false)) = some mscaCmd
       ∧ (match (s.readCmd mscaCmd).1.fetchUnits (s.readCmd mscaCmd).2 (fun _ d u => !d.fresh && (s.scaleUnit 0 0 d.tid u).isNone) with
         | .ok x => !x.2
         | .error _ => false) = true) := by decide +kernel

def rco0 : Rco := { ctx := 0, desc := 0x60000, wbase := 0x70000, m1base := 0x80000, m2base := 0x90000, ring := 0xA0000, rcap := 256, put := 256, get := 0, drops := 0, step := 4, skips := 0, p1 := 0x3F800000, p2 := 0x3F800000, lr := 0x3A83126F, beta1 := 0x3F666666, beta2 := 0x3F7FBE77, eps := 0x322BCC77, budget := 2, flush := false, theta := [], m := [], v := [], verA := [], verB := [], sfnA := some 0, sfnB := none, newestB := false, pending := none, heldCounted := false, due := false, steps := 0, wbOwed := false, unbinding := false, faulted := [] }
def feats2 : List (Nat × List W32) := [(0, List.replicate 16 0), (1, List.replicate 16 0)]
def rcqCmd (stage : Nat) : Cmd := { headCmd .radiance (.rcq 1 0 64 feats2 none) with stage := stage }
def rays2 : List (Nat × List W32) := [(0, [0, 0, 0, 0, 0, 0x3F800000, 0, 0x7F800000]), (1, [0, 0, 0, 0, 0, 0x3F800000, 0, 0x7F800000])]
def travCmd : Cmd := headCmd .traversal (.trav 64 rays2 0x50000 0x51000 0x52000 0 255 false false)
def walk2 (s : State) (l : Nat) (ray : List W32) : Except AccFault (State × Walk) :=
  walkRay 0 (travCmd.placeOf s l) l false false 255 walkFuel s { met := 0, best := none, malformed := false, poison := false, todo := [.node { nodes := 0x50000, tris := 0x51000, insts := 0x52000, level := 0, inst := 0xFFF, ray := { o := (List.range 3).map (fun i => (ray.getD i 0).toNat), d := (List.range 3).map (fun i => (ray.getD (3 + i) 0).toNat), tmin := (ray.getD 6 0).toNat, tmax := (ray.getD 7 0).toNat } } 0] }
def rastCmd (todo : List (Nat × Nat)) : Cmd := headCmd .raster (.rast (targetBytes ++ List.replicate 64 0) 0x58000 [(0, List.replicate 12 0)] todo)
theorem witness_OtherEngineEvents : (let k := rcqCmd 0; let s := headState k [] placedWg
      (s.querying 0).any (fun x => decide (s.cycle < x.started + rcqCycles x.act)) = false ∧ s.arbiter (s.ageLimit 0) (s.eligible .radiance 0) = some k)
    ∧ (let k := rcqCmd 1; let s := headState k [] placedWg; s.querying 0 = [k] ∧ k.started + rcqCycles k.act ≤ s.cycle)
    ∧ (let k := travCmd; let s := headState k [] placedWg
       s.arbiter (s.ageLimit (k.unit / 4)) (s.eligible .traversal k.unit) = some k ∧ k.engine = .traversal ∧ (∀ l ∈ lanesOf k.act, l ∈ rays2.map (fun e => e.1))
       ∧ (rays2.foldl (fun (a : Option State) e => a.bind (fun t => match walk2 t e.1 e.2 with
         | .ok r => if r.2.poison then none else some r.1
         | .error _ => none)) (some s)).isSome = true)
    ∧ (let k := rastCmd [(0, 0)]; let s := headState k [] placedWg; let desc := targetBytes ++ List.replicate 64 0
       s.crew? k.cid = some (headCrew []) ∧ s.isHead k = true ∧ s.cmdLive k = true ∧ s.firstIssued k = true ∧ [(0, 0)].contains (0, 0) = true
       ∧ (match RastRun.triangle { s := s, poison := false, tag := ⟨0, 0, k.who, k.pos⟩, place := k.placeOf s 0 } (rasterTarget desc).1 0x58000 0 (words4 desc 64 16) (List.replicate 12 0) with
         | .ok r => !r.poison && decide (r.s.cmds = s.cmds)
         | .error _ => false) = true)
    ∧ (let k := rastCmd []; let s := headState k [] placedWg; s.isHead k = true ∧ s.cmdLive k = true ∧ s.firstIssued k = true ∧ (∀ p ∈ (headCrew []).pend, some p.id = k.pid → p.poison = false)) := by decide +kernel
def rcoState (r : Rco) : State := { sBase with rcos := [(1, r)] }
theorem witness_KilnAndRadianceCache : (∀ r, (rcoState r).writes = [] ∧ tget? (rcoState r).rcos 1 = some r)
    ∧ (let r := { rco0 with faulted := List.range 255 }; let s := rcoState r
       r.budget ≠ 0 ∧ r.steps < r.budget ∧ r.due = false ∧ r.wbOwed = false ∧ r.ubOwed = false ∧ bitAt (s.r32 0x00141000) 31 = false ∧ s.kilnFree = true ∧ 256 ≤ r.held
       ∧ (∀ i < 256, r.faulted.contains ((r.get + i) % 2 ^ 32) = true ∨ (match s.access r.ctx .engine (r.place ((r.get + i) % 2 ^ 32)) 80 with
         | .ok _ => true
         | .error _ => false) = true)
       ∧ (s.kilnNext + 1) % 4 = 1 ∧ tget? s.rcos ((s.kilnNext + 0) % 4) = none)
    ∧ (rcoState { rco0 with pending := some (0, 7) }).reached (wakeTime 0) = true
    ∧ (rcoState { rco0 with pending := some (0, 7), due := true }).holds 1 (some 1) = false ∧ (rcoState { rco0 with unbinding := true }).holds 1 none = false :=
  ⟨fun _ => ⟨rfl, rfl⟩, by decide +kernel⟩
/-- A walk reads its tables below a bound. -/
def walksBelow (rd : Nat → Byte) (va b : Nat) : List (Nat × Nat × Nat) → Nat → Bool
  | [], _ => true
  | (_, sh, wd) :: more, table =>
    decide (table + 16 * (va / 2 ^ sh % 2 ^ wd) + 8 ≤ b)
      && walksBelow rd va b more (bits (leNat ((List.range 8).map (fun i => rd (table + 16 * (va / 2 ^ sh % 2 ^ wd) + i)))) 51 16 * 2 ^ 16)
theorem walkFrom_congr (rd rd' : Nat → Byte) (va b : Nat) (h : ∀ a < b, rd a = rd' a) :
    ∀ lv table, walksBelow rd' va b lv table = true → walkFrom rd va lv table = walkFrom rd' va lv table
  | [], _, _ => rfl
  | (_, sh, wd) :: more, table, hw => by
    simp only [walksBelow, Bool.and_eq_true, decide_eq_true_eq] at hw
    have he : (List.range 8).map (fun i => rd (table + 16 * (va / 2 ^ sh % 2 ^ wd) + i)) = (List.range 8).map (fun i => rd' (table + 16 * (va / 2 ^ sh % 2 ^ wd) + i)) :=
      List.map_congr_left (fun i hi => h _ (by have := List.mem_range.1 hi; omega))
    simp only [walkFrom, he]
    rw [walkFrom_congr rd rd' va b h more _ hw.2]


def rcoS (b : Bool) : State := rcoState { rco0 with wbOwed := b, unbinding := true }
/-- Bytes from 0x60000 up have been written, and nothing else. -/
def Above (b : Bool) (t : State) : Prop :=
  (∃ v o w g x, t = { rcoS b with evs := v, orders := o, writes := w, wgs := g, gangs := x }) ∧ Numbered t ∧ Within 0 (fun a => 0x60000 ≤ a ∧ a < scrBase) t
    ∧ ∀ a < 0x60000, t.rd a = (rcoS b).rd a
theorem access_congr {s t : State} (hs : s.hist = [] ∧ s.oldRoots = []) (ht : t.hist = [] ∧ t.oldRoots = []) (hr : t.regs = s.regs) {va n : Nat}
    (hp : pieces (n / 65536 + 2) va n = [(va, n)]) (hd : ∀ a < 0x60000, t.rd a = s.rd a)
    (hw : walksBelow s.rd va 0x60000 walkLevels (bits (s.r64 (mmuBlk 0)) 51 16 * 2 ^ 16) = true) : t.access 0 .save va n = s.access 0 .save va n := by
  have h32 : ∀ o, t.r32 o = s.r32 o := fun o => by simp only [State.r32, hr]
  have h64 : ∀ o, t.r64 o = s.r64 o := fun o => by simp only [State.r64, h32]
  have hm : t.memSize = s.memSize := by simp only [State.memSize, h64]
  have hk : walkRoot t.rd (s.r64 (mmuBlk 0)) va = walkRoot s.rd (s.r64 (mmuBlk 0)) va := by
    unfold walkRoot
    rw [walkFrom_congr _ _ va 0x60000 hd _ _ hw]
  have hl : t.translate 0 va = s.translate 0 va := by
    simp only [State.translate, State.translations, hs.1, hs.2, ht.1, ht.2, h64, hk, List.length_nil, List.range_zero, List.flatMap_nil, List.append_nil]
  simp only [State.access, hp, List.map, State.piece, hl, h32, hm]
theorem access_above {b : Bool} {t : State} (h : Above b t) (va n : Nat) (hp : pieces (n / 65536 + 2) va n = [(va, n)])
    (hw : walksBelow (rcoS b).rd va 0x60000 walkLevels (bits ((rcoS b).r64 (mmuBlk 0)) 51 16 * 2 ^ 16) = true) :
    t.access 0 .save va n = (rcoS b).access 0 .save va n := by
  obtain ⟨⟨v, o, w, g, x, ht⟩, _, _, hr⟩ := h
  have hb : (rcoS b).hist = [] ∧ (rcoS b).oldRoots = [] := ⟨rfl, rfl⟩
  exact access_congr hb ⟨by rw [ht]; exact hb.1, by rw [ht]; exact hb.2⟩ (by rw [ht]) hp hr hw
def saveRanges : List (Nat × Nat) := [(0x6002C, 16), (0x6004C, 8), (0x60058, 4), (0x70000, 26128), (0x80000, 26128), (0x90000, 26128)]
theorem saves_table : ∀ b, ∀ e ∈ saveRanges, pieces (e.2 / 65536 + 2) e.1 e.2 = [(e.1, e.2)]
    ∧ walksBelow (rcoS b).rd e.1 0x60000 walkLevels (bits ((rcoS b).r64 (mmuBlk 0)) 51 16 * 2 ^ 16) = true ∧ answers ((rcoS b).access 0 .save e.1 e.2) [e] = true
    ∧ 0x60000 ≤ e.1 ∧ e.1 + e.2 < 2 ^ 32 := by
  decide +kernel
theorem devWrite_above {b : Bool} {t : State} (h : Above b t) (y : Sync) (va : Nat) (bs : List Byte) (hs : (va, bs.length) ∈ saveRanges) :
    ∃ u, t.devWrite 1 0 .save y va bs = .ok u ∧ Above b u := by
  obtain ⟨hp, hw, ha, hv, hm⟩ := saves_table b _ hs
  dsimp only at hp hw ha hv hm
  have h2 := (answers_iff _ _).1 ha
  refine ⟨t.engineWrite (t.placeOf (engineOf 4 1)) y 0 va false [(va, bs.length)] bs, by simp only [State.devWrite, access_above h va _ hp hw, h2], ?_⟩
  obtain ⟨⟨v, o, w, g, x, ht⟩, hn, hi, hr⟩ := h
  obtain ⟨k1, k2, k3⟩ := engineWrite_keeps hn hi (Nat.zero_le _) (t.placeOf (engineOf 4 1)) y 0 va false [(va, bs.length)] bs (fun a hpa => by
    simp [paList] at hpa
    have : scrBase = 2 ^ 64 := rfl
    omega)
  refine ⟨?_, k1, k2, fun a hlt => ?_⟩
  · obtain ⟨v2, o2, w2, g2, x2, h⟩ := engineWrite_eq t (t.placeOf (engineOf 4 1)) y 0 va false [(va, bs.length)] bs
    exact ⟨v2, o2, w2, g2, x2, by rw [h, ht]⟩
  · rw [← hr a hlt]
    refine k3 (.mem a) (fun k hk he => ?_)
    simp only [locOf, hk.2, if_true, Loc.mem.injEq] at he
    omega
theorem saves_above {b : Bool} (y : Sync) (step : Except AccFault State → Nat × List Byte → Except AccFault State) (hs : ∀ t e, step (.ok t) e = State.devWrite t 1 0 .save y e.1 e.2) :
    ∀ (l : List (Nat × List Byte)), (∀ x ∈ l, (x.1, x.2.length) ∈ saveRanges) → ∀ t, Above b t → ∃ u, l.foldl step (.ok t) = .ok u
  | [], _, t, _ => ⟨t, rfl⟩
  | x :: l, hl, t, h => by
    obtain ⟨u, hu, ha⟩ := devWrite_above h y x.1 x.2 (hl x (by simp))
    rw [List.foldl_cons, hs, hu]
    exact saves_above y step hs l (fun y hy => hl y (List.mem_cons_of_mem _ hy)) u ha
theorem params_length (n : Nat) (t : Tbl W32) : ((List.range n).flatMap (fun k => leBytes 4 (tget 0 t k).toNat)).length = 4 * n := by
  simp [List.length_flatMap, leBytes, List.map_const', Nat.mul_comm]
theorem saves_listed (r : Rco) (hd : r.desc = 0x60000) (hw : r.wbase = 0x70000) (h1 : r.m1base = 0x80000) (h2 : r.m2base = 0x90000) :
    ∀ x ∈ r.writeBackRanges, (x.1, x.2.length) ∈ saveRanges := by
  intro x hx
  simp only [Rco.writeBackRanges, List.mem_cons, List.not_mem_nil, or_false, hd, hw, h1, h2] at hx
  rcases hx with rfl | rfl | rfl | rfl | rfl | rfl
  · simp [saveRanges, leBytes]
  · simp [saveRanges, leBytes]
  · simp [saveRanges, leBytes]
  all_goals rw [params_length]; dsimp only; decide
/-- What the ranges' writes give decides whether a write-back succeeds. -/
theorem writeBack_ok {s u : State} {slot : Nat} {r : Rco} (hr : tget? s.rcos slot = some r) (h : (r.writeBackRanges.drop 3 ++ r.writeBackRanges.take 3).foldl
    (fun a e => match a with
      | .error f => .error f
      | .ok t => State.devWrite t slot r.ctx .save ⟨false, true, 4, 1⟩ e.1 e.2) (Except.ok (ε := AccFault) s) = .ok u) (retry : Bool) : (s.writeBack slot retry).2 = true := by
  unfold State.writeBack
  rw [hr]
  dsimp only
  split
  · rfl
  · next f hf => cases h.symm.trans hf
theorem rewritten_self (s : State) : ∃ v o w g x, s = { s with evs := v, orders := o, writes := w, wgs := g, gangs := x } := ⟨s.evs, s.orders, s.writes, s.wgs, s.gangs, rfl⟩
theorem above_new (b : Bool) : Above b (rcoS b) := by
  have he : (rcoS b).evs = [] := rfl
  exact ⟨rewritten_self _, fun i e h => by simp [he] at h, fun e h => by simp [he] at h, fun _ _ => rfl⟩
theorem witness_KilnAndRadianceCache_writeBack : ∀ b, (rcoS b).writes = [] ∧ tget? (rcoS b).rcos 1 = some { rco0 with wbOwed := b, unbinding := true } ∧ (∀ retry, ((rcoS b).writeBack 1 retry).2 = true)
    ∧ ((rcoS b).holds 1 none = false) := by
  intro b
  have h0 : tget? (rcoS b).rcos 1 = some { rco0 with wbOwed := b, unbinding := true } := rfl
  have hl := saves_listed { rco0 with wbOwed := b, unbinding := true } rfl rfl rfl rfl
  obtain ⟨u, hu⟩ := saves_above (b := b) ⟨false, true, 4, 1⟩ (fun a e => match a with
      | .error f => .error f
      | .ok t => State.devWrite t 1 0 .save ⟨false, true, 4, 1⟩ e.1 e.2) (fun _ _ => rfl) _
    (fun x hx => (List.mem_append.1 hx).elim (fun h => hl x (List.mem_of_mem_drop h)) (fun h => hl x (List.mem_of_mem_take h))) _ (above_new b)
  exact ⟨rfl, h0, fun retry => writeBack_ok h0 hu retry, by cases b <;> decide⟩
def rcoBytes : List Byte := leBytes 10 0x70000 ++ leBytes 10 0x80000 ++ leBytes 10 0x90000 ++ leBytes 10 0xA0000 ++ leBytes 4 256 ++ leBytes 40 0 ++ leBytes 2 2 ++ leBytes 42 0
def bindState1 (desc : Nat) : State := withRegs (seeded sBase 0x60000 rcoBytes) [(rcuBlk 1, desc)]
theorem witness_KilnAndRadianceCache_bind : (let v := 2 ^ 31; let blk := rcuBlk 1
      bitAt v 31 = true ∧ bitAt v 30 = false ∧ tget? (bindState1 0x60000).rcos 1 = none
      ∧ (let s1 := (bindState1 0x60000).setField (blk + 0x10) 21 16 (bits v 21 16)
         (s1.bindable (bits (s1.r32 (blk + 0x10)) 21 16) (BitVec.ofNat 72 ((s1.addr72 blk (blk + 8)).toNat / 128 * 128))).isSome = true)
      ∧ (let s1 := (bindState1 0x50000).setField (blk + 0x10) 21 16 (bits v 21 16)
         (s1.bindable (bits (s1.r32 (blk + 0x10)) 21 16) (BitVec.ofNat 72 ((s1.addr72 blk (blk + 8)).toNat / 128 * 128))).isSome = false))
    ∧ bitAt (2 ^ 30) 31 = false ∧ bitAt (2 ^ 30) 30 = true := by decide +kernel

/-! #### Collectives, peers, streams, PEAL -/

def pair0 : Pair := { sndSeq := 0, expSeq := 0, unacked := [], resends := 0, down := false, lastProgress := 0, ctl := 2 ^ 63 }
def packet0 : GpxPacket := { seq := 0, arrive := none, recs := [], op := none, cid := 0, pos := ⟨0x40000, none⟩ }
/-- Port 0 is up; entry 3 has the pair; queue 5 has a target at tile 9 in accumulator 1 that expects n contributions. -/
def peerState (p : Pair) (n : Nat) : State :=
  { withRegs sBase [(portBlk 0, 0xC0000002)] with pairs := [(3, p)], tnow := 100000, hwqs := [(5, ⟨0, [], [⟨9, 0, some 1, n, 0, false⟩], false, true, []⟩)] }
def addRec : GpxRecord := ⟨false, true, 5 + 9 * 2 ^ 6, 0, leBytes 128 0⟩
/-- R199's header and R201's record, byte by byte: a data packet of one ADD of zeros, and an acknowledgement. -/
def gpxHead (kind len seq ackn : Nat) : List Byte := [1, BitVec.ofNat 8 kind] ++ leBytes 2 len ++ leBytes 4 seq ++ leBytes 4 ackn ++ [0, 0, 0, 0]
def addBytes : List Byte := [0, 1, 128, 0] ++ leBytes 4 (5 + 9 * 2 ^ 6) ++ List.replicate 136 0
/-- The pair takes a packet of a kind, with this sequence number and payload. -/
def takes (p : Pair) (kind : Nat) (packet : List Byte) (seq : Nat) (payload : List Byte) : Bool :=
  (p.accepts kind packet).elim false (fun x => decide (x.1.seq = seq) && decide (x.2 = payload))
theorem witness_PeerTransport : (∀ p n, (peerState p n).writes = [] ∧ (p.valid = true → (peerState p n).pair? 3 = some p))
    ∧ (let s := peerState pair0 1
       s.portUp pair0.lport = true ∧ pair0.expSeq = 0 ∧ takes pair0 0 (gpxHead 0 144 0 0 ++ addBytes) 0 addBytes = true ∧ takes pair0 0 (gpxHead 0 144 7 0 ++ addBytes) 7 addBytes = true
       ∧ parseRecs (addBytes.length + 1) addBytes = some [addRec] ∧ pair0.accepts 0 (gpxHead 0 143 0 0 ++ addBytes) = none ∧ pair0.unacked = []
       ∧ ({ s with wgs := [(0, { placedWg with phase := .evicted })] } : State).canApply pair0.ctx addRec = false
       ∧ tget? s.hwqs (bits addRec.ht 5 0) = some ⟨0, [], [⟨9, 0, some 1, 1, 0, false⟩], false, true, []⟩ ∧ s.targetOf pair0.ctx addRec.ht = some ⟨9, 0, some 1, 1, 0, false⟩
       ∧ s.wg? 0 = some placedWg ∧ placedWg.phase = .resident ∧ (peerState pair0 2).targetOf pair0.ctx addRec.ht = some ⟨9, 0, some 1, 2, 0, false⟩)
    ∧ (let p := { pair0 with unacked := [packet0, { packet0 with seq := 1 }] }
       takes p 1 (gpxHead 1 0 0 1) 0 [] = true ∧ (1 + 2 ^ 32 - 0) % 2 ^ 32 ≠ 0 ∧ (1 + 2 ^ 32 - 0) % 2 ^ 32 ≤ min 64 p.unacked.length ∧ p.lastProgress + 50000 ≤ (peerState p 1).tnow ∧ p.resends < 256
       ∧ 256 ≤ ({ p with resends := 256 } : Pair).resends)
    ∧ bitAt (2 ^ 63) 63 = true ∧ bitAt 0 63 = false ∧ (peerState pair0 1).pair? 4 = none :=
  ⟨fun p n => ⟨rfl, fun h => by show (if p.valid = true then some p else none) = some p; rw [if_pos h]⟩, by decide +kernel⟩
def collCmd (bin : Nat) : Cmd := { headCmd .collective (.coll false [(0, ⟨0, 0, 0, 0⟩, [3, 0, 9], 0x50000), (1, ⟨0, 0, 0, 1⟩, [3, 0, 9], 0x50080)] (some 128) bin) with pid := none }
def collState : State := { headState (collCmd 0) [] placedWg with pairs := [(3, pair0)] }
def recCopy : CopyOp := { id := 7, cid := 0, g := 0, lid := 0, ctx := 0, dsp := .scr, ssp := .glb, lanes := [{ copyK with src := 0x50000, dst := 65536 }], len := some 128, bin := 0, tag := none, guard := none, left := true, lines := [], pos := ⟨0x40000, none⟩, recs := some (0, 1) }
def recCopyState : State := { sBase with copies := [recCopy], pools := [(0, recPool 4)] }
theorem witness_CollectiveSends : collState.writes = [] ∧ collState.stamps = [] ∧ WgStays collState 0 placedWg ∧ Alone collState (collCmd 0) ∧ collState.cmds.find? (fun x => x.cid = (collCmd 0).cid && collState.collReady x) = some (collCmd 0)
    ∧ (∀ x ∈ collState.cmds, x = collCmd 0)
    ∧ collState.pair? 3 = some pair0 ∧ pair0.ctx = 0 ∧ pair0.down = false ∧ 144 ≤ pair0.pay
    ∧ (∀ a ∈ [0x50000, 0x50080], answers (collState.access 0 .engine a 128) [(a, 128)] = true ∧ collState.touchesPoison [(a, 128)] = false)
    ∧ recCopyState.Settled ∧ GraphOk recCopyState ∧ WgStays recCopyState 0 placedWg ∧ recCopyState.copies.find? (fun x => x.id = recCopy.id) = some recCopy ∧ recCopyState.copyLive recCopy = true ∧ recCopyState.nodes = []
    ∧ recCopy.tag = none ∧ recCopyState.touchesPoison [(0x50000, 128)] = false
    ∧ answers (recCopyState.access 0 .copyRead 0x50000 128) [(0x50000, 128)] = true ∧ (paList [(0x50000, 128)]).length = 128 ∧ (paList [(0x50000, 128)]).Nodup
    ∧ (∀ k ∈ recCopy.lanes, k.reads = [] ∧ k.place.op = some (recCopy.id, k.lane)) ∧ ∀ i < 128, locOf (Loc.scr 0 (65536 + i)).key = Loc.scr 0 (65536 + i) :=
  ⟨rfl, rfl, ⟨rfl, by decide⟩, ⟨fun x hx _ => by rw [List.mem_singleton.1 hx], fun x hx => by cases hx⟩, by decide +kernel, by decide, rfl, rfl, rfl, by decide, by decide +kernel, settled_like _ rfl rfl, graphOk_new rfl rfl, ⟨rfl, by decide⟩, by decide +kernel⟩
def line0 (seq ldl : Nat) : RxLine := ⟨seq, 0xFF, ldl, false, false⟩
def rxF (ldl : Nat) : RxFlow := { frames := [⟨5, 7, 1000⟩], lines := [(1, line0 5 ldl)], seen := [], poison := false, wpos := 0, recNo := 3 }
/-- Receive flow 0 of a kind, 16 pixels by 4 rows of 8-bit 4:2:2, at port 0; a record ring of 4096 bytes. -/
def rxState (kind ldl : Nat) : State :=
  { withRegs sBase [(portBlk 0, 0xC0000002), (rxBlk 0, 0x00300F00), (rxBlk 0 + 4, 0x80000000 + kind * 2 ^ 9 + 0x08000000), (rxBlk 0 + 8, 0x60000), (rxBlk 0 + 0x5C, 4096)] with rx := [(0, rxF ldl)], tnow := 500 }
def txF : TxFlow := { frame := 5, row := 1, ftx := some 1000, prevFtx := 0, lines := [⟨5, 1, 0xFFFF, some 9⟩], poison := false, sent := [], image := none }
def txState : State :=
  { withRegs sBase [(portBlk 0, 0xC0000002), (txBlk 1, 0x00300F00), (txBlk 1 + 4, 0x80000000), (txBlk 1 + 8, 0x60000), (txBlk 1 + 0x54, 1000), (txBlk 1 + 0x5C, 128)] with tx := [(1, txF)], tnow := 5000 }
def ctlWord : Nat := 2 ^ 63 + 2 ^ 44 + 3 * 2 ^ 20 + 15 * 2 ^ 8
def ctlState : State := withRegs sBase ([(portBlk 0, 0xC0000002)] ++ [rxBlk 2, txBlk 3].flatMap (fun b => [(b + 8, 0x60000), (b + 0x54, 1000000), (b + 0x5C, 128), (b + 0x28, 1000)]))
theorem witness_StreamFlows_receive : (∀ k l, (rxState k l).writes = [] ∧ tget? (rxState k l).rx 0 = some (rxF l))
    ∧ (let s := rxState 0 1000
       (s.rx.map (fun x => x.1)).filter (fun g => decide (s.fKind false g ≤ 1) && s.fTakes g 0 0 0) = [0] ∧ bitAt (s.fCtl false 0) 61 = false ∧ s.fKind false 0 = 0 ∧ (rxF 1000).frames.find? (fun fr => fr.ts = 7 % 2 ^ 32) = some ⟨5, 7, 1000⟩ ∧ 1 < s.fRows false 0
       ∧ tget? (rxF 1000).lines (s.lineIdx false 0 5 1) = some (line0 5 1000) ∧ s.dueAt 1000 = false ∧ (∀ fr ∈ (rxF 1000).frames, fr.ts ≠ 90000 % 2 ^ 32 ∧ fr.ft < s.frameTime 0 90000))
    ∧ (let s := rxState 2 1000; (s.rx.map (fun x => x.1)).filter (fun g => (s.fKind false g = 2 || s.fKind false g = 3) && s.fTakes g 0 0 0) = [0]
       ∧ bitAt (s.fCtl false 0) 61 = false ∧ s.fKind false 0 = 2 ∧ (rxState 3 1000).fKind false 0 = 3
       ∧ (rxF 1000).wpos + (16 + 16 * ceilDiv 20 16) ≤ s.fStride false 0)
    ∧ (let s := rxState 0 400; tget? (rxF 400).lines (0 * s.fRows false 0 + 1) = some (line0 5 400) ∧ s.lineIdx false 0 5 1 = 0 * s.fRows false 0 + 1 ∧ 1 < s.fRows false 0 ∧ s.dueAt 400 = true)
    ∧ (let s := rxState 1 1000; s.fKind false 0 = 1 ∧ 8 ≤ bits (s.fCtl false 0) 59 56 ∧ 1 < s.fRows false 0
       ∧ tget? (rxF 1000).lines (s.lineIdx false 0 5 1) = some (line0 5 1000) ∧ s.dueAt 1000 = false) :=
  ⟨fun _ _ => ⟨rfl, rfl⟩, by decide +kernel⟩
theorem witness_StreamFlows : txState.writes = [] ∧ tget? txState.tx 1 = some txF ∧ ctlState.writes = []
    ∧ (let s := txState
       s.wallFlow 1 = false ∧ s.fKind true 1 = 0 ∧ s.nextFtx 1 txF = some 1000 ∧ s.dueAt (clampTime ((1000 : Int) + s.fOfs1 true 1 + (txF.row * s.fLineNs true 1 : Nat))) = true ∧ txF.poison = false
       ∧ (txF.committed txF.frame txF.row).isSome = true ∧ answers (s.ringRead true 1 ((s.lineAddr true 1 txF.frame txF.row + 64) % 2 ^ 72) (s.rowBytes 1)) (List.replicate 32 0) = true
       ∧ s.portUp (bits (s.fCtl true 1) 51 48) = true)
    ∧ (∀ tx : Bool, let f := if tx then 3 else 2
       ctlState.flowOn tx f = false ∧ bitAt ctlWord 63 = true ∧ ctlState.flowOk tx f (setBits (setBits ctlWord 63 63 1) 62 62 0) = true
       ∧ ctlState.flowOk tx f (setBits (setBits (2 ^ 63) 63 63 1) 62 62 0) = false ∧ 2 ^ 63 < 2 ^ 64)
    ∧ txState.flowOn true 1 = true ∧ (rxState 0 1000).flowOn false 0 = true ∧ bitAt 0 63 = false := ⟨rfl, rfl, rfl, by decide +kernel⟩
def pealV : Nat := 2 ^ 31 + 2 ^ 24 + 7
def frameBytes : List Byte := leBytes 8 9 ++ leBytes 8 5000000 ++ leBytes 8 4000000 ++ leBytes 1 1 ++ leBytes 1 1 ++ leBytes 2 7 ++ leBytes 36 0
def peer3 : Pair := { pair0 with addr := 2 ^ 121 }
/-- A group of two: this card (port 0, member 0) and peer 3. The frame object stands at 0x60000. -/
def wallState (cfg t : Nat) (as : List Armed) : State :=
  { withRegs (seeded sBase 0x60000 frameBytes) [(portBlk 0, 0xC0000002), (portBlk 0 + 0x10, 1), (peerBlk 3, 2), (pealBlk, cfg), (pealBlk + 0x100, 0x100), (pealBlk + 0x104, 3)] with pairs := [(3, peer3)], peal := as, tnow := t }
def armed9 : Armed := { frameNo := 9, pres := 5000000, subst := 1, obj := 0x60000, ctx := 0, buffer := none, arrivedSelf := false, arrivals := 1, decided := none, sends := 0, decision := none }
def arrive9 : List Byte := leBytes 2 7 ++ leBytes 6 0 ++ leBytes 8 9 ++ leBytes 8 5000000
def decide9 : List Byte := leBytes 2 7 ++ leBytes 6 0 ++ leBytes 8 9 ++ leBytes 16 0
theorem witness_WallBarrier : (∀ cfg t as, (wallState cfg t as).writes = [] ∧ (wallState cfg t as).earlyArrivals = [])
    ∧ ((wallState 0 0 []).pealOn = false ∧ bitAt pealV 31 = true ∧ (wallState 0 0 []).pealOk pealV = true ∧ (wallState 0 0 []).pealOk 0x82000000 = false)
    ∧ (let s := wallState pealV 0 []
       answers (match (s.frameRead 0 0x60000).bind (parseFrame 0x60000) with
         | some x => Except.ok (ε := Unit) x
         | none => .error ()) (⟨9, 5000000, 4000000, 1, 7, 0x60000⟩, [0, 0, 0, 0]) = true
       ∧ s.pealOn = true ∧ 7 = s.pealGroup ∧ 0 + s.pealGuard / 4 < 5000000 ∧ BitVec.ofNat 72 (0x60000 / 64 % 2 ^ 58 * 64 + s.r32 (pealBlk + 0x28) % 256 * 2 ^ 64) = 0x60000)
    ∧ (let s := wallState pealV 0 [armed9]
       s.peal.find? (fun x => x.frameNo = 9) = some armed9 ∧ s.pair? 3 = some peer3 ∧ s.portUp peer3.lport = true ∧ peer3.down = false ∧ peer3.unacked = [] ∧ takes peer3 2 (gpxHead 2 24 0 0 ++ arrive9) 0 arrive9 = true ∧ peer3.expSeq = 0
       ∧ takes peer3 3 (gpxHead 3 32 0 0 ++ decide9) 0 decide9 = true ∧ (parseDecide decide9).group = s.pealGroup ∧ (parseDecide decide9).frame = 9
       ∧ s.isTenor = true ∧ (parseArrive arrive9).group = s.pealGroup ∧ (parseArrive arrive9).frame = 9 ∧ s.tnow ≤ (parseArrive arrive9).pres ∧ s.tnow + s.pealGuard ≤ armed9.pres ∧ s.tnow + s.pealGuard / 4 < armed9.pres ∧ 1 ≤ bits s.pealCfg 29 24 ∧ bitAt (s.pealMember 1) 8 = false ∧ s.pealMember 1 % 256 = 3)
    ∧ (let s := wallState pealV 4500000 [armed9]
       s.isTenor = true ∧ armed9.pres ≤ s.tnow + s.pealGuard ∧ s.tnow + s.pealGuard / 4 < armed9.pres ∧ armed9.pres + 1 * (s.pealGuard / 8) ≤ s.tnow + s.pealGuard ∧ armed9.decision = none)
    ∧ (let s := withRegs (wallState pealV 0 [armed9]) [(pealBlk + 0x100, 3), (pealBlk + 0x104, 0x100)]
       takes peer3 3 (gpxHead 3 32 0 0 ++ decide9) 0 decide9 = true ∧ s.pair? 3 = some peer3 ∧ s.peal.find? (fun x => x.frameNo = 9) = some armed9 ∧ s.portUp peer3.lport = true ∧ s.pealOn = true ∧ (parseDecide decide9).group = s.pealGroup
       ∧ bitAt (s.pealMember 0) 8 = false ∧ s.pealMember 0 % 256 = 3 ∧ bitAt 1 s.pealSelf = false ∧ bitAt ((wallState pealV 0 [armed9]).pealMember 0) 8 = true)
    ∧ (armed9.pres ≤ (wallState pealV 5000000 []).tnow ∧ armed9.pres ≠ 2 ^ 64 - 1 ∧ 0x70000 < 2 ^ 64) :=
  ⟨fun _ _ _ => ⟨rfl, rfl⟩, by decide +kernel⟩

/-! #### The dispatcher -/

def kernBytes : List Byte := leBytes 10 0x40000 ++ leBytes 10 0x40000 ++ leBytes 10 0x100000 ++ leBytes 2 1 ++ leBytes 1 1 ++ leBytes 2 0 ++ leBytes 1 1 ++ leBytes 1 1 ++ leBytes 27 0
def recordBytes : List Byte := leBytes 10 0x61000 ++ leBytes 10 0x80000 ++ leBytes 10 0 ++ leBytes 1 1 ++ leBytes 1 0 ++ leBytes 8 (1 + 2 ^ 20 + 2 ^ 40) ++ leBytes 24 0
def record1 : Record := { kdesc := 0x61000, args := 0x80000, frame := 0, crews := 1, gang := 0, gx := 1, gy := 1, gz := 1, deadline := 0, est := 0, classD := false, shed := false, serial := false, irq := false, bind := 0 }
/-- Queue 5 is host-fed, of 16 entries, with its ring at 0x60000 and its completions at 0x68000; the next LID is 5. -/
def takeState (tail : Nat) : State :=
  { withRegs (seeded (seeded sBase 0x60000 recordBytes) 0x61000 kernBytes) [(0x000C, 0x60000000), (0x00081008, 5), (qBlk 5, 0x80000400), (qBlk 5 + 8, 0x60000), (qBlk 5 + 0x18, 0x68000), (qBlk 5 + 0x28, tail)] with
    nodes := [(2, { ctx := 0, qid := 5, tmpl := 0x60000, batch := 2, pool := 0, timeout := 100, queue := [(0x70000, 0)] })], pools := [(0, recPool 4)], tnow := 200 }
def node2 : Node := { ctx := 0, qid := 5, tmpl := 0x60000, batch := 2, pool := 0, timeout := 100, queue := [(0x70000, 0)] }
theorem witness_LaunchesStartAndComplete : (∀ n, (takeState n).writes = [])
    ∧ (let s := takeState 1
       bitAt (s.r32 (qBlk 5)) 29 = false ∧ (9 + 2 ^ 32 - s.r32 (qBlk 5 + 0x2C)) % 2 ^ 32 ≤ s.qSize 5 ∧ s.qSize 5 < (17 + 2 ^ 32 - s.r32 (qBlk 5 + 0x2C)) % 2 ^ 32
       ∧ s.qOpen 5 = true ∧ s.bootState = 6
       ∧ (s.dread (s.qCtx 5) (((s.addr72 (qBlk 5 + 0x08) (qBlk 5 + 0x10)).toNat + 64 * (s.r32 (qBlk 5 + 0x2C) % s.qSize 5)) % 2 ^ 72) 64).bind parseRecord = some record1
       ∧ s.readBinding (s.qCtx 5) record1 = some Binding.none ∧ s.recordOk (s.qCtx 5) (s.qClassD 5) (Binding.none.gxw = 0) record1 Binding.none = true ∧ Binding.none.gate = 0
       ∧ (match ({ (s.endGate 5).w32 (qBlk 5 + 0x2C) (s.r32 (qBlk 5 + 0x2C) + 1) with heldHeads := s.heldHeads.filter (fun x => x ≠ 5) }.tookLid).takeRecord 5 (s.qCtx 5) (nextLid s)
          (some (s.r32 (qBlk 5 + 0x2C))) record1 Binding.none true none (tget [] s.bells 5) with
         | (_, .ok _) => true
         | (_, .error _) => false) = true)
    ∧ (let s := takeState 1
       tget? s.nodes 2 = some node2 ∧ s.batchDue node2 = 1 ∧ s.template node2 = some (record1, Binding.none) ∧ s.batchDue { node2 with queue := node2.queue.drop 1 } = 0
       ∧ (match s.tookLid.takeRecord 5 0 (nextLid s) none { record1 with gx := 1, gy := 1, gz := 1, gang := 0 } Binding.none false (some ⟨2, 0, [0x70000], false, (tget? s.pools node2.pool).elim 0 (fun p => p.rlines)⟩) (tget [] s.bells (64 + 2)) with
         | (_, .ok _) => true
         | (_, .error _) => false) = true)
    ∧ (let s := takeState 1
       answers (s.access (s.qCtx 5) .ring (((s.addr72 (qBlk 5 + 0x18) (qBlk 5 + 0x20)).toNat + 32 * (3 % s.qSize 5)) % 2 ^ 72) 24) [(0x68060, 24)] = true
       ∧ answers (s.access (s.qCtx 5) .ring ((((s.addr72 (qBlk 5 + 0x18) (qBlk 5 + 0x20)).toNat + 32 * (3 % s.qSize 5)) % 2 ^ 72 + 24) % 2 ^ 72) 8) [(0x68078, 8)] = true
       ∧ (paList [(0x68060, 24)] ++ paList [(0x68078, 8)]).Nodup ∧ ∀ a ∈ paList [(0x68060, 24)] ++ paList [(0x68078, 8)], a < scrBase)
    ∧ GraphOk (takeState 1) :=
  ⟨fun _ => rfl, by decide +kernel, by decide +kernel, by decide +kernel, graphOk_new rfl rfl⟩
def slackLaunch (shed : Bool) : Launch := { placedLaunch with lid := 7, queue := 5, record := { record1 with classD := true, shed := shed, deadline := 1000 }, est := 500, nextWg := 0 }
def gangLaunch : Launch := { placedLaunch with lid := 7, queue := 5, record := { record1 with gang := 2, gx := 2 }, nextWg := 0, gangWait := some 0 }
def newLaunch : Launch := { placedLaunch with lid := 7, queue := 5, nextWg := 0 }
def placeState (l : Launch) : State := { sBase with launches := [(7, l)], wgs := [], crews := [], tnow := 60000 }
theorem witness_Placement : (∀ l, (placeState l).writes = [] ∧ (placeState l).launch? 7 = some l)
    ∧ (∀ b : Bool, (slackLaunch b).deadline = some 1000 ∧ (slackLaunch b).record.classD = true ∧ (slackLaunch b).nextWg = 0 ∧ (slackLaunch b).lateDone = false
      ∧ 1000 < (placeState (slackLaunch b)).tnow + (slackLaunch b).est ∧ (slackLaunch b).record.shed = b)
    ∧ (let s := placeState gangLaunch
       gangLaunch.record.gang ≠ 0 ∧ gangLaunch.nextWg < gangLaunch.record.total ∧ gangLaunch.deferred = [] ∧ s.reserved = [] ∧ 0 + 1000 * max 1 (s.r32 (0x00081000 + 4) % 65536) ≤ s.tnow
       ∧ gangLaunch.record.gang ≤ ((List.range 16).filter (fun c => s.quadLive ((16 * 3 + c) / 4))).length ∧ 3 < Config.spans)
    ∧ (let s := placeState newLaunch
       newLaunch.record.gang = 0 ∧ newLaunch.nextWg < newLaunch.record.total ∧ newLaunch.batch = none ∧ s.nodes = [] ∧ newLaunch.deferred = [] ∧ s.slackGone newLaunch = false ∧ s.settleDispatch.classOk newLaunch [9] none = true
       ∧ s.fits 9 newLaunch.kern newLaunch.record.crews = true ∧ s.slotsOk ⟨9, [(1, 4)]⟩ newLaunch.record.crews = true) :=
  ⟨fun _ => ⟨rfl, rfl⟩, by decide +kernel⟩
def poolBytes : List Byte := leBytes 10 0x70000 ++ leBytes 1 1 ++ leBytes 1 0 ++ leBytes 4 32 ++ leBytes 16 0
def nodeBytes : List Byte := leBytes 10 0x60000 ++ leBytes 1 4 ++ leBytes 1 0 ++ leBytes 4 100 ++ leBytes 16 0
/-- Descriptors for pool 1 and node 1, none for pool 2 and node 2; pool, node and queue 3 are enabled, and so is the template's launch queue 5. -/
def descState : State :=
  { withRegs (seeded (seeded (seeded (seeded sBase 0x60000 recordBytes) 0x61000 kernBytes) 0x62000 poolBytes) 0x63000 nodeBytes)
      [(qBlk 5, 0x80000400), (qBlk 6, 0x80000400), (poolBlk 1 + 8, 0x62000), (nodeBlk 1 + 8, 0x63000), (poolBlk 3, 2 ^ 31), (nodeBlk 3, 2 ^ 31), (hwqBlk 3, 2 ^ 31), (qBlk 8 + 8, 1)] with
    pools := [(0, recPool 4)] }
theorem witness_QueuesPoolsAndNodes : descState.writes = []
    ∧ (let v := 2 ^ 31 + 4 * 2 ^ 8
       (∀ q ∈ [7, 8], bitAt (descState.r32 (qBlk q)) 31 = false ∧ bitAt v 31 = true ∧ 4 ≤ bits v 11 8 ∧ bits v 11 8 ≤ 12)
       ∧ (descState.r32 (qBlk 7 + 0x08) % 64 = 0 ∧ descState.r32 (qBlk 7 + 0x18) % 32 = 0) ∧ ¬(descState.r32 (qBlk 8 + 0x08) % 64 = 0)
       ∧ bitAt (descState.r32 (qBlk 6)) 31 = true ∧ bitAt 0 31 = false)
    ∧ (let v := 2 ^ 31 + 5
       (∀ n ∈ [1, 2], bitAt (descState.r32 (poolBlk n)) 31 = false ∧ bitAt (descState.r32 (nodeBlk n)) 31 = false ∧ bitAt v 31 = true)
       ∧ ((descState.dread (bits v 21 16) ((descState.addr72 (poolBlk 1 + 0x08) (poolBlk 1 + 0x10)).toNat / 32 * 32) 32).bind (parsePool (bits v 21 16)) = some { ctx := 0, base := 0x70000, rlines := 1, count := 32, busy := [] })
       ∧ ((descState.dread (bits v 21 16) ((descState.addr72 (poolBlk 2 + 0x08) (poolBlk 2 + 0x10)).toNat / 32 * 32) 32).bind (parsePool (bits v 21 16)) = none)
       ∧ (let x : Node := { ctx := 0, qid := 5, tmpl := 0x60000, batch := 4, pool := 0, timeout := 100, queue := [] }
          (descState.dread (bits v 21 16) ((descState.addr72 (nodeBlk 1 + 0x08) (nodeBlk 1 + 0x10)).toNat / 32 * 32) 32).bind (parseNode (bits v 21 16) (bits v 5 0)) = some x ∧ descState.nodeOk x = true)
       ∧ ((descState.dread (bits v 21 16) ((descState.addr72 (nodeBlk 2 + 0x08) (nodeBlk 2 + 0x10)).toNat / 32 * 32) 32).bind (parseNode (bits v 21 16) (bits v 5 0)) = none)
       ∧ (∀ b ∈ [poolBlk 3, nodeBlk 3, hwqBlk 3], bitAt (descState.r32 b) 31 = true) ∧ descState.nodes = []) :=
  ⟨rfl, by decide +kernel⟩

/-! #### Traps, invalidation, eviction -/

/-- A crew stopped by an illegal instruction, with its record in the buffer; context 0's ring has 16 records at a base. -/
def stopState (ring put : Nat) : State :=
  withRegs (sBase.takeTrapAt 0 .s ⟨0x40000, none⟩ 4 0 Trap.illegal) [(mmuBlk 0 + 8, 0x40000), (mmuBlk 0 + 0x10, ring), (mmuBlk 0 + 0x18, ring / 2 ^ 64), (mmuBlk 0 + 0x20, put), (dbgBlk 0, 0x80000000)]
def stopRec : TrapRec := ((stopState 0x60000 0).trapBuf.headD ⟨0, 0, [], false, false, none, none, none⟩)
def stopCrew : Crew := ((stopState 0x60000 0).crew? 0).getD crewS
theorem witness_TrapRingAndResume_ring : (∀ r p, (stopState r p).Settled ∧ GraphOk (stopState r p)) ∧
    (let s := stopState 0x60000 3; s.ringSize 0 = some 16 ∧ s.trapBuf.find? (fun x => x.ctx = 0) = some stopRec ∧ s.ringFull 0 = false ∧ 0 ∉ s.trapStalled ∧ stopRec.cls ≠ 255 ∧ stopRec.cls ≠ 40
       ∧ stopRec.bytes.length = 124 ∧ answers (s.access 0 .ring 0x60180 128) [(0x60180, 128)] = true ∧ (paList [(0x60180, 128)]).Nodup ∧ (∀ a ∈ paList [(0x60180, 128)], a < scrBase)
       ∧ ((s.addr72 (mmuBlk 0 + 0x10) (mmuBlk 0 + 0x18)).toNat + 128 * (s.r32 (mmuBlk 0 + 0x20) % 16)) % 2 ^ 72 = 0x60180
       ∧ stopRec.cid = some 0 ∧ s.crew? 0 = some stopCrew ∧ stopCrew.stop.isSome = true ∧ stopRec.waits = true ∧ stopRec.cmd = none ∧ s.nextSeq 0 < 2 ^ 32 - 1)
    ∧ (let s := stopState (2 ^ 65) 3
       (match s.access 0 .ring ((s.addr72 (mmuBlk 0 + 0x10) (mmuBlk 0 + 0x18)).toNat + 128 * 3) 128 with
       | .ok _ => false
       | .error _ => true) = true) :=
  ⟨fun _ _ => ⟨settled_like _ rfl rfl, graphOk_new rfl rfl⟩, by decide +kernel⟩
def waits7 : Waiting := ⟨0, 7, some 0, none, none, none, []⟩
def waits8 : Waiting := ⟨0, 8, none, some 9, none, none, []⟩
def waits9 : Waiting := ⟨0, 9, none, none, some 0, none, []⟩
/-- A crew that waits at SYSC (class 14). -/
def syscCrew : Crew := { stopCrew with stop := stopCrew.stop.map (fun (x : Stop) => { x with trap := { x.trap with cls := 14 } }) }
def waitState : State := { stopState 0x60000 0 with waiting := [waits7, waits8, waits9], cmds := [{ mmaCmd none 0 with held := true, cid := 5 }] }
theorem witness_TrapRingAndResume : waitState.writes = [] ∧ waitState.waitingAt 0 7 = some waits7 ∧ waits7.cmd = none ∧ waits7.wg = none ∧ waits7.slot = none ∧ waitState.crew? 0 = some stopCrew ∧ waitState.stopOfCrew 0 0 = none
    ∧ stopCrew.stop.isSome = true ∧ waitState.debugRight 0 = true ∧ waitState.waitingAt 0 8 = some waits8 ∧ waits8.cid = none ∧ waits8.cmd = some 9 ∧ waits8.wg = none ∧ waitState.stopOfIssued waits8 = none
    ∧ waitState.waitingAt 0 9 = some waits9 ∧ waits9.cid = none ∧ waits9.cmd = none ∧ waits9.wg = some 0 ∧ waitState.stopOfIssued waits9 = none ∧ waitState.wg? 0 = some placedWg
    ∧ waitState.waitingAt 0 6 = none
    ∧ (stopCrew.stop.elim false (fun st => st.trap.cls ≠ 14)) = true
    ∧ (let s : State := { waitState with crews := [(0, syscCrew)] }
       s.waitingAt 0 7 = some waits7 ∧ s.crew? 0 = some syscCrew ∧ s.stopOfCrew 0 0 = none ∧ syscCrew.stop.elim false (fun st => st.trap.cls = 14) = true) := ⟨rfl, by decide +kernel⟩
def invState (inv ic : Nat) (busy : List Nat) : State := { withRegs sBase [(mmuGlb, inv), (icinvOff, ic)] with scinvBusy := busy, scales := [unit1], oldRoots := [(0, 0, 0)] }
theorem witness_Invalidations : (∀ a b c, (invState a b c).writes = []) ∧ (∀ k, tget? ({ invState 0 0 [] with tags := [(3, k)] } : State).tags 3 = some k ∧ ({ invState 0 0 [] with tags := [(3, k)] } : State).writes = [])
    ∧ bitAt (2 ^ 31) 31 = true ∧ bitAt ((invState 0 0 []).r32 mmuGlb) 31 = false ∧ bitAt ((invState (2 ^ 31 + 2 ^ 30) 0 []).r32 mmuGlb) 31 = true
    ∧ bitAt ((invState (2 ^ 31 + 2 ^ 30) 0 []).r32 mmuGlb) 30 = true ∧ (∀ r ∈ (invState (2 ^ 31) 0 []).oldRoots, r.2.2 ≤ (invState (2 ^ 31) 0 []).hist.length)
    ∧ 0 ∈ (invState 0 0 [0]).scinvBusy ∧ 0 ∉ (invState 0 0 []).scinvBusy ∧ unit1 ∈ (invState 0 0 [0]).scales ∧ bitAt ((invState 0 (2 ^ 31) []).r32 icinvOff) 31 = true ∧ (invState 0 0 []).trapBuf.length < 64
    ∧ (invState 0 0 []).wg? 0 = some placedWg ∧ (invState 0 0 []).launch? placedWg.lid = some placedLaunch
    ∧ tget? (invState 0 0 []).tags 3 = none :=
  ⟨fun _ _ _ => rfl, fun _ => ⟨by rfl, rfl⟩, by decide +kernel⟩
/-- Context 0 has two save blocks from 4 MiB; or from past the end of memory. -/
def saveState (base : Nat) (w : Workgroup) : State :=
  { withRegs sBase [(mmuBlk 0 + 0x28, base), (mmuBlk 0 + 0x2C, base / 2 ^ 32), (mmuBlk 0 + 0x30, 2 * 2 ^ 16), (emergOff, 1)] with wgs := [(0, w)], reeve := { Reeve.reset with retiring := [0] } }
def stoppedWg (ph : Phase) : Workgroup := { placedWg with phase := ph, block := some 1 }
theorem witness_EvictionAndRestore_victims : (saveState 0x400000 placedWg).writes = [] ∧ InOrder (saveState 0x400000 placedWg).wgs
    ∧ ((saveState 0x400000 placedWg).victims 0 0).map (fun x => x.2) = some [0] := ⟨rfl, by unfold InOrder; decide, by decide +kernel⟩
theorem settledW (b : Nat) (w : Workgroup) : (saveState b w).Settled := settled_like _ rfl rfl
theorem witness_EvictionAndRestore_saves : (∀ b w, (saveState b w).Settled ∧ (saveState b w).wg? 0 = some w)
    ∧ (∀ ph ∈ [Phase.stopping, .saving], (saveState 0x400000 (stoppedWg ph)).saving 0 (stoppedWg ph) = true ∧ (stoppedWg ph).fault = none ∧ (saveState 0x400000 (stoppedWg ph)).blockPages (stoppedWg ph) ≠ [])
    ∧ (saveState 0x400000 (stoppedWg .emergency)).blockPages (stoppedWg .emergency) ≠ []
    ∧ (∀ ph ∈ [Phase.stopping, .saving, .emergency], (saveState (2 ^ 39) (stoppedWg ph)).inBlock (stoppedWg ph) (2 ^ 39 + 0x400000) = true
        ∧ (match (saveState (2 ^ 39) (stoppedWg ph)).access 0 .save (2 ^ 39 + 0x400000) 1 with
          | .ok _ => false
          | .error _ => true) = true)
    ∧ (saveState 0 placedWg).emerg = none ∧ (saveState 0 placedWg).emergQueue = [] ∧ bitAt ((saveState 0 placedWg).r32 emergOff) 0 = true
    ∧ (saveState 0 placedWg).policy ((saveState 0 placedWg).ctxOfLid 0) 40 = .wait :=
  ⟨fun b w => ⟨settledW b w, rfl⟩, by decide +kernel⟩
def restState (w : Workgroup) : State := { saveState 0x400000 w with reeve := Reeve.reset }
theorem witness_EvictionAndRestore : (∀ w, (restState w).writes = [] ∧ (restState w).wg? 0 = some w ∧ (restState w).launch? 0 = some placedLaunch)
    ∧ (let w := stoppedWg .evicted; let s := restState w
       w.phase = .evicted ∧ w.fault = none ∧ placedLaunch.record.gang = 0 ∧ w.crews.Nodup ∧ (s.wgs.filter (fun x => x.2.phase = .evicted && x.2.order = w.order)).map (fun x => x.1) = [0]
       ∧ s.fits 9 placedLaunch.kern w.slots.length = true ∧ s.slotsOk ⟨9, [(2, 3)]⟩ w.slots.length = true ∧ (∀ cid ∈ w.crews, s.crew? cid = some crewS) ∧ s.restoreOk placedLaunch 9 = true)
    ∧ (let w := stoppedWg .restoring; let s := restState w
       w.phase = .restoring ∧ (∀ x ∈ s.returning w, s.blockReadable x.2 = true ∧ s.blockSpoilt x.2 = false ∧ (∀ k ∈ s.cmds, k.cid ∉ x.2.crews) ∧ ∀ k ∈ s.copies, k.cid ∉ x.2.crews) ∧ s.returning w ≠ []
       ∧ ∃ x ∈ ({ s with wgs := [(0, { w with saved := some (0, [2 ^ 30]) })] } : State).returning w, s.blockReadable x.2 = false)
    ∧ (let w := stoppedWg .restoring; let s := { restState w with regs := (saveState (2 ^ 39) w).regs }
       s.inBlock w (2 ^ 39 + 0x400000) = true
       ∧ (match s.access 0 .engine (2 ^ 39 + 0x400000) 1 with
         | .ok _ => false
         | .error _ => true) = true) := ⟨fun _ => ⟨rfl, rfl, rfl⟩, by decide +kernel, by decide +kernel, by decide +kernel⟩
theorem witness_EvictionAndRestore_order : ∀ w, InOrder (restState w).wgs := fun w => by unfold InOrder; simp [restState, saveState, withRegs]

/-! #### Bring-up, host, debug, Reeve -/

/-- A step of bring-up, with the port 0 that PTP listens to up, and a lock. -/
def bootAt (k lock : Nat) : State := withRegs sBase [(0x000C, k * 2 ^ 28), (portBlk 0, 0xC0000002), (portBlk 1, 0xC0000003), (portBlk 2, 0xC0000002), (portBlk 3, 0xC0000002), (ptpcBlk + 8, lock)]
def ptpAt (lock : Nat) (run : Bool) : State := { bootAt 5 lock with started := run, tnow := if run then 1000 else 0, ptp := ⟨15, 3000000000, 60000000000, 0, 0, 10000000000⟩ }
theorem witness_BringUpAndClock : (∀ k l, (bootAt k l).writes = [] ∧ ∀ b, (ptpAt l b).writes = []) ∧ (∀ k < 16, (bootAt k 0).bootState = k) ∧ (bootAt 4 0).portsDone = true ∧ (bootAt 5 2).lock = 2 ∧ (bootAt 5 0).lock ≠ 2 ∧ 10000000000 ≤ (ptpAt 0 false).ptp.inStep
    ∧ (∀ b : Bool, ∀ l < 4, (ptpAt l b).ptpHears 0 0x7F = true ∧ (ptpAt l b).bootState = 5 ∧ (ptpAt l b).lock = l ∧ (ptpAt l b).started = b ∧ 3000000000 ≤ (ptpAt l b).ptp.sinceSync
        ∧ (ptpAt l b).r32 (ptpcBlk + 0x18) % 65536 * 1000000000 ≤ (ptpAt l b).ptp.inHoldover)
    ∧ (let s := ptpAt 2 true; s.tnow + 5 ≤ 2 ^ 64 - 2 ∧ s.tfrac < 65536 ∧ 2 ^ 64 - 2 < s.tnow + (2 ^ 64 - 1)) := ⟨fun _ _ => ⟨rfl, fun _ => rfl⟩, by decide +kernel⟩
def portAt (st mode : Nat) : State := withRegs sBase [(portBlk 0, 0xC0000000 + st), (0x0020, mode)]
theorem witness_Ports : (∀ a b, (portAt a b).writes = []) ∧ 0 < 16 ∧ bitAt (2 ^ 31) 31 = true ∧ bitAt 0 31 = false ∧ (portAt 1 0).portPresent 0 = true ∧ (portAt 1 0).portPresent 9 = false ∧ (portAt 1 0).portState 0 = 1
    ∧ 1 % 4 ≠ 3 ∧ 1 % 4 ≠ bits ((portAt 1 0).r32 0x0020) 1 0 ∧ 3 % 4 = 3 ∧ 1 % 4 = bits ((portAt 1 1).r32 0x0020) 1 0 := ⟨fun _ _ => rfl, by decide +kernel⟩
def acc0 (bar off size : Nat) (write : Bool) : HostAccess := ⟨bar, off, size, write, 0x12345678, 0⟩
theorem witness_HostAccesses : sBase.Settled ∧ ({ sBase with emergQueue := [0] } : State).Settled ∧ GraphOk sBase ∧ GraphOk ({ sBase with emergQueue := [0] } : State) ∧ sBase.noLink = false ∧ (∀ n ∈ [4, 8], n = 4 ∨ n = 8) ∧ sBase.hostUp (acc0 0 0x0018 4 false) = true ∧ inRanges emergOff = true ∧ emergOff % 8 = 0
    ∧ (inRanges 0x0018 = true ∧ 0x0018 % 4 = 0 ∧ inRanges (qBlk 5) = true ∧ qBlk 5 % 8 = 0)
    ∧ (∀ c ∈ [0, 63], ∀ w ∈ [0x28, 0x2C, 0x10, 0x14], (mmuBlk c + w) % 4 = 0) ∧ (acc0 0 (mmuBlk 0 + 0x28) 4 true).data < 2 ^ 32
    ∧ (∀ o ∈ [ptpcBlk + 0x10, pealBlk + 0x20, mmuBlk 63 + 0x38], (o + 4) / 8 * 8 = o ∧ (o + 4) % 4 = 0)
    ∧ (inRanges 0x00FFFFF8 = false ∧ 0x00FFFFF8 + 8 ≤ 2 ^ 24) ∧ 2 ^ 24 < 2 ^ 24 + 4
    ∧ (sBase.memSize < 2 ^ 38 - 8 + 8 ∧ 2 ^ 38 - 8 + 8 ≤ 2 ^ 38) ∧ (0x50000 + 8 ≤ sBase.memSize ∧ 0x50000 + 8 ≤ 2 ^ 38) 
    ∧ (let s : State := { sBase with emergQueue := [0] }
       s.emerg = none ∧ s.emergQueue = 0 :: [] ∧ s.wg? 0 = some placedWg ∧ bitAt (2 ^ 22 + 1) 0 = true ∧ bits (2 ^ 22 + 1) 51 16 * 65536 = 2 ^ 22)
    ∧ (acc0 configBar 0 4 false).bar = configBar :=
  ⟨settledS, settled_like _ rfl rfl, graphS, graphOk_new rfl rfl, by decide +kernel⟩
/-- Partition 1 of core 0 is stopped for a crew of context 0, which holds the right when it is given. -/
def stop0 (cs : List (Nat × Nat)) : DbgStop := { core := 0, part := 0, causes := cs, gone := [], step := none, dumpFault := none }
def dbgState (right : Nat) (ds : List DbgStop) : State := { withRegs sBase [(dbgBlk 0, right), (dbgBlk 0 + 0x4C, 0)] with dbg := ds }
theorem witness_DebugHandler_busy : (dbgState (2 ^ 31) [stop0 [(0, 0)]]).dbgBusy 0 = false ∧ (dbgState 0 []).dbgBusy 0 = false
    ∧ (dbgState 0 [{ stop0 [(0, 0)] with dumpFault := some 0 }]).dbgBusy 0 = true
    ∧ (∃ i : IssuedStop, i.record.ctx = 0 ∧ (dbgState 0 [{ stop0 [] with issued := [i] }]).issuedLid i = some 0) :=
  ⟨by decide, by decide, by decide, ⟨0, none, ⟨0, 0, [], false, false, some 0, none, none⟩⟩, rfl, by decide⟩
theorem witness_DebugHandler : (∀ r ds, (dbgState r ds).writes = []) ∧ (dbgState 0 []).debugRight 0 = false ∧ (dbgState (2 ^ 31) []).debugRight 0 = true ∧ (dbgState (2 ^ 31) []).stopOf 0 0 = none
    ∧ bits 0 13 6 < 192 ∧ (dbgState (2 ^ 31) [stop0 [(0, 0)]]).stopOf (bits 0 13 6) (bits 0 5 4) = some (stop0 [(0, 0)]) ∧ (stop0 [(0, 0)]).dumpFault = none ∧ (stop0 [(0, 0)]).step = none ∧ 0 ∉ (stop0 [(0, 0)]).gone
    ∧ (stop0 [(0, 0)]).contexts.all (fun x => (0 :: (stop0 [(0, 0)]).gone).contains x) = true ∧ (stop0 [(0, 0), (4, 9)]).contexts.all (fun x => (0 :: (stop0 [(0, 0), (4, 9)]).gone).contains x) = false
    ∧ (dbgState (2 ^ 31) [stop0 [(0, 0)]]).targetCrew 0 0 = some 0 ∧ (dbgState 0 []).crew? 0 = some crewS
    ∧ sBase.cmds = [] ∧ sBase.copies = [] ∧ InOrder sBase.crews ∧ sBase.coreOf crewS = 0 ∧ crewS.part = 0 ∧ sBase.ctxOf crewS = 0 ∧ (sBase.wg? crewS.g).elim false Workgroup.onCore = true
    ∧ (match (dbgState 0 []).vread 0 .engine (((dbgState 0 []).dumpAddr 0 0 0 + 65536 * crewS.idx) % 2 ^ 72) (0x1000 + 128 * ((dbgState 0 []).kernOf crewS).vregs) with
      | .ok _ => true
      | .error _ => false) = true
    ∧ bitAt 0 31 = false ∧ 0 ∈ (stop0 [(0, 0)]).contexts ∧ (∀ x ∈ (stop0 [(0, 0)]).contexts, x = 0) ∧ bitAt (2 ^ 28) 28 = true ∧ (∃ l ∈ sBase.launches, l.2.ctx = 0) ∧ (∀ l ∈ sBase.launches, l.2.ctx ≠ 5)
    ∧ (((dbgState (2 ^ 31) [stop0 [(0, 0)]]).resumeCrew 0).crew? 0).elim false (fun c => c.ready .s) = true
    ∧ (((dbgState (2 ^ 31) [stop0 [(0, 0)]]).resumeCrew 0).crew? 0).elim false (fun c => c.ready .l) = false :=
  ⟨fun _ _ => rfl, by decide, by decide, by decide, by decide, by decide, by decide, by decide, by decide, by decide, by decide, by decide +kernel, by decide, rfl, rfl, by unfold InOrder; decide, by decide +kernel⟩
def err0 (kind : ArrayKind) (crew : Option Nat) : ArrayErr := ⟨kind, 7, 100, false, crew⟩
def errState (ss : List Spare) (pol : Nat) : State := { withRegs sBase [(dbgBlk 0, 2 ^ 31), (mmuBlk 0 + 8, pol)] with reeve := { Reeve.reset with spares := ss } }
def spares8 : List Spare := (List.range 8).map (fun i => ⟨arrayNo .pool 7, i, false⟩)
theorem witness_FleetController_errors : (∀ ss p, (errState ss p).writes = []) ∧ (∀ l ∈ [0, 1, 2], l % 4 ≠ 3) ∧ (∃ n < 64, [0, 3].getD n 0 % 4 = 3) ∧ (err0 .pool none).kind ≠ .l2Slice ∧ (err0 .l2Slice none).kind = .l2Slice
    ∧ (let s := errState ((List.range 8).map (fun i => ⟨arrayNo .l2Slice 7, i, false⟩)) 0; let a := arrayNo .l2Slice 7
       8 ≤ (s.reeve.spares.filter (fun x => x.array = a)).length ∧ ∀ x ∈ s.reeve.spares.filter (fun x => x.array = a), x.row ≠ 100)
    ∧ (let a := arrayNo .pool 7
       ((errState [] 0).reeve.spares.filter (fun x => x.array = a)).length < 8 ∧ 100 < spareRows ∧ 7 < 1024 ∧ 8 ≤ ((errState spares8 0).reeve.spares.filter (fun x => x.array = a)).length
       ∧ (∀ x ∈ (errState spares8 0).reeve.spares.filter (fun x => x.array = a), x.row ≠ 100) ∧ (errState spares8 0).quadLive (arrayQuad a) = true)
    ∧ (errState [] 0).crew? 0 = some crewS ∧ crewS.stop = none ∧ (errState [] 0x40).policy 0 16 = .debug ∧ (errState [] 0).policy 0 16 = .kill ∧ (errState [] 0).ctxOf crewS = 0
    ∧ (⟨3, 9, true⟩ : Spare) ∈ (errState [⟨3, 9, true⟩] 0).reeve.spares ∧ (∀ e ∈ (errState [] 0).reeve.queuedErrs, e.1 ≠ 3) := ⟨fun _ _ => rfl, by decide +kernel⟩
/-- A command runs, with its buffer in system memory (whose bytes read as 0: a header that names target 0 and SVN 0). -/
def cmdState (cmd arg : Nat) : State := { withRegs sBase [(reeveBlk + 8, 0x60000), (reeveBlk + 0xC, 0x80000), (reeveBlk + 0x10, 64)] with reeve := { Reeve.reset with busyCmd := some (cmd, arg), svn := [(0, 3)], kilnUpdate := true, log := [⟨0, 0, 1, 0, 0⟩] } }
theorem bufOk_system (s : State) (n : Nat) (h : bitAt s.reeveBuf 51 = true) : s.bufOk 0 n = true := by simp [State.bufOk, h]
/-- FIPS 202's example value of SHAKE256 for the empty message. -/
theorem test_shake256_empty : (shake256 []).take 8 = [0x46, 0xb9, 0xdd, 0x2b, 0x0b, 0xa8, 0x8d, 0x13] ∧ (shake256 []).length = 64 := by decide +kernel
theorem witness_FleetController_commands : (∀ c a, (cmdState c a).Settled ∧ (cmdState c a).reeve.busyCmd = some (c, a)) ∧ (∀ n, (cmdState 3 0).bufOk 0 n = true)
    ∧ (let h := ((cmdState 1 0).pread (cmdState 1 0).reeveBuf (cmdState 1 0).reeveLen).take 96
       leNat ((h.drop 8).take 4) < tget 0 (cmdState 1 0).reeve.svn (leNat ((h.drop 4).take 1)) ∧ tget 0 sBase.reeve.svn (leNat ((h.drop 4).take 1)) ≤ leNat ((h.drop 8).take 4))
    ∧ hdrOk (leBytes 4 0x46574C47 ++ leBytes 92 0) 1376 = true ∧ (cmdState 1 0).kilnIdle = true ∧ (cmdState 1 0).reeve.kilnUpdate = true
    ∧ (cmdState 2 7).quadLive 7 = true ∧ 7 ∉ (cmdState 2 7).reeve.retiring ∧ 1 + (cmdState 2 7).reeve.retiring.length < (cmdState 2 7).quadsLive ∧ (cmdState 2 48).quadLive 48 = false
    ∧ (cmdState 4 0).reeveLen % 65536 / 32 = 2 ∧ (cmdState 4 0).reeve.log.find? (fun x => x.num = 0 * 65536 + (cmdState 4 0).reeveLen / 65536 + 0) = some ⟨0, 0, 1, 0, 0⟩ :=
  ⟨fun _ _ => ⟨settled_like _ rfl rfl, rfl⟩, fun n => bufOk_system _ n (by decide), by decide +kernel⟩

/-! ### Witnesses: whole-machine statements -/

def addBase : State := State.reset.withFetchWord 32 0x020C4FFF
def sldiBase : State := State.reset.withFetchWord 64 0xFFFFFFFE22100000
def vaddBase : State := State.reset.withFetchWord 96 0x00781C0C1000080000000000
def goesOn (s : State) : Bool := match step s with | .next _ => true | _ => false

theorem goesOn_next {s : State} (h : goesOn s = true) : ∃ t, step s = .next t := by
  unfold goesOn at h
  split at h
  · exact ⟨_, ‹_›⟩
  · exact absurd h (by decide)

theorem witness_TablesStayInOrder : ∃ t, TablesOk addBase ∧ step addBase = .next t := by
  obtain ⟨t, ht⟩ := goesOn_next (s := addBase) (by decide)
  refine ⟨t, ⟨?_, ?_, ?_, ?_, ?_, ?_, ?_, ?_, ?_, graphOk_new rfl rfl⟩, ht⟩ <;>
    first | (unfold InOrder; decide) | (unfold RootsOk; decide) | (rw [show addBase.pools = [] from rfl]; simp)

theorem witness_MemoryStaysCanonical : ∃ t, Memory.wf addBase.mem = true ∧ step addBase = .next t := by
  obtain ⟨t, ht⟩ := goesOn_next (s := addBase) (by decide)
  exact ⟨t, by decide, ht⟩

def counted (s : State) : State := { s with oracle := s.oracle + 1 }
/-- The state in which a step's instruction is issued for crew 0: the oracle has been counted, and copies have moved. -/
def issuing (s : State) : State := { (counted s).drift with focus := 0 }
/-- The crew stands ready to issue from the stream, with these bytes there. -/
def issues (s : State) (st : Stream) (fetches : State → Crew → Bool) (i : Instr) : Bool :=
  match (issuing s).crew? 0 with
  | none => false
  | some c => decide (st = if ((counted s).drift.crew? s.focus).elim false Crew.lReady then Stream.l else .s) && c.ready st && (issuing s).mayIssue 0 st c
      && ((issuing s).stepping 0 st c || (issuing s).hasTurn 0 st c) && !(issuing s).breaksOn st c && fetches (issuing s) c
      && !(((issuing s).breakBit ((issuing s).coreOf c) ((issuing s).ctxOf c) st c.pc.toNat).1.setCrew 0 { c with ir := [] }).blocked c i

theorem witness_StepRunsDecoded_scalar : addBase.agenda = [] ∧ addBase.focus = 0
    ∧ issues addBase .s (fun s c => answers (s.fetch c c.pc.toNat 4) (leBytes 4 0x020C4FFF)) (.saddI ⟨false, 3, 4, 0xFFF⟩) = true
    ∧ answers (decodeSBytes (leBytes 4 0x020C4FFF)) (.saddI ⟨false, 3, 4, 0xFFF⟩, 4) = true
    ∧ ({ addBase with agenda := [.issueS 0] } : State).agenda.head? = some (match Stream.s with
        | .s => .issueS 0
        | .l => .issueL 0) := by decide +kernel

theorem witness_StepRunsDecoded_long : sldiBase.agenda = [] ∧ sldiBase.focus = 0
    ∧ issues sldiBase .s (fun s c => answers (s.fetch c c.pc.toNat 4) (leBytes 4 0x22100000) && answers (s.fetch c ((c.pc.toNat + 4) % 2 ^ 72) 4) (leBytes 4 0xFFFFFFFE))
      (.sldiSx ⟨false, 4, 0, 0, 0, 0xFFFFFFFE⟩) = true
    ∧ answers (decodeSBytes (leBytes 4 0x22100000 ++ leBytes 4 0xFFFFFFFE)) (.sldiSx ⟨false, 4, 0, 0, 0, 0xFFFFFFFE⟩, 8) = true := by decide +kernel

theorem witness_StepRunsDecoded_lane : vaddBase.agenda = [] ∧ vaddBase.focus = 0
    ∧ issues vaddBase .l (fun s c => answers (s.fetch c (s.lAddr c) 12) (leBytes 12 0x00781C0C1000080000000000)) (.nop ⟨true, 0⟩) = true
    ∧ answers (decodeLBytes (leBytes 12 0x00781C0C1000080000000000)) (.vadd ⟨false, 7, false, 7, 3, 4, 0, 0, 0, true, 0, 0, 0⟩) = true := by decide +kernel

theorem witness_StepRunsDecoded_event : ({ State.reset with agenda := [.event (.passGrant 3)] } : State).agenda = .event (.passGrant 3) :: [] ∧ encode (.passGrant 3) = none
    ∧ ({ State.reset with agenda := [.time 7 0 1] } : State).agenda.head? = some (.time 7 0 1) := by decide

theorem witness_EncodingsRoundTrip : (Instr.saddI ⟨false, 3, 4, 0xFFF⟩).wf = true ∧ encode (.saddI ⟨false, 3, 4, 0xFFF⟩) = some (32, 0x020C4FFF)
    ∧ (Instr.sldiSx ⟨false, 4, 0, 0, 0, 0xFFFFFFFE⟩).wf = true ∧ encode (.sldiSx ⟨false, 4, 0, 0, 0, 0xFFFFFFFE⟩) = some (64, 0xFFFFFFFE22100000)
    ∧ (Instr.vadd ⟨false, 7, true, 255, 255, 255, 255, 15, 3, true, 7, 255, 2 ^ 32 - 1⟩).wf = true
    ∧ (encode (.vadd ⟨false, 7, true, 255, 255, 255, 255, 15, 3, true, 7, 255, 2 ^ 32 - 1⟩)).isSome = true := by decide

end Sys2Proof.Tests
end

section
/-! The scalar unit's statements (14 R249 to R252): each meaning computes the value its row names, and `sAlu_writes` and `bAlu_writes`
say that writing this value is all that it does. -/

namespace Sys2Proof.Claims
open Sys2Proof.Machine

/-! ### Arithmetic: the model's numbers as operations on words -/

/-- The low bits of a number read as two's complement (R102). -/
theorem sgn_eq_toInt (w x : Nat) : sgn w x = (BitVec.ofNat w x).toInt := by
  rw [BitVec.toInt_eq_toNat_cond, BitVec.toNat_ofNat, sgn]
  cases w with
  | zero => simp [Nat.mod_one]
  | succ w =>
    rw [Nat.add_sub_cancel]
    have hsign : x % 2 ^ (w + 1) < 2 ^ w ↔ 2 * (x % 2 ^ (w + 1)) < 2 ^ (w + 1) := by rw [Nat.pow_succ]; omega
    by_cases h : x % 2 ^ (w + 1) < 2 ^ w
    · rw [if_pos h, if_pos (hsign.mp h)]
    · rw [if_neg h, if_neg (fun h2 => h (hsign.mpr h2))]

theorem ofInt_sgn (n w x : Nat) : BitVec.ofInt n (sgn w x) = (BitVec.ofNat w x).signExtend n := by
  rw [sgn_eq_toInt, BitVec.signExtend]

theorem simm_eq_signExtend (imm : Nat) : simm imm = (BitVec.ofNat 12 imm).signExtend 64 := ofInt_sgn 64 12 imm

/-- An effective address is a sum of words of 72 bits (R53). -/
theorem ofNat_ea (b : VA) (off : Int) : BitVec.ofNat 72 (ea b off) = b + BitVec.ofInt 72 off := by
  have hsum : BitVec.ofNat 72 (ea b off) = BitVec.ofInt 72 ((b.toNat : Int) + off) := by
    apply BitVec.eq_of_toNat_eq
    simp only [ea, wrap, BitVec.toNat_ofNat, BitVec.toNat_ofInt]
    omega
  rw [hsum, BitVec.ofInt_add, BitVec.ofInt_natCast, BitVec.ofNat_toNat, BitVec.setWidth_eq]

/-- A word put above another one. -/
theorem toNat_append_eq_add {m n : Nat} (x : BitVec m) (y : BitVec n) : (x ++ y).toNat = x.toNat * 2 ^ n + y.toNat := by
  rw [BitVec.toNat_append, ← Nat.shiftLeft_add_eq_or_of_lt y.isLt, Nat.shiftLeft_eq]

/-- The greater of two words in either order of comparison: they differ only where the words are equal. -/
theorem ite_lt_swap {α : Type} {f : α → Int} (hf : ∀ {x y : α}, f x = f y → x = y) (x y : α) :
    (if f x < f y then y else x) = if f y < f x then x else y := by
  by_cases hxy : f x < f y
  · rw [if_pos hxy, if_neg (Int.lt_asymm hxy)]
  · by_cases hyx : f y < f x
    · rw [if_neg hxy, if_pos hyx]
    · rw [if_neg hxy, if_neg hyx, hf (by omega : f x = f y)]

theorem ite_eq_false_swap {α : Type} (b : Bool) (x y : α) : (if b = false then x else y) = if b = true then y else x := by
  cases b <;> rfl

theorem divN_eq (x y : W64) : divN x y = if y = 0 then BitVec.allOnes 64 else x / y := by rw [divN, BitVec.udiv_def]

theorem remN_eq (x y : W64) : remN x y = if y = 0 then x else x % y := by rw [remN, BitVec.umod_def]

theorem minN_eq (x y : W64) : (if x.ult y then x else y) = if x < y then x else y := by simp only [BitVec.ult_iff_lt]

theorem maxI_eq (x y : W64) : (if x.slt y then y else x) = if y.slt x then x else y := by
  simpa only [BitVec.slt_iff_toInt_lt] using ite_lt_swap BitVec.eq_of_toInt_eq x y

theorem maxN_eq (x y : W64) : (if x.ult y then y else x) = if y < x then x else y := by
  simpa only [BitVec.ult_iff_lt, BitVec.lt_def, Int.ofNat_lt] using
    ite_lt_swap (f := fun z : W64 => (z.toNat : Int)) (fun h => BitVec.eq_of_toNat_eq (Int.ofNat_inj.mp h)) x y

/-! ### The rows of R249: each meaning is the scalar unit with its row's operation -/

theorem sAluR_congr {s : State} {a : SA} {f g : W64 → W64 → W64} (h : ∀ x y, f x y = g x y) : sAluR s a f = sAluR s a g := by
  rw [funext fun x => funext (h x)]

/-- The conditions and counts that func[1:0] can name (R249). -/
theorem mod_four_cases (n : Nat) : n % 4 = 0 ∨ n % 4 = 1 ∨ n % 4 = 2 ∨ n % 4 = 3 := by omega

theorem scalarOps_exec (a : SA) (s : State) : ∀ e ∈ scalarOps a, exec e.1 s = sAluR s a e.2 := by
  simp only [scalarOps, List.forall_mem_cons, List.not_mem_nil, false_imp_iff, implies_true, and_true]
  refine ⟨exec_saddR a s, exec_ssub a s, exec_smulR a s, exec_smulhI a s, exec_smulhN a s, exec_sdivI a s, ?divN, exec_sremI a s, ?remN,
    exec_sandR a s, exec_sorR a s, exec_sxorR a s, exec_sshlR a s, exec_sshrR a s, exec_ssraR a s, exec_sminI a s, ?minN, ?maxI, ?maxN⟩
  case divN => exact (exec_sdivN a s).trans (sAluR_congr divN_eq)
  case remN => exact (exec_sremN a s).trans (sAluR_congr remN_eq)
  case minN => exact (exec_sminN a s).trans (sAluR_congr minN_eq)
  case maxI => exact (exec_smaxI a s).trans (sAluR_congr maxI_eq)
  case maxN => exact (exec_smaxN a s).trans (sAluR_congr maxN_eq)

theorem scalarTests_exec (a : SA) (s : State) : ∀ e ∈ scalarTests a, exec e.1 s = sAluR s a e.2 := by
  simp only [scalarTests, List.forall_mem_cons, List.not_mem_nil, false_imp_iff, implies_true, and_true]
  refine ⟨?setI, ?setN, exec_sbit32 a s, exec_sbit64 a s⟩
  case setI =>
    exact (exec_ssetI a s).trans (sAluR_congr fun x y => by
      rcases mod_four_cases a.func with h | h | h | h <;> simp [ssetCond, h, ite_eq_false_swap])
  case setN =>
    exact (exec_ssetN a s).trans (sAluR_congr fun x y => by
      rcases mod_four_cases a.func with h | h | h | h <;> simp [ssetCond, h, ite_eq_false_swap, BitVec.ult_iff_lt])

theorem scalarImms_exec (a : SI) (s : State) : ∀ e ∈ scalarImms a, exec e.1 s = sAluI s a e.2 := by
  simp only [scalarImms, List.forall_mem_cons, List.not_mem_nil, false_imp_iff, implies_true, and_true]
  exact ⟨exec_saddI a s, exec_smulI a s, exec_sandI a s, exec_sorI a s, exec_sxorI a s, exec_sshlI a s, exec_sshrI a s, exec_ssraI a s⟩

theorem sAluR_writes {s : State} {c : Crew} {a : SA} (h : Focus s c) (hw : mayGo c a.w false = true) (op : W64 → W64 → W64) :
    WritesS s (waited s.oracle c a.w false) 4 a.sd
      (op ((waited s.oracle c a.w false).sRd s.oracle a.sa) ((waited s.oracle c a.w false).sRd s.oracle a.sb)) (sAluR s a op) :=
  sAlu_writes h hw a.sd 4 (fun o c => op (c.sRd o a.sa) (c.sRd o a.sb))

theorem sAluI_writes {s : State} {c : Crew} {a : SI} (h : Focus s c) (hw : mayGo c a.w false = true) (op : W64 → W64 → W64) :
    WritesS s (waited s.oracle c a.w false) 4 a.sd
      (op ((waited s.oracle c a.w false).sRd s.oracle a.sa) ((BitVec.ofNat 12 a.imm).signExtend 64)) (sAluI s a op) := by
  rw [← simm_eq_signExtend]
  exact sAlu_writes h hw a.sd 4 (fun o c => op (c.sRd o a.sa) (simm a.imm))

theorem scalarRegisterForms : ScalarRegisterForms := fun s _ a h hw e he => by
  rw [scalarOps_exec a s e he]
  exact sAluR_writes h hw e.2

theorem scalarTestsAndBitCounts : ScalarTestsAndBitCounts := fun s _ a h hw e he => by
  rw [scalarTests_exec a s e he]
  exact sAluR_writes h hw e.2

theorem scalarImmediateForms : ScalarImmediateForms := fun s _ a h hw e he => by
  rw [scalarImms_exec a s e he]
  exact sAluI_writes h hw e.2

/-! ### SLDI (R251) -/

theorem sldiLo_value {n : Nat} (h : n < 2 ^ 32) : BitVec.ofNat 64 n = (BitVec.ofNat 32 n).zeroExtend 64 := by
  apply BitVec.eq_of_toNat_eq
  simp only [BitVec.toNat_ofNat, BitVec.zeroExtend, BitVec.toNat_setWidth, Nat.mod_eq_of_lt h]

theorem sldiHi_value (n : Nat) (x : W64) :
    BitVec.ofNat 64 (x.toNat % 2 ^ 32 + n * 2 ^ 32) = BitVec.ofNat 32 n ++ x.extractLsb' 0 32 := by
  apply BitVec.eq_of_toNat_eq
  rw [toNat_append_eq_add]
  simp only [BitVec.toNat_ofNat, BitVec.extractLsb'_toNat, Nat.shiftRight_zero]
  omega

theorem imm_lt_of_wf {a : SX} (h : a.wf = true) : a.imm < 2 ^ 32 := by
  simp only [SX.wf, below, Bool.and_eq_true, decide_eq_true_eq] at h
  exact h.2

theorem scalarLoadImmediate : ScalarLoadImmediate := by
  intro s c a h hwf hw c1
  refine ⟨?lo, ?hi, ?sx⟩
  case lo =>
    rw [exec_sldiLo, ← sldiLo_value (imm_lt_of_wf hwf)]
    exact sAlu_writes h hw a.sd 8 _
  case hi =>
    rw [exec_sldiHi, ← sldiHi_value]
    exact sAlu_writes h hw a.sd 8 (fun o c => BitVec.ofNat 64 ((c.sRd o a.sd).toNat % 2 ^ 32 + a.imm * 2 ^ 32))
  case sx =>
    rw [exec_sldiSx, ← ofInt_sgn]
    exact sAlu_writes h hw a.sd 8 _

/-- Settles O37: every row writes its value through `sAlu_writes`. -/
theorem scalarForms : Obligations.ScalarForms :=
  ⟨scalarRegisterForms, scalarTestsAndBitCounts, scalarImmediateForms, scalarLoadImmediate⟩

/-! ### Base registers (R252) -/

theorem bsetHi_value (b : VA) (x : W64) :
    BitVec.ofNat 72 (b.toNat % 2 ^ 64 + x.toNat % 256 * 2 ^ 64) = x.extractLsb' 0 8 ++ b.extractLsb' 0 64 := by
  apply BitVec.eq_of_toNat_eq
  rw [toNat_append_eq_add]
  simp only [BitVec.toNat_ofNat, BitVec.extractLsb'_toNat, Nat.shiftRight_zero]
  omega

theorem bgetLo_value (b : VA) : BitVec.ofNat 64 b.toNat = b.extractLsb' 0 64 := by
  apply BitVec.eq_of_toNat_eq
  simp only [BitVec.toNat_ofNat, BitVec.extractLsb'_toNat, Nat.shiftRight_zero]

theorem bgetHi_value (b : VA) : BitVec.ofNat 64 (b.toNat / 2 ^ 64) = (b.extractLsb' 64 8).zeroExtend 64 := by
  apply BitVec.eq_of_toNat_eq
  simp only [BitVec.toNat_ofNat, BitVec.zeroExtend, BitVec.toNat_setWidth, BitVec.extractLsb'_toNat, Nat.shiftRight_eq_div_pow]
  omega

/-- Settles O1: every form writes its value through `bAlu_writes` or `sAlu_writes`. -/
theorem baseRegisterForms : Obligations.BaseRegisterForms := by
  intro s c a k h hw hk c1
  have hwk : mayGo c k.w false = true := by rwa [hk]
  refine ⟨?addR, ?addI, ?setLo, ?setHi, ?mov, ?getLo, ?getHi⟩
  case addR =>
    rw [exec_baddR, BitVec.signExtend, ← ofNat_ea]
    exact bAlu_writes h hw a.sd (fun o c => BitVec.ofNat 72 (ea (c.bRd (a.sa % 16)) (soff (c.sRd o a.sb))))
  case addI =>
    rw [exec_baddI, ← ofInt_sgn, ← ofNat_ea]
    rw [show c1 = waited s.oracle c k.w false by rw [hk]]
    exact bAlu_writes h hwk k.sd (fun _ c => BitVec.ofNat 72 (ea (c.bRd (k.sa % 16)) (sgn 12 k.imm)))
  case setLo =>
    rw [exec_bsetLo, BitVec.zeroExtend, ← BitVec.ofNat_toNat]
    exact bAlu_writes h hw a.sd (fun o c => BitVec.ofNat 72 (c.sRd o a.sa).toNat)
  case setHi =>
    rw [exec_bsetHi, ← bsetHi_value]
    exact bAlu_writes h hw a.sd (fun o c => BitVec.ofNat 72 ((c.bRd (a.sd % 16)).toNat % 2 ^ 64 + (c.sRd o a.sa).toNat % 256 * 2 ^ 64))
  case mov => exact bAlu_writes h hw a.sd (fun _ c => c.bRd (a.sa % 16))
  case getLo =>
    rw [exec_bgetLo, ← bgetLo_value]
    exact sAlu_writes h hw a.sd 4 (fun _ c => BitVec.ofNat 64 (c.bRd (a.sa % 16)).toNat)
  case getHi =>
    rw [exec_bgetHi, ← bgetHi_value]
    exact sAlu_writes h hw a.sd 4 (fun _ c => BitVec.ofNat 64 ((c.bRd (a.sa % 16)).toNat / 2 ^ 64))

end Sys2Proof.Claims
end

section
/-! What L-words do to their crew (15 R271 to R273; 18 R343): which fields an effect may touch, what a lane result, a predicate result and
a result on its way leave behind, and how the word ends. -/

namespace Sys2Proof.Claims
open Sys2Proof.Machine

/-! ### Lanes and masks -/

theorem mem_lanesOf {m : W32} {l : Nat} : l ∈ lanesOf m ↔ m.getLsbD l = true := by
  simp only [lanesOf, List.mem_filter, List.mem_range, and_iff_right_iff_imp]
  exact BitVec.lt_of_getLsbD

/-- The number that has the bits of f among its n lowest. -/
theorem testBit_sum_pow (f : Nat → Bool) (n : Nat) :
    (List.range n).foldl (fun a l => if f l then a + 2 ^ l else a) 0 < 2 ^ n
    ∧ ∀ l < n, ((List.range n).foldl (fun a l => if f l then a + 2 ^ l else a) 0).testBit l = f l := by
  induction n with
  | zero => simp
  | succ n ih =>
    simp only [List.range_succ, List.foldl_append, List.foldl_cons, List.foldl_nil]
    generalize (List.range n).foldl _ 0 = a at ih ⊢
    obtain ⟨hlt, hbits⟩ := ih
    have htop : a.testBit n = false := Nat.testBit_lt_two_pow hlt
    split
    · next hf =>
      rw [Nat.add_comm]
      refine ⟨by rw [Nat.pow_succ]; omega, fun l hl => ?_⟩
      rcases Nat.lt_succ_iff_lt_or_eq.mp hl with h | rfl
      · rw [Nat.testBit_two_pow_add_gt h, hbits l h]
      · rw [Nat.testBit_two_pow_add_eq, htop, hf]; rfl
    · next hf =>
      refine ⟨by rw [Nat.pow_succ]; omega, fun l hl => ?_⟩
      rcases Nat.lt_succ_iff_lt_or_eq.mp hl with h | rfl
      · exact hbits l h
      · rw [htop]; simpa using hf

theorem getLsbD_maskOf (f : Nat → Bool) {l : Nat} (h : l < 32) : (maskOf f).getLsbD l = f l := by
  obtain ⟨-, hbits⟩ := testBit_sum_pow f 32
  rw [maskOf, BitVec.getLsbD_ofNat, hbits l h]
  simp [h]

/-! ### What an effect may touch of its crew -/

/-- The crews differ at most in lane registers, predicates and pending writes. -/
def LaneFrame (c c' : Crew) : Prop := ∃ v p q n, c' = { c with v := v, p := p, pend := q, nextPid := n }

theorem LaneFrame.refl (c : Crew) : LaneFrame c c := ⟨c.v, c.p, c.pend, c.nextPid, rfl⟩

theorem LaneFrame.trans {a b c : Crew} (hab : LaneFrame a b) (hbc : LaneFrame b c) : LaneFrame a c := by
  obtain ⟨_, _, _, _, rfl⟩ := hab
  obtain ⟨_, _, _, _, rfl⟩ := hbc
  exact ⟨_, _, _, _, rfl⟩

theorem laneFrame_addPend (c : Crew) (st : Stream) (vs : Tbl W32) (ps : Tbl Bool) (ss : Tbl W64) (ready poison : Bool) (pos : Pos) :
    LaneFrame c (c.addPend st vs ps ss ready poison pos) := ⟨_, _, _, _, rfl⟩

/-- Writing predicates changes the predicates, and contests pending writes to them (R345). -/
theorem pWr_eq (c : Crew) (n : Nat) (lanes : W32) (x : Nat → Bool) : ∃ p q, c.pWr n lanes x = { c with p := p, pend := q } := by
  unfold Crew.pWr
  split
  · exact ⟨c.p, c.pend, rfl⟩
  · exact ⟨_, _, rfl⟩

theorem laneFrame_pWr (c : Crew) (n : Nat) (lanes : W32) (x : Nat → Bool) : LaneFrame c (c.pWr n lanes x) := by
  obtain ⟨p, q, h⟩ := pWr_eq c n lanes x
  exact ⟨_, p, q, _, h⟩

@[simp] theorem pWr_v (c : Crew) (n : Nat) (lanes : W32) (x : Nat → Bool) : (c.pWr n lanes x).v = c.v := by
  obtain ⟨p, q, h⟩ := pWr_eq c n lanes x
  rw [h]

/-- Writing lane registers changes the lane registers, and contests pending writes to them (R345). -/
theorem laneWrite_eq (c : Crew) (act : W32) (n vd : Nat) (val : Nat → Nat) : ∃ v q, laneWrite c act n vd val = { c with v := v, pend := q } := by
  refine List.foldlRecOn (motive := fun c' : Crew => ∃ v q, c' = { c with v := v, pend := q }) _ _ ⟨c.v, c.pend, rfl⟩ fun c1 h1 l _ => ?_
  refine List.foldlRecOn (motive := fun c' : Crew => ∃ v q, c' = { c with v := v, pend := q }) _ _ h1 fun c2 h2 i _ => ?_
  obtain ⟨_, _, rfl⟩ := h2
  exact ⟨_, _, rfl⟩

theorem laneFrame_laneWrite (c : Crew) (act : W32) (n vd : Nat) (val : Nat → Nat) : LaneFrame c (laneWrite c act n vd val) := by
  obtain ⟨v, q, h⟩ := laneWrite_eq c act n vd val
  exact ⟨v, _, q, _, h⟩

@[simp] theorem laneWrite_p (c : Crew) (act : W32) (n vd : Nat) (val : Nat → Nat) : (laneWrite c act n vd val).p = c.p := by
  obtain ⟨v, q, h⟩ := laneWrite_eq c act n vd val
  rw [h]

/-! ### Lane registers after a lane result (R271) -/

theorem vWrN_succ (c : Crew) (n r l x : Nat) :
    c.vWrN (n + 1) r l x = (c.vWrN n r l x).vWr (r + n) l (BitVec.ofNat 32 (x / 2 ^ (32 * n))) := by
  simp only [Crew.vWrN, List.range_succ, List.foldl_append, List.foldl_cons, List.foldl_nil]

theorem tget_vWr (c : Crew) (r l k : Nat) (x : W32) : tget 0 (c.vWr r l x).v k = if k = 32 * r + l then x else tget 0 c.v k :=
  tget_tset 0 c.v (32 * r + l) k x

theorem tget_vWrN_other (c : Crew) {n r l k : Nat} (x : Nat) (h : ∀ i < n, k ≠ 32 * (r + i) + l) : tget 0 (c.vWrN n r l x).v k = tget 0 c.v k := by
  induction n with
  | zero => rfl
  | succ n ih => rw [vWrN_succ, tget_vWr, if_neg (h n n.lt_succ_self), ih fun i hi => h i (Nat.lt_succ_of_lt hi)]

theorem tget_vWrN_same (c : Crew) {n r l i : Nat} (x : Nat) (h : i < n) :
    tget 0 (c.vWrN n r l x).v (32 * (r + i) + l) = BitVec.ofNat 32 (x / 2 ^ (32 * i)) := by
  induction n with
  | zero => omega
  | succ n ih =>
    rw [vWrN_succ, tget_vWr]
    rcases Nat.lt_succ_iff_lt_or_eq.mp h with hi | rfl
    · rw [if_neg (by omega), ih hi]
    · rw [if_pos rfl]

theorem tget_vWrNs_other {n vd k : Nat} (val : Nat → Nat) : ∀ (ls : List Nat) (c : Crew), (∀ l ∈ ls, ∀ i < n, k ≠ 32 * (vd + i) + l) →
    tget 0 (ls.foldl (fun c l => c.vWrN n vd l (val l)) c).v k = tget 0 c.v k
  | [], _, _ => rfl
  | l :: ls, c, h => by
    rw [List.foldl_cons, tget_vWrNs_other val ls _ fun j hj => h j (List.mem_cons_of_mem l hj), tget_vWrN_other c (val l) (h l List.mem_cons_self)]

/-- Lanes have registers of their own, so the order in which a result reaches them does not show. -/
theorem tget_vWrNs_same {n vd l i : Nat} (val : Nat → Nat) (hi : i < n) (hl : l < 32) (ls : List Nat) (c : Crew) (hls : ∀ j ∈ ls, j < 32)
    (hmem : l ∈ ls) :
    tget 0 (ls.foldl (fun c l => c.vWrN n vd l (val l)) c).v (32 * (vd + i) + l) = BitVec.ofNat 32 (val l / 2 ^ (32 * i)) := by
  induction ls generalizing c with
  | nil => simp at hmem
  | cons j ls ih =>
    have htail : ∀ k ∈ ls, k < 32 := fun k hk => hls k (List.mem_cons_of_mem j hk)
    rw [List.foldl_cons]
    by_cases hin : l ∈ ls
    · exact ih _ htail hin
    · have hj : l = j := (List.mem_cons.mp hmem).resolve_right hin
      subst hj
      have hapart : ∀ k ∈ ls, ∀ m < n, 32 * (vd + i) + l ≠ 32 * (vd + m) + k := by
        intro k hk m _ heq
        have hlane : k = l := by have := htail k hk; omega
        exact hin (hlane ▸ hk)
      rw [tget_vWrNs_other val ls _ hapart, tget_vWrN_same c (val l) hi]

theorem setsLanes_laneWrite (c : Crew) (act : W32) (n vd : Nat) (val : Nat → Nat) : SetsLanes c (laneWrite c act n vd val) act n vd val where
  value _ hl hact _ hi := tget_vWrNs_same val hi hl (lanesOf act) c (fun _ hj => BitVec.lt_of_getLsbD (mem_lanesOf.mp hj)) (mem_lanesOf.mpr hact)
  others _ hk := tget_vWrNs_other val (lanesOf act) c fun l hl =>
    hk l (BitVec.lt_of_getLsbD (mem_lanesOf.mp hl)) (mem_lanesOf.mp hl)
  p := laneWrite_p c act n vd val

/-! ### Predicates after a predicate result (R25) -/

theorem setsPred_pWr (c : Crew) (act : W32) (pd : Nat) (val : Nat → Bool) : SetsPred c (c.pWr pd act val) act pd val := by
  by_cases h7 : pd = 7
  · have hkeeps : c.pWr pd act val = c := if_pos h7
    rw [hkeeps]
    exact ⟨absurd h7, fun _ _ _ => rfl, rfl, fun _ _ => rfl⟩
  · have hp : (c.pWr pd act val).p = tset c.p pd ((tget 0 c.p pd &&& ~~~act) ||| (maskOf val &&& act)) := by rw [Crew.pWr, if_neg h7]
    refine ⟨fun _ l hl hact => ?_, fun l hl hact => ?_, ?_, fun q hq => ?_⟩
    · simp only [hp, tget_tset, if_true, BitVec.getLsbD_or, BitVec.getLsbD_and, BitVec.getLsbD_not, hact, getLsbD_maskOf val hl]
      simp
    · simp only [hp, tget_tset, if_true, BitVec.getLsbD_or, BitVec.getLsbD_and, BitVec.getLsbD_not, hact]
      simp [hl]
    · rw [hp, tget_tset, if_neg (Ne.symm h7)]
    · rw [hp, tget_tset, if_neg hq]

theorem SetsPred.of_p_eq {c c' d d' : Crew} {act : W32} {pd : Nat} {val : Nat → Bool} (h : SetsPred c c' act pd val) (hc : d.p = c.p)
    (hc' : d'.p = c'.p) : SetsPred d d' act pd val := by
  obtain ⟨hvalue, hlanes, hseven, hothers⟩ := h
  rw [← hc, ← hc'] at *
  exact ⟨hvalue, hlanes, hseven, hothers⟩

/-! ### The end of an L-word -/

theorem mark_runs (o : Nat) (c : Crew) (st : Stream) : (c.mark o st).runs = c.runs :=
  List.foldlRecOn (motive := fun c' : Crew => c'.runs = c.runs) _ _ rfl fun _ h _ _ => h

theorem waitedL_runs (o : Nat) (c : Crew) (f : LF) : (waitedL o c f).runs = c.runs := by
  unfold waitedL
  split
  · exact mark_runs o c .l
  · rfl

theorem seenL_focus (s : State) (c : Crew) (f : LF) : (seenL s c f).focus = s.focus := by
  obtain ⟨v, hv⟩ := seenL_eq s c f
  rw [hv]; rfl

theorem seenL_oracle (s : State) (c : Crew) (f : LF) : (seenL s c f).oracle = s.oracle := by
  obtain ⟨v, hv⟩ := seenL_eq s c f
  rw [hv]; rfl

/-- Where a path stands and which lanes it has. -/
def pathPlace (e : Entry) : VA × W32 := (e.pc, e.mask)

theorem pc_eq_place (c : Crew) : c.pc = (c.runPath.map pathPlace).elim 0 Prod.fst := by
  unfold Crew.pc; cases c.runPath <;> rfl

theorem active_eq_place (c : Crew) : c.active = (c.runPath.map pathPlace).elim 0 Prod.snd := by
  unfold Crew.active; cases c.runPath <;> rfl

/-- A change of the running path that leaves it running where it stands. -/
theorem place_mapRun {g : Entry → List Entry} (hg : ∀ e, e.running = true → ∃ e', g e = [e'] ∧ e'.running = true ∧ pathPlace e' = pathPlace e) :
    ∀ st : List Entry, ((mapRun g st).find? Entry.running).map pathPlace = (st.find? Entry.running).map pathPlace
  | [] => rfl
  | e :: st => by
    by_cases h : e.running = true
    · obtain ⟨e', he', hrun, hplace⟩ := hg e h
      simp [mapRun, h, he', hrun, hplace]
    · simp [mapRun, h, place_mapRun hg st]

theorem agePath_place (c : Crew) (mask : W32) : (c.agePath mask).runPath.map pathPlace = c.runPath.map pathPlace := by
  refine place_mapRun (fun e he => ?_) c.stack
  cases e with
  | path pc m l a p => exact ⟨_, rfl, by cases p <;> exact he, rfl⟩
  | join i x m n l => simp [Entry.running] at he

theorem agePath_pc (c : Crew) (mask : W32) : (c.agePath mask).pc = c.pc := by rw [pc_eq_place, agePath_place, ← pc_eq_place]

theorem agePath_active (c : Crew) (mask : W32) : (c.agePath mask).active = c.active := by
  rw [active_eq_place, agePath_place, ← active_eq_place]

@[simp] theorem wordDone_v (c : Crew) : c.wordDone.v = c.v := by unfold Crew.wordDone; split <;> rfl
@[simp] theorem wordDone_p (c : Crew) : c.wordDone.p = c.p := by unfold Crew.wordDone; split <;> rfl
@[simp] theorem wordDone_pend (c : Crew) : c.wordDone.pend = c.pend := by unfold Crew.wordDone; split <;> rfl

theorem wordIssued_wordDone {c c' : Crew} {r : LRun} {rs : List LRun} (hr : c.runs = r :: rs) (h : LaneFrame c c') : WordIssued c c'.wordDone r rs := by
  obtain ⟨v, p, q, n, rfl⟩ := h
  simp only [Crew.wordDone, hr]
  exact ⟨rfl, agePath_pc c r.mask, agePath_active c r.mask, rfl, rfl, rfl, rfl, rfl, rfl⟩

theorem modCrew_setCrew (s : State) (k : Nat) (c : Crew) (g : Crew → Crew) : (s.setCrew k c).modCrew k g = s.setCrew k (g c) := by
  simp [State.modCrew, State.setCrew, tmod]

/-- A lane form with defined fields and registers that exist, whose effect changes lane state alone: the word issues with that change. -/
theorem laneForm_ends {s : State} {c c' : Crew} {r : LRun} {rs : List LRun} {f : LF} {ok : Bool} {regs : List RBlk}
    {body : State → Crew → LRun → W32 → Eff} (h : FocusL s c r rs f) (hok : ok = true) (hregs : regsOk (seenL s c f) (waitedL s.oracle c f) regs = true)
    (hbody : body (seenL s c f) (waitedL s.oracle c f) r (activeL s c r f) = lDone (seenL s c f) c') (hframe : LaneFrame (waitedL s.oracle c f) c') :
    ∃ t, laneForm s f ok regs body = .next t ∧ OnlyCrew s t c'.wordDone ∧ WordIssued (waitedL s.oracle c f) c'.wordDone r rs := by
  have hchecks : firstFail [(ok, Trap.illegal), (regsOk (seenL s c f) (waitedL s.oracle c f) regs, Trap.illegal)] = none := by
    simp [firstFail, hok, hregs]
  obtain ⟨v, hv⟩ := seenL_eq s c f
  have hend : ((seenL s c f).setCrew (seenL s c f).focus c').modCrew s.focus Crew.wordDone = { s.setCrew s.focus c'.wordDone with evs := v } := by
    rw [seenL_focus, modCrew_setCrew, hv]
    simp [State.setCrew]
  obtain ⟨k, hk⟩ := countWord_eq { s.setCrew s.focus c'.wordDone with evs := v } s c 2
  refine ⟨_, (runL_done h.crew h.runs h.waits hchecks hbody).trans ?_, ⟨k, v, s.joins, rfl⟩, wordIssued_wordDone ((waitedL_runs s.oracle c f).trans h.runs) hframe⟩
  rw [hend, hk]
  exact fin_clean _ h.clean

/-- A fixed-latency result: every active lane gets its value and nothing else changes. -/
theorem laneFixed_writes {s : State} {c : Crew} {r : LRun} {rs : List LRun} {f : LF} {ok : Bool} {regs : List RBlk} (n : Nat)
    (val : State → Crew → LRun → Nat → Nat) (h : FocusL s c r rs f) (hok : ok = true) (hregs : regsOk (seenL s c f) (waitedL s.oracle c f) regs = true) :
    WritesLanes s c r rs f n (val (seenL s c f) (waitedL s.oracle c f) r) (laneFixed s f ok regs n val) := by
  obtain ⟨t, ht, honly, hissued⟩ := laneForm_ends (body := fun s c r act => lDone s (laneWrite c act n f.vd (val s c r))) h hok hregs rfl
    (laneFrame_laneWrite _ _ _ _ _)
  obtain ⟨hvalue, hothers, -⟩ := setsLanes_laneWrite (waitedL s.oracle c f) (activeL s c r f) n f.vd (val (seenL s c f) (waitedL s.oracle c f) r)
  exact ⟨t, _, ht, honly, hissued, by simpa using hvalue, by simpa using hothers, by simp⟩

/-- A long-latency result with a free table entry: its destinations are one pending write (R343). -/
theorem longDone_awaits {s : State} {c : Crew} {r : LRun} {rs : List LRun} {f : LF} {ok : Bool} {regs : List RBlk}
    (vs : State → Crew → LRun → W32 → Tbl W32) (ps : State → Crew → LRun → W32 → Tbl Bool) (poison : Bool) (h : FocusL s c r rs f)
    (hfree : (waitedL s.oracle c f).tableFull .l = false) (hok : ok = true) (hregs : regsOk (seenL s c f) (waitedL s.oracle c f) regs = true) :
    AwaitsResult s c r rs f (vs (seenL s c f) (waitedL s.oracle c f) r (activeL s c r f)) (ps (seenL s c f) (waitedL s.oracle c f) r (activeL s c r f)) poison
      (laneForm s f ok regs (fun s c r act => longDone s c act (vs s c r act) (ps s c r act) poison)) := by
  by_cases hact : activeL s c r f = 0
  · obtain ⟨t, ht, honly, hissued⟩ := laneForm_ends (c' := waitedL s.oracle c f)
      (body := fun s c r act => longDone s c act (vs s c r act) (ps s c r act) poison) h hok hregs (by simp [longDone, hfree, hact]) (LaneFrame.refl _)
    exact ⟨t, _, ht, honly, hissued, by simp [hact]⟩
  · obtain ⟨t, ht, honly, hissued⟩ := laneForm_ends
      (body := fun s c r act => longDone s c act (vs s c r act) (ps s c r act) poison) h hok hregs (by simp only [longDone, hfree, hact]; rfl)
      (laneFrame_addPend _ _ _ _ _ _ _ _)
    refine ⟨t, _, ht, honly, hissued, ?_⟩
    rw [if_neg hact]
    exact ⟨wordDone_v _, wordDone_p _, _, wordDone_pend _, rfl, rfl, Bool.true_and _, rfl, rfl, rfl, rfl⟩

end Sys2Proof.Claims
end

section
/-! The statements on lane arithmetic (15 R277 to R303): each meaning is a fixed-latency, a long-latency or a predicate result with the
fields, registers and value of its row, and the lemmas on these three results say what it leaves. -/

namespace Sys2Proof.Claims
open Sys2Proof.Machine

/-! ### Fixed latency -/

/-- The form's meaning is the fixed-latency result of its row. -/
def FixedForm (f : LF) (e : LaneForm) : Prop := ∀ s, exec e.instr s = laneFixed s f e.ok e.regs e.n e.val

theorem formsComplete_of_fixed {forms : LF → List LaneForm} (hforms : ∀ f, ∀ e ∈ forms f, FixedForm f e) : FormsComplete forms := by
  intro s c r rs f h e he hok hregs
  rw [hforms f e he s]
  exact laneFixed_writes e.n e.val h hok hregs

/-- An element-wise form of fixed latency, whose operation agrees with its row's on integers and on floats. -/
theorem elementForm_fixed {i : Instr} {f : LF} {types : List Nat} {fz m useB useC : Bool} {op : EKind → Nat → Nat → Nat → Nat}
    {op' : LF → EKind → Nat → Nat → Nat → Nat} (hexec : ∀ s, exec i s = ewForm s f types fz m useB useC false op')
    (hint : ∀ sg w a b c, op' f (.int sg w) a b c = op (.int sg w) a b c := by intros; rfl)
    (hflt : ∀ fm a b c, op' f (.flt fm) a b c = op (.flt fm) a b c := by intros; rfl) :
    FixedForm f (elementForm i f types fz m useB useC op) := by
  have hop : op' f = op := by
    funext k
    cases k with
    | int sg w => funext a b c; exact hint sg w a b c
    | flt fm => funext a b c; exact hflt fm a b c
  exact fun s => (hexec s).trans (by rw [← hop]; rfl)

/-- A fixed-latency form whose value is its row's. -/
theorem fixedForm_of_val {f : LF} {e : LaneForm} {val : State → Crew → LRun → Nat → Nat} (hexec : ∀ s, exec e.instr s = laneFixed s f e.ok e.regs e.n val)
    (hval : ∀ s c r l, val s c r l = e.val s c r l) : FixedForm f e := by
  have heq : val = e.val := by funext s c r l; exact hval s c r l
  intro s
  rw [hexec s, heq]

theorem signed_not_neg (fm : Fmt) (x m : Nat) : fm.signed (!fm.neg x) m = if fm.neg x then m else m + 2 ^ (fm.eb + fm.fb) := by
  cases hneg : fm.neg x <;> simp [Fmt.signed, Fmt.signBit, Nat.add_comm]

theorem laneArithmetic_fixed (f : LF) : ∀ e ∈ laneArithmetic f, FixedForm f e := by
  simp only [laneArithmetic, List.forall_mem_cons, List.not_mem_nil, false_imp_iff, implies_true, and_true]
  exact ⟨elementForm_fixed (exec_vadd f), elementForm_fixed (exec_vsub f), elementForm_fixed (exec_vmul f), elementForm_fixed (exec_vmulh f),
    elementForm_fixed (exec_vfma .fma f), elementForm_fixed (exec_vfma .fms f), elementForm_fixed (exec_vfma .fnma f),
    elementForm_fixed (exec_vfma .fnms f), elementForm_fixed (exec_vmin .num f), elementForm_fixed (exec_vmin .prop f),
    elementForm_fixed (exec_vmax .num f), elementForm_fixed (exec_vmax .prop f), elementForm_fixed (exec_vclamp f),
    elementForm_fixed (exec_vmed3 f), elementForm_fixed (exec_vabs f),
    elementForm_fixed (exec_vneg f) (hflt := fun fm a _ _ => signed_not_neg fm a (fm.mag a)),
    elementForm_fixed (exec_vlerp f), elementForm_fixed (exec_vfrc f), elementForm_fixed (exec_vrnd f)⟩

theorem laneMixed_fixed (f : LF) : ∀ e ∈ laneMixed f, FixedForm f e := by
  simp only [laneMixed, List.forall_mem_cons, List.not_mem_nil, false_imp_iff, implies_true, and_true]
  refine ⟨fixedForm_of_val (exec_vmulw f) fun s c r l => ?wide, exec_vdot .acc f, fun s => ?dot, exec_vsel f, exec_vsad f,
    fixedForm_of_val (exec_vldexp f) fun s c r l => ?scale⟩
  case wide => cases tyKind f.ty <;> rfl
  case dot => simp [exec_vdot, execVdot]
  case scale => cases tyKind f.ty <;> rfl

theorem laneBits_fixed (f : LF) : ∀ e ∈ laneBits f, FixedForm f e := by
  simp only [laneBits, List.forall_mem_cons, List.not_mem_nil, false_imp_iff, implies_true, and_true]
  exact ⟨exec_vand f, exec_vor f, exec_vxor f, exec_vnot f, exec_vshl f, exec_vshr f, exec_vsra f, exec_vpopc f, exec_vclz .zero f, exec_vclz .sign f,
    exec_vbrev f, exec_vlop3 f, exec_vprmt f, exec_vbfe f, exec_vbfi f, exec_vmov f, exec_vmovi f, exec_vmovs f, exec_vpmov .tov f⟩

/-- Which operand an element is converted from may be chosen before or after the conversion. -/
theorem convert_elemAt_ite {p : Prop} [Decidable p] (w x y i j : Nat) (src dst : EKind) (m : RMode) (sat : Bool) :
    convert (elemAt w (if p then x else y) (if p then i else j)) src dst m sat
      = if p then convert (elemAt w x i) src dst m sat else convert (elemAt w y j) src dst m sat := by
  split <;> rfl

theorem laneConversions_fixed (src : SrcType) (f : LF) : ∀ e ∈ laneConversions f src, FixedForm f e := by
  simp only [laneConversions, List.forall_mem_cons, List.not_mem_nil, false_imp_iff, implies_true, and_true]
  refine ⟨exec_vcvt src f, fixedForm_of_val (exec_vpack .lo f) fun s c r l => ?lo, fixedForm_of_val (exec_vpack .hi f) fun s c r l => ?hi,
    exec_vunpk .lo f, exec_vunpk .hi f, exec_vbqnt f, exec_vbscl f⟩
  case lo => simp only [convert_elemAt_ite, reduceCtorEq, if_false]
  case hi => simp only [convert_elemAt_ite, if_true]

theorem laneArithmeticForms : LaneArithmeticForms := formsComplete_of_fixed laneArithmetic_fixed

theorem laneMixedForms : LaneMixedForms := formsComplete_of_fixed laneMixed_fixed

theorem laneBitForms : LaneBitForms := formsComplete_of_fixed laneBits_fixed

theorem laneConversionForms : LaneConversionForms := fun src => formsComplete_of_fixed (laneConversions_fixed src)

/-- Settles O41: every row is a fixed-latency result, and `laneFixed_writes` says what such a result leaves. -/
theorem laneFixedForms : Obligations.LaneFixedForms := ⟨laneArithmeticForms, laneMixedForms, laneBitForms, laneConversionForms⟩

/-! ### Cross-lane forms -/

/-- The form's meaning is the long-latency result of its row. -/
def CrossMeaning (f : LF) (e : CrossForm) : Prop :=
  ∀ s, exec e.instr s = laneForm s f e.ok e.regs (fun s c r act => longDone s c act (e.vs s c r act) (e.ps s c r act) false)

theorem crossForms_meaning (f : LF) (w : ShfWidth) (op : RedOp) : ∀ e ∈ crossForms f w op, CrossMeaning f e := by
  simp only [crossForms, List.forall_mem_cons, List.not_mem_nil, false_imp_iff, implies_true, and_true]
  exact ⟨exec_vshfl w f, exec_vshfu w f, exec_vshfd w f, exec_vshfx w f, exec_vvote .all f, exec_vvote .any f, exec_vvote .uni f, exec_vbal f,
    exec_vred op f, exec_vscanInc op f, exec_vscanExc op f, exec_vmatch f⟩

/-- Settles O15: every row is a long-latency result, and `longDone_awaits` says what such a result leaves. -/
theorem crossLaneForms : Obligations.CrossLaneForms := by
  intro s c r rs f w op h hfree e he hok hregs
  rw [crossForms_meaning f w op e he s]
  exact longDone_awaits e.vs e.ps false h hfree hok hregs

/-! ### Predicate forms -/

/-- A comparison's or classification's predicates: element 0, then element 1 of a packed type (R284). -/
theorem predPair_sets (c : Crew) (f : LF) (act : W32) (val : Nat → Nat → Bool) :
    LaneFrame c (predPair c f act val) ∧ (predPair c f act val).v = c.v ∧ ∃ c2, SetsPred c c2 act (f.sub % 8) (val 0)
      ∧ if tyCount f.ty = 2 then SetsPred c2 (predPair c f act val) act (bits f.sub 5 3) (val 1) else (predPair c f act val).p = c2.p := by
  have hfirst := setsPred_pWr c act (f.sub % 8) (val 0)
  have hframe := laneFrame_pWr c (f.sub % 8) act (val 0)
  unfold predPair
  split
  · exact ⟨hframe.trans (laneFrame_pWr _ _ _ _), by simp, _, hfirst, setsPred_pWr _ _ _ _⟩
  · exact ⟨hframe, by simp, _, hfirst, rfl⟩

/-- The form's meaning is to write its row's predicates. -/
def TestMeaning (f : LF) (e : Instr × Bool × List RBlk × (State → Crew → LRun → Nat → Nat → Bool)) : Prop :=
  ∀ s, exec e.1 s = laneForm s f e.2.1 e.2.2.1 (fun s c r act => lDone s (predPair c f act (e.2.2.2 s c r)))

theorem testForms_meaning (f : LF) (k : CmpVar) : ∀ e ∈ testForms f k, TestMeaning f e := by
  simp only [testForms, List.forall_mem_cons, List.not_mem_nil, false_imp_iff, implies_true, and_true]
  refine ⟨exec_vcmp k f, fun s => (exec_vclass f s).trans ?_⟩
  unfold execVclass
  cases tyKind f.ty <;> rfl

/-- The n lowest predicates written one after another, each with its own value. -/
def pWrs (c : Crew) (act : W32) (x : Nat → Nat → Bool) (n : Nat) : Crew := (List.range n).foldl (fun c m => c.pWr m act (x m)) c

theorem pWrs_succ (c : Crew) (act : W32) (x : Nat → Nat → Bool) (n : Nat) : pWrs c act x (n + 1) = (pWrs c act x n).pWr n act (x n) := by
  simp only [pWrs, List.range_succ, List.foldl_append, List.foldl_cons, List.foldl_nil]

/-- Each active lane of each of them is its value, and p7 is none of them (R25). -/
theorem pWrs_sets (c : Crew) (act : W32) (x : Nat → Nat → Bool) (n : Nat) (hn : n ≤ 7) :
    LaneFrame c (pWrs c act x n) ∧ (pWrs c act x n).v = c.v ∧ tget 0 (pWrs c act x n).p 7 = tget 0 c.p 7
      ∧ ∀ m, ∀ l < 32, (tget 0 (pWrs c act x n).p m).getLsbD l = if m < n ∧ act.getLsbD l = true then x m l else (tget 0 c.p m).getLsbD l := by
  induction n with
  | zero => exact ⟨LaneFrame.refl c, rfl, rfl, by simp [pWrs]⟩
  | succ n ih =>
    obtain ⟨hframe, hv, h7, hbits⟩ := ih (by omega)
    obtain ⟨hvalue, hlanes, hseven, hothers⟩ := setsPred_pWr (pWrs c act x n) act n (x n)
    rw [pWrs_succ]
    refine ⟨hframe.trans (laneFrame_pWr _ _ _ _), by rw [pWr_v, hv], hseven.trans h7, fun m l hl => ?_⟩
    by_cases hm : m = n
    · subst hm
      cases hact : act.getLsbD l with
      | true => rw [hvalue (by omega) l hl hact]; simp
      | false => rw [hlanes l hl hact, hbits m l hl]; simp
    · rw [hothers m hm, hbits m l hl]
      simp [show m < n + 1 ↔ m < n by omega]

theorem testForm_sets {s : State} {c : Crew} {r : LRun} {rs : List LRun} {f : LF} (h : FocusL s c r rs f)
    {e : Instr × Bool × List RBlk × (State → Crew → LRun → Nat → Nat → Bool)} (he : TestMeaning f e) (hok : e.2.1 = true)
    (hregs : regsOk (seenL s c f) (waitedL s.oracle c f) e.2.2.1 = true) :
    ∃ t c' c2, exec e.1 s = .next t ∧ OnlyCrew s t c' ∧ WordIssued (waitedL s.oracle c f) c' r rs ∧ c'.v = (waitedL s.oracle c f).v
      ∧ SetsPred (waitedL s.oracle c f) c2 (activeL s c r f) (f.sub % 8) (e.2.2.2 (seenL s c f) (waitedL s.oracle c f) r 0)
      ∧ (if tyCount f.ty = 2 then SetsPred c2 c' (activeL s c r f) (bits f.sub 5 3) (e.2.2.2 (seenL s c f) (waitedL s.oracle c f) r 1) else c'.p = c2.p) := by
  obtain ⟨hframe, hv, c2, hfirst, hsecond⟩ :=
    predPair_sets (waitedL s.oracle c f) f (activeL s c r f) (e.2.2.2 (seenL s c f) (waitedL s.oracle c f) r)
  obtain ⟨t, ht, honly, hissued⟩ := laneForm_ends (body := fun s c r act => lDone s (predPair c f act (e.2.2.2 s c r))) h hok hregs rfl hframe
  refine ⟨t, _, c2, (he s).trans ht, honly, hissued, by rw [wordDone_v, hv], hfirst, ?_⟩
  split
  · next htwo => rw [if_pos htwo] at hsecond; exact hsecond.of_p_eq rfl (wordDone_p _)
  · next hone => rw [if_neg hone] at hsecond; rw [wordDone_p, hsecond]

theorem vplog_sets {s : State} {c : Crew} {r : LRun} {rs : List LRun} {f : LF} (h : FocusL s c r rs f) (v : PlogVar) :
    ∃ t c', exec (.vplog v f) s = .next t ∧ OnlyCrew s t c' ∧ WordIssued (waitedL s.oracle c f) c' r rs ∧ c'.v = (waitedL s.oracle c f).v
      ∧ SetsPred (waitedL s.oracle c f) c' (activeL s c r f) (f.sub % 8)
        (fun l => plog v ((waitedL s.oracle c f).pRd s.oracle (f.va % 8) l) ((waitedL s.oracle c f).pRd s.oracle (f.vb % 8) l)) := by
  obtain ⟨t, ht, honly, hissued⟩ := laneForm_ends
    (body := fun s c _ act => lDone s (c.pWr (f.sub % 8) act (fun l => plog v (c.pRd s.oracle (f.va % 8) l) (c.pRd s.oracle (f.vb % 8) l))))
    (ok := true) (regs := []) h rfl rfl rfl (laneFrame_pWr _ _ _ _)
  refine ⟨t, _, (exec_vplog v f s).trans ht, honly, hissued, by simp, ?_⟩
  rw [seenL_oracle]
  exact (setsPred_pWr _ _ _ _).of_p_eq rfl (wordDone_p _)

/-- What VADDC and VADDC.B leave before narrowing: the sum with its carry-in, the difference with its borrow-in (R283). -/
def addcExact (v : AddcVar) (o : Nat) (s : State) (c : Crew) (r : LRun) (f : LF) (l : Nat) : Int :=
  let cin : Int := if bitAt f.sub 6 && c.pRd o (bits f.sub 5 3) l then 1 else 0
  if v = .c then (opV s c (tyRegs f.ty) f.va l : Nat) + (opBT s c r f f.ty l : Nat) + cin
  else (opV s c (tyRegs f.ty) f.va l : Nat) - (opBT s c r f f.ty l : Nat) - cin

/-- Whether it does not fit: the carry or the borrow. -/
def addcOut (v : AddcVar) (o : Nat) (s : State) (c : Crew) (r : LRun) (f : LF) (l : Nat) : Bool :=
  if v = .c then decide ((2 ^ (32 * tyRegs f.ty) : Nat) ≤ addcExact v o s c r f l) else decide (addcExact v o s c r f l < 0)

theorem exec_vaddc_eq (v : AddcVar) (f : LF) (s : State) :
    exec (.vaddc v f) s = laneForm s f ([1, 9].contains f.ty && bOk f) ([rT f.ty f.vd, rT f.ty f.va] ++ rB f (rT f.ty)) (fun s c r act =>
      lDone s ((laneWrite c act (tyRegs f.ty) f.vd (fun l => wrap (32 * tyRegs f.ty) (addcExact v s.oracle s c r f l))).pWr (f.sub % 8) act (addcOut v s.oracle s c r f))) := by
  cases v <;> rfl

theorem vaddc_sets {s : State} {c : Crew} {r : LRun} {rs : List LRun} {f : LF} (h : FocusL s c r rs f) (v : AddcVar)
    (hty : [1, 9].contains f.ty = true) (hb : bOk f = true)
    (hregs : regsOk (seenL s c f) (waitedL s.oracle c f) ([rT f.ty f.vd, rT f.ty f.va] ++ rB f (rT f.ty)) = true) :
    ∃ t c' c2, exec (.vaddc v f) s = .next t ∧ OnlyCrew s t c' ∧ WordIssued (waitedL s.oracle c f) c' r rs
      ∧ SetsLanes (waitedL s.oracle c f) c2 (activeL s c r f) (tyRegs f.ty) f.vd
        (fun l => wrap (32 * tyRegs f.ty) (addcExact v (seenL s c f).oracle (seenL s c f) (waitedL s.oracle c f) r f l)) ∧ c'.v = c2.v
      ∧ SetsPred (waitedL s.oracle c f) c' (activeL s c r f) (f.sub % 8) (addcOut v (seenL s c f).oracle (seenL s c f) (waitedL s.oracle c f) r f) := by
  obtain ⟨t, ht, honly, hissued⟩ := laneForm_ends (ok := [1, 9].contains f.ty && bOk f)
    (body := fun s c r act => lDone s ((laneWrite c act (tyRegs f.ty) f.vd (fun l => wrap (32 * tyRegs f.ty) (addcExact v s.oracle s c r f l))).pWr
      (f.sub % 8) act (addcOut v s.oracle s c r f))) h (by rw [hty, hb]; rfl) hregs rfl ((laneFrame_laneWrite _ _ _ _ _).trans (laneFrame_pWr _ _ _ _))
  exact ⟨t, _, _, (exec_vaddc_eq v f s).trans ht, honly, hissued, setsLanes_laneWrite _ _ _ _ _, by simp,
    (setsPred_pWr _ _ _ _).of_p_eq (laneWrite_p _ _ _ _ _).symm (wordDone_p _)⟩

theorem vpmov_fromv_sets {s : State} {c : Crew} {r : LRun} {rs : List LRun} {f : LF} (h : FocusL s c r rs f)
    (hregs : regsOk (seenL s c f) (waitedL s.oracle c f) [r1 f.va] = true) :
    ∃ t c', exec (.vpmov .fromv f) s = .next t ∧ OnlyCrew s t c' ∧ WordIssued (waitedL s.oracle c f) c' r rs ∧ c'.v = (waitedL s.oracle c f).v
      ∧ tget 0 c'.p 7 = tget 0 (waitedL s.oracle c f).p 7
      ∧ ∀ n < 7, ∀ l < 32, (tget 0 c'.p n).getLsbD l = if (activeL s c r f).getLsbD l then bitAt (opV (seenL s c f) (waitedL s.oracle c f) 1 f.va l) n
          else (tget 0 (waitedL s.oracle c f).p n).getLsbD l := by
  obtain ⟨hframe, hv, h7, hbits⟩ := pWrs_sets (waitedL s.oracle c f) (activeL s c r f)
    (fun n l => bitAt (opV (seenL s c f) (waitedL s.oracle c f) 1 f.va l) n) 7 (Nat.le_refl 7)
  obtain ⟨t, ht, honly, hissued⟩ := laneForm_ends (ok := true)
    (body := fun s c _ act => lDone s (pWrs c act (fun n l => bitAt (opV s c 1 f.va l) n) 7))
    h rfl hregs rfl hframe
  refine ⟨t, _, (exec_vpmov .fromv f s).trans ht, honly, hissued, by rw [wordDone_v, hv], by rw [wordDone_p, h7], fun n hn l hl => ?_⟩
  rw [wordDone_p, hbits n l hl]
  simp only [hn, true_and]

/-- Settles O16: every form writes its predicates by `pWr`, and `setsPred_pWr` says what one such write leaves. -/
theorem predicateForms : Obligations.PredicateForms := by
  intro s c r rs f h c1 s1 act
  refine ⟨fun k e he hok hregs => testForm_sets h (testForms_meaning f k e he) hok hregs, vplog_sets h, fun v hty hb hregs => ?addc,
    vpmov_fromv_sets h⟩
  case addc =>
    have hend := vaddc_sets h v hty hb hregs
    rw [seenL_oracle] at hend
    exact hend

end Sys2Proof.Claims
end
